-- ==== Sys2Proof/Word.lean ====
section
/-! DEFINITION. The words of the K4: bytes and the 16-, 32- and 64-bit words that registers, ring records and
object images are made of (00_scope R8: little-endian). Everything computed on them stands under Machine/. -/

namespace Sys2Proof

/-- One byte. -/
abbrev Byte := BitVec 8
/-- A 16-bit word. -/
abbrev W16 := BitVec 16
/-- A 32-bit word: a set-up register (R8), a ring count (R31), an FP32 code (R125). -/
abbrev W32 := BitVec 32
/-- A 64-bit word. -/
abbrev W64 := BitVec 64

end Sys2Proof
end

