-- ==== Sys2Proof/Machine/Table.lean ====
section
/-! DEFINITION. Sparse tables: the one form in which the model holds anything that is addressed by a number and of
which most entries stand at a default (device memory, host memory, registers, waypoints, Logbook slots, ports).
A table is a list of (key, value) pairs. `tset` keeps ONE canonical form: keys strictly rising and no entry equal
to the default, so that equal tables are equal data. -/

namespace Sys2Proof

/-- A sparse table over `α`; what an unlisted key reads as is the default given to `tget`. -/
abbrev Tab (α : Type) := List (Nat × α)

namespace Machine

/-- The value at a key; an unlisted key reads as the default. -/
def tget {α : Type} (d : α) : Tab α → Nat → α
  | [], _ => d
  | (k, v) :: t, i => if k = i then v else tget d t i

/-- Put a value at its place among rising keys, replacing the entry of that key. -/
def tput {α : Type} : Tab α → Nat → α → Tab α
  | [], i, v => [(i, v)]
  | (k, w) :: t, i, v =>
    if i < k then (i, v) :: (k, w) :: t
    else if i = k then (i, v) :: t
    else (k, w) :: tput t i v

/-- Remove the entry of a key. -/
def tdel {α : Type} : Tab α → Nat → Tab α
  | [], _ => []
  | (k, w) :: t, i => if k = i then tdel t i else (k, w) :: tdel t i

/-- Write a key: writing the default removes the entry. -/
def tset {α : Type} [DecidableEq α] (d : α) (t : Tab α) (i : Nat) (v : α) : Tab α :=
  if v = d then tdel t i else tput t i v

/-- Change the value at a key. -/
def tmod {α : Type} [DecidableEq α] (d : α) (t : Tab α) (i : Nat) (f : α → α) : Tab α :=
  tset d t i (f (tget d t i))

/-- Every key of the table lies above `lo`, rising, and no value is the default. -/
def twfFrom {α : Type} [DecidableEq α] (d : α) : Option Nat → Tab α → Bool
  | _, [] => true
  | lo, (k, v) :: t =>
    (match lo with | none => true | some l => decide (l < k)) && decide (v ≠ d) && twfFrom d (some k) t

/-- The canonical form: keys strictly rising, no entry equal to what an unlisted key reads as. -/
def twf {α : Type} [DecidableEq α] (d : α) (t : Tab α) : Bool := twfFrom d none t

/-- The listed keys, rising. -/
def tkeys {α : Type} (t : Tab α) : List Nat := t.map (·.1)

/-! ### Memory: a table of bytes whose default is 0 (R363: the memory test leaves zero in every unit) -/

/-- Byte-addressed memory; an unlisted address reads 0. -/
abbrev Mem := Tab Byte

/-- One byte of memory. -/
def Mem.byte (m : Mem) (a : Nat) : Byte := tget 0 m a

/-- `n` bytes from address `a`. -/
def Mem.read (m : Mem) (a n : Nat) : List Byte := (List.range n).map fun i => tget 0 m (a + i)

/-- Bytes from address `a` on as entries: those that are not 0. -/
def Mem.cells (a : Nat) : List Byte → Mem
  | [] => []
  | b :: bs => if b = 0 then Mem.cells (a + 1) bs else (a, b) :: Mem.cells (a + 1) bs

/-- Store bytes from address `a` on: what lies below, the bytes, what lies above. -/
def Mem.write (m : Mem) (a : Nat) (bs : List Byte) : Mem :=
  m.filter (fun e => decide (e.1 < a)) ++ (Mem.cells a bs ++ m.filter (fun e => decide (a + bs.length ≤ e.1)))

/-- The bytes of a range that are not 0, from address 0 on. -/
def Mem.slice (m : Mem) (a n : Nat) : Mem :=
  (m.filter fun e => decide (a ≤ e.1 ∧ e.1 < a + n)).map fun e => (e.1 - a, e.2)

/-- A range replaced whole by bytes listed from address 0 on. -/
def Mem.place (m : Mem) (a n : Nat) (d : Mem) : Mem :=
  (d.filter fun e => decide (e.1 < n)).foldl (fun m e => tset 0 m (a + e.1) e.2)
    (m.filter fun e => decide (e.1 < a) || decide (a + n ≤ e.1))

/-- What `Mem.read` answers of a memory in canonical form, in one pass. -/
def Mem.image : Mem → Nat → Nat → List Byte
  | _, _, 0 => []
  | [], a, n + 1 => 0 :: Mem.image [] (a + 1) n
  | (k, v) :: t, a, n + 1 =>
    if k = a then v :: Mem.image t (a + 1) n else 0 :: Mem.image ((k, v) :: t) (a + 1) n

/-- The canonical form of memory. -/
abbrev Mem.wf (m : Mem) : Prop := twf (0 : Byte) m = true

end Machine
end Sys2Proof
end

