-- ==== Sys2Proof/Machine/Bits.lean ====
section
/-! DEFINITION. Bytes, fields and check values: little-endian reads and writes of records (R8, R37), bit fields
[msb:lsb] (00_scope, conventions), the CRC-32C of R37 and the 64-bit mixing function of R205 and R255. -/

namespace Sys2Proof.Machine

/-- Bits [hi:lo] of a number. -/
def bits (w hi lo : Nat) : Nat := (w >>> lo) % 2 ^ (hi + 1 - lo)

/-- One bit of a number. -/
def bit (w i : Nat) : Bool := (w >>> i) % 2 == 1

/-- `w` with bits [hi:lo] replaced by the low bits of `v`. -/
def setBits (w hi lo v : Nat) : Nat :=
  w - (bits w hi lo) <<< lo + (v % 2 ^ (hi + 1 - lo)) <<< lo

/-- 1 for true. -/
def b2n (b : Bool) : Nat := if b then 1 else 0

/-- The byte at an offset; a byte past the end reads 0. -/
def u8 (b : List Byte) (o : Nat) : Nat := (b.getD o 0).toNat

/-- The little-endian number in `n` bytes from an offset. -/
def uN (b : List Byte) (o : Nat) : Nat → Nat
  | 0 => 0
  | n + 1 => u8 b o + 256 * uN b (o + 1) n

/-- 16-, 32- and 64-bit little-endian fields. -/
def u16 (b : List Byte) (o : Nat) : Nat := uN b o 2
def u32 (b : List Byte) (o : Nat) : Nat := uN b o 4
def u64 (b : List Byte) (o : Nat) : Nat := uN b o 8

/-- The 32-bit field as a word. -/
def w32 (b : List Byte) (o : Nat) : W32 := BitVec.ofNat 32 (u32 b o)

/-- The low `n` bytes of a number, little-endian. -/
def le : Nat → Nat → List Byte
  | 0, _ => []
  | n + 1, v => BitVec.ofNat 8 v :: le n (v / 256)

/-- `n` bytes from an offset. -/
def slice (b : List Byte) (o n : Nat) : List Byte := (b.drop o).take n

/-- Every byte of the range [lo, hi) of a record is 0: the check of a reserved range (R38, R43). -/
def zeros (b : List Byte) (lo hi : Nat) : Bool := (slice b lo (hi - lo)).all (· == 0)

/-- Split into chunks of `n` bytes, as many as fit whole; `fuel` bounds their number. -/
def chunks (n : Nat) : Nat → List Byte → List (List Byte)
  | 0, _ => []
  | f + 1, b => if b.length < n || n == 0 then [] else b.take n :: chunks n f (b.drop n)

/-- Signed reading of an 8-bit number. -/
def s8 (v : Nat) : Int := if v % 256 < 128 then (v % 256 : Nat) else (v % 256 : Nat) - (256 : Int)

/-- Signed reading of a 32-bit number (R96). -/
def s32 (v : Nat) : Int :=
  if v % 2 ^ 32 < 2 ^ 31 then (v % 2 ^ 32 : Nat) else (v % 2 ^ 32 : Nat) - (2 ^ 32 : Int)

/-- Quotient rounded up. -/
def cdiv (a b : Nat) : Nat := (a + b - 1) / b

/-- The least multiple of `b` at or above `a`. -/
def alignUp (a b : Nat) : Nat := cdiv a b * b

/-! ### CRC-32C (R37: Castagnoli polynomial, initial value and final XOR 0xFFFF_FFFF) -/

def crcStep (c : Nat) : Nat := if c % 2 = 1 then (c >>> 1) ^^^ 0x82F63B78 else c >>> 1

def crcByte (c : Nat) (b : Byte) : Nat :=
  crcStep (crcStep (crcStep (crcStep (crcStep (crcStep (crcStep (crcStep (c ^^^ b.toNat))))))))

def crc32c (b : List Byte) : Nat := (b.foldl crcByte 0xFFFFFFFF) ^^^ 0xFFFFFFFF

/-- The record's last four bytes are the CRC-32C of all bytes before them (R37, R43). -/
def crcTailOk (b : List Byte) : Bool :=
  4 ≤ b.length && crc32c (b.take (b.length - 4)) == u32 b (b.length - 4)

/-! ### The mixing function of R205 and R255 -/

def mix (x : Nat) : Nat :=
  let x := (x + 0x9E3779B97F4A7C15) % 2 ^ 64
  let x := ((x ^^^ (x >>> 30)) * 0xBF58476D1CE4E5B9) % 2 ^ 64
  let x := ((x ^^^ (x >>> 27)) * 0x94D049BB133111EB) % 2 ^ 64
  x ^^^ (x >>> 31)

/-! ### Lists used as sets and as queues -/

/-- Insert a number among rising numbers, once. -/
def insertNat (x : Nat) : List Nat → List Nat
  | [] => [x]
  | y :: ys => if x < y then x :: y :: ys else if x = y then y :: ys else y :: insertNat x ys

/-- Insert by a strict order, after the elements that do not rank below it. -/
def insertBy {α : Type} (lt : α → α → Bool) (x : α) : List α → List α
  | [] => [x]
  | y :: ys => if lt x y then x :: y :: ys else y :: insertBy lt x ys

/-- Sort by a strict order, keeping the order of equals. -/
def sortBy {α : Type} (lt : α → α → Bool) (l : List α) : List α :=
  l.foldl (fun acc x => insertBy lt x acc) []

/-- The least element by a strict order, the first among equals. -/
def leastBy {α : Type} (lt : α → α → Bool) : List α → Option α
  | [] => none
  | x :: xs =>
    match leastBy lt xs with
    | none => some x
    | some y => if lt y x then some y else some x

/-- No number occurs twice. -/
def distinct : List Nat → Bool
  | [] => true
  | x :: xs => !(xs.contains x) && distinct xs

/-- Numbers strictly rise. -/
def rising : List Nat → Bool
  | [] => true
  | [_] => true
  | x :: y :: r => x < y && rising (y :: r)

/-- Sum of a list of numbers. -/
def sumN (l : List Nat) : Nat := l.foldl (· + ·) 0

end Sys2Proof.Machine
end

