-- ==== Sys2Proof/Machine/Types.lean ====
section
/-! DEFINITION. The values commands and state share: status codes (R11), request handles (R59), what a host read
returned (R58), and the messages devices send one another (R341). The spec gives the messages' meaning and queue but
not their payload bytes, so a message is held as data. -/

namespace Sys2Proof

/-- The status codes of R11. -/
inductive Status where
  | ok | okTruncated | okShort | okDegraded | okGrammarEnd | okResumed
  | aborted | alreadyComplete | cancelled
  | rejectedRate | rejectedFull | rejectedSlo | notReady | badDescriptor | noResource | domainOff
  | grammarStuck | limitExceeded
  | dataError | checkMismatch | linkLost | internalFault
  deriving DecidableEq, Repr

/-- R11: the 16-bit code. -/
def Status.toCode : Status → Nat
  | .ok => 0x0000 | .okTruncated => 0x0001 | .okShort => 0x0002 | .okDegraded => 0x0003
  | .okGrammarEnd => 0x0004 | .okResumed => 0x0005
  | .aborted => 0x0010 | .alreadyComplete => 0x0011 | .cancelled => 0x0012
  | .rejectedRate => 0x0020 | .rejectedFull => 0x0021 | .rejectedSlo => 0x0022 | .notReady => 0x0023
  | .badDescriptor => 0x0024 | .noResource => 0x0025 | .domainOff => 0x0026
  | .grammarStuck => 0x0030 | .limitExceeded => 0x0031
  | .dataError => 0x0040 | .checkMismatch => 0x0041 | .linkLost => 0x0042 | .internalFault => 0x00FF

/-- R12: success, with or without a qualifier. -/
def Status.isSuccess (s : Status) : Bool := s.toCode < 0x10

/-- R59: a request handle. -/
structure Handle where
  dev : Nat
  part : Nat
  slot : Nat
  gen : Nat
  deriving DecidableEq, Repr

/-- R59: the 64-bit number of a handle. -/
def Handle.toNum (h : Handle) : Nat := h.dev <<< 48 + h.part <<< 44 + h.slot <<< 26 + h.gen

/-- R59: the handle a 64-bit number spells. -/
def Handle.ofNum (n : Nat) : Handle :=
  ⟨n / 2 ^ 48 % 2 ^ 16, n / 2 ^ 44 % 16, n / 2 ^ 26 % 2 ^ 18, n % 2 ^ 26⟩

/-- The bytes a host read returned; none when it failed (R58). -/
abbrev HostRead := Option (List Byte)

/-- What the 128 bytes of a doorbell block say (R32): sixteen tails, then the two heads. -/
structure Doorbell where
  tails : List W32
  cqHead : W32
  eqHead : W32
  deriving DecidableEq, Repr

/-- R32: the fields of a doorbell block as its 128 bytes hold them, in 32-bit little-endian words: SQ_TAIL[0..15] at bytes
0 to 63, CQ_HEAD at 64, EQ_HEAD at 68; bytes 72 to 127 are ignored. -/
def doorbellOf (b : List Byte) : Doorbell :=
  ⟨(List.range 16).map fun i => Machine.w32 b (4 * i), Machine.w32 b 64, Machine.w32 b 68⟩

/-- The 64 bytes of one descriptor slot as fetched (R35): ring, count and bytes. A taken descriptor with no such
entry is one whose read failed (R58). -/
structure DescBytes where
  sq : Nat
  count : Nat
  bytes : List Byte
  deriving DecidableEq, Repr

/-- The order of R85 and R71 for a piece of work: class in force (0 strictest), yellow C3 after green C3, then the
order of admission. -/
structure Rank where
  cls : Nat
  yellow : Bool
  order : Nat
  deriving DecidableEq, Repr

/-- R85: strictly ahead. -/
def Rank.lt (a b : Rank) : Bool :=
  if a.cls != b.cls then a.cls < b.cls
  else if a.yellow != b.yellow then !a.yellow
  else a.order < b.order

/-- A shard's record of R186: item, FP32 score, flag word. -/
structure ShardRec where
  item : Nat
  score : Nat
  flags : Nat
  deriving DecidableEq, Repr

/-- The fan-out of stage 4 (R171, R176): the query vector and what a walk depends on (R179). `home` is the device that
sent it: the handle's own, or after a takeover the survivor (R397). -/
structure FanOut where
  handle : Handle
  home : Nat
  rank : Rank
  indexId : Nat
  shardK : Nat
  ef : Nat
  evalMax : Nat
  pfDepth : Nat
  rerankN : Nat
  rerankUs : Nat
  tableWaitUs : Nat
  filterId : Nat
  vec : List Nat
  deriving DecidableEq, Repr

/-- One (candidate, lookup) of a lookup message (R214): the table and the keys this owner holds, in ascending key
position, as row numbers of the whole table. -/
structure LookupItem where
  cand : Nat
  lookup : Nat
  table : Nat
  rows : List Nat
  deriving DecidableEq, Repr

/-- The pooled partial of one (candidate, lookup) from one shard (R214). -/
structure Partial where
  cand : Nat
  lookup : Nat
  shard : Nat
  vec : List Nat
  n : Nat
  deriving DecidableEq, Repr

/-- A tagged gradient record (R219). -/
structure GradRec where
  table : Nat
  row : Nat
  src : Nat
  epoch : Nat
  pos : Nat
  grad : List Nat
  deriving DecidableEq, Repr

/-- The Logbook entry's fields that a mirror record carries and a takeover needs (R62, R392). -/
structure EntryImage where
  handle : Handle
  cls : Nat
  origCls : Nat
  yellow : Bool
  lastStage : Nat
  sq : Nat
  tag : Nat
  arrival : Nat
  ttftTarget : Nat
  ttftUs : Nat
  lastTokenUs : Nat
  profileId : Nat
  outAddr : Nat
  outLen : Nat
  desc : List Byte
  deriving DecidableEq, Repr

/-- A commit as mirrored (R392): status, DETAIL, OUT_BYTES, STAGE, completion slot (tail count) and PHASE. -/
structure Commit where
  status : Status
  detail : Nat
  outBytes : Nat
  stage : Nat
  slot : Nat
  phase : Bool
  deriving DecidableEq, Repr

/-- What a mirror record says (R392). -/
inductive MirrorMsg where
  | admission (e : EntryImage)
  | prompt (h : Handle) (toks : List Nat)
  | token (h : Handle) (pos id : Nat)
  | state (h : Handle) (st : Nat)
  | commit (h : Handle) (c : Commit)
  deriving DecidableEq, Repr

/-- A slice of one block and layer, or a share of the logits, on its way to the decode device (R267). -/
structure SliceId where
  member : Nat
  block : Nat
  layer : Nat
  deriving DecidableEq, Repr

/-- What the prefill group and the decode device must know of a request (R257, R266, R270): its handle and order, the
prompt, the reuse run, the decode device, the group, the model, variant and grammar, the sampling fields of its prompt
record (R63), EOS_ID, PREFIX_MODE, and after a takeover the tokens already committed (R271). `home` is the device that
writes its output: the handle's own, or after a takeover the survivor (R397). -/
structure GenOrder where
  h : Handle
  home : Nat
  rank : Rank
  toks : List Nat
  hashes : List Nat
  reuse : Nat
  late : List Nat
  decodeDev : Nat
  group : List Nat
  model : Nat
  variant : Nat
  grammar : Option Nat
  temp : Nat
  topP : Nat
  topK : Nat
  seed : Nat
  maxOut : Nat
  eos : Nat
  pfxMode : Nat
  committed : List Nat
  deriving DecidableEq, Repr

/-- The messages of R341, by kind. -/
inductive Msg where
  | abort (h : Handle)                                   -- Q0, R26
  | released (h : Handle)                                -- Q0, R82
  | token (h : Handle) (pos id : Nat)                    -- Q0, R23
  | genEnd (h : Handle) (st : Status) (n : Nat)          -- Q0, R23: generation has ended after n tokens
  | freeBlocks (pools : List (Nat × Nat × Nat)) (slot room : Bool) -- Q0, R18, R72: MODEL_ID, free and unreserved blocks
  | reserve (h : Handle) (model variant blocks : Nat) (grammar : Option Nat) -- Q0, R72
  | reserved (h : Handle) (table : Nat)                  -- Q0, R62, R249: the block table's index (assumption log 84)
  | prefillAdmit (h : Handle)                            -- Q0, R266
  | wpSignal (part sid step idx inc : Nat)                        -- Q0, R98
  | wpAck (sid step : Nat) (st : Status)                 -- Q0, R98
  | reshardAck (h : Handle)                              -- Q0, R268
  | ackFrame (q : Nat)                                   -- Q0, R338: an ACK frame for a queue of the receiver it goes to
  | fanOut (f : FanOut)                                  -- Q1, stage 4
  | shardList (h : Handle) (rank : Nat) (recs : List ShardRec) (short : Bool) (evals subs bad : Nat) -- Q1, R186
  | stageRefused (h : Handle) (rank stage : Nat) (st : Status) -- Q1, R29, R200: the stage that failed
  | mirror (m : MirrorMsg)                               -- Q2, R392
  | mirrorAck (m : MirrorMsg) (ok : Bool)                -- Q2, R393
  | heartbeat                                            -- Q2, R395
  | failover                                             -- Q2, R389
  | prefillCmd (o : GenOrder)                            -- Q3, R257
  | prefixSlices (h : Handle) (data : List (Nat × Machine.Mem))   -- Q3, R266: by block, in split layout
  | prefixCopy (o : GenOrder) (data : List (Nat × Machine.Mem))   -- Q3, R266, to the decode device: by block, whole
  | partialRows (h : Handle) (row : Nat) (vals : List Nat)  -- Q3, R265
  | slices (h : Handle) (id : SliceId) (data : Machine.Mem)      -- Q3, R267
  | logits (h : Handle) (member : Nat) (vals : List Nat) -- Q3, R267
  | lookup (h : Handle) (deadline : Nat) (items : List LookupItem) -- Q4, R214, R304
  | partialSum (h : Handle) (p : Partial)                -- Q4, R214
  | lookupRefused (h : Handle) (items : List LookupItem) (st : Status) -- Q4, R216
  | update (sid step : Nat) (r : GradRec)                -- Q4, R219
  | fetch (h : Handle) (indexId item deadline : Nat)     -- Q5, stage 9, R304
  | text (h : Handle) (rank item : Nat) (st : Status) (text : List Byte) (keys : List Nat) -- Q5, R317
  | bulk (sid step part addr : Nat) (bytes : List Byte)  -- Q6, R439
  | telemetry                                            -- Q7
  deriving DecidableEq, Repr

/-- R341: each kind of traffic has one fixed queue. -/
def Msg.queue : Msg → Nat
  | .abort _ | .released _ | .token .. | .genEnd .. | .freeBlocks .. | .reserve .. | .reserved .. | .prefillAdmit _ | .wpSignal .. | .wpAck .. | .reshardAck _ | .ackFrame _ => 0
  | .fanOut _ | .shardList .. | .stageRefused .. => 1
  | .mirror _ | .mirrorAck .. | .heartbeat | .failover => 2
  | .prefillCmd _ | .prefixSlices .. | .prefixCopy .. | .partialRows .. | .slices .. | .logits .. => 3
  | .lookup .. | .partialSum .. | .lookupRefused .. | .update .. => 4
  | .fetch .. | .text .. => 5
  | .bulk .. => 6
  | .telemetry => 7

/-- The request a message concerns, for the transport header (R337). -/
def Msg.handle : Msg → Option Handle
  | .abort h | .released h | .token h .. | .genEnd h .. | .reserve h .. | .reserved h _ | .prefillAdmit h | .reshardAck h | .shardList h .. | .stageRefused h ..
  | .prefixSlices h .. | .partialRows h .. | .slices h .. | .logits h .. | .lookup h ..
  | .partialSum h _ | .lookupRefused h .. | .fetch h .. | .text h .. => some h
  | .fanOut f => some f.handle
  | .prefillCmd o | .prefixCopy o _ => some o.h
  | _ => none

/-- R337: which kind of message it is, for MSG_TYPE: its place in the list above. -/
def Msg.kind : Msg → Nat
  | .abort _ => 0 | .released _ => 1 | .token .. => 2 | .genEnd .. => 3 | .freeBlocks .. => 4 | .reserve .. => 5
  | .reserved .. => 6 | .prefillAdmit _ => 7 | .wpSignal .. => 8 | .wpAck .. => 9 | .reshardAck _ => 10 | .ackFrame _ => 11
  | .fanOut _ => 12 | .shardList .. => 13 | .stageRefused .. => 14 | .mirror _ => 15 | .mirrorAck .. => 16
  | .heartbeat => 17 | .failover => 18 | .prefillCmd _ => 19 | .prefixSlices .. => 20 | .prefixCopy .. => 21
  | .partialRows .. => 22 | .slices .. => 23 | .logits .. => 24 | .lookup .. => 25 | .partialSum .. => 26
  | .lookupRefused .. => 27 | .update .. => 28 | .fetch .. => 29 | .text .. => 30 | .bulk .. => 31 | .telemetry => 32

/-- R336: the Ethernet fields ahead of the transport header: destination and source MAC, the 802.1Q tag (VID, PCP) when there
is one, and the EtherType. -/
structure Eth where
  dst : Nat
  src : Nat
  tag : Option (Nat × Nat)
  etype : Nat
  deriving DecidableEq, Repr

/-- R336, R337: a frame: its Ethernet fields, the transport header, the payload length, and the message it carries. -/
structure Frame where
  dst : Nat
  src : Nat
  queue : Nat
  part : Nat
  kind : Nat          -- 1 DATA, 2 ACK, 3 NAK
  len : Nat           -- PAYLOAD_LEN
  seq : Nat
  ackSeq : Nat
  status : Status     -- NAK only
  first : Bool
  last : Bool
  handle : Option Handle
  msgType : Nat
  eth : Eth
  msg : Option Msg
  deriving DecidableEq, Repr

/-- A stream of steps the K4 generates for requests (R104, R207, R265, R270): the PURPOSE and MODEL_ID of the entry of the
stream directory it stands for (R436), the requests it serves with their input vectors, its 64-byte steps, and where the
weight tile of an array step lies in the model's weight list (step, MATRIX, first row, first column), which the variant feed
needs (R264). `partials` names the steps of a prefill stream whose FP32 rows every member sends to the others, with the number
of the first row (R265). -/
structure ReqStream where
  purpose : Nat
  model : Nat
  hs : List (Handle × Nat)
  steps : List (List Byte)
  tiles : List (Nat × Nat × Nat × Nat)
  partials : List (Nat × Nat)
  deriving DecidableEq, Repr

/-- What went wrong in the array while one operation ran: block-rows with a parity error (R112), products that left the
last cell other than R129 gives them (row, column, FP32 code), and check terms that came out other than R112 gives them
(0 S_m, 1 T_m, 2 A_m, 3 U_n, 4 V_n, 5 B_n; m or n; FP32 code). An operation of which nothing went wrong lists nothing. -/
structure Checks where
  parity : List Nat
  prods : List (Nat × Nat × Nat)
  terms : List (Nat × Nat × Nat)
  deriving DecidableEq, Repr

/-- How a read of a memory unit ended (R296, R297): clean, corrected, transient (the re-read corrected), or
uncorrectable twice. -/
inductive ReadOutcome where
  | clean | corrected | transient | uncorrectable
  deriving DecidableEq, Repr

/-- R310, R311: a target of a flash channel that answers READ ID: the rates in MT/s it reaches in training, and its parameter
page: bytes of a data page and of its spare, planes, pages per block, capacity in Gb, whether it reads its temperature through
GET FEATURES and at which address, rated cycles, pages that share a word line (R322), and the threshold defaults of the die it
identifies (R328), as the register words of PS_THRESHOLD. -/
structure FlashTarget where
  rates : List Nat
  pageBytes : Nat
  spareBytes : Nat
  planes : Nat
  pages : Nat
  gbit : Nat
  temp : Option Nat
  cycles : Nat
  wordLine : Nat
  thresholds : List Nat
  deriving DecidableEq, Repr

/-- What a port's training attempt ended with (R334, R335): the width reached (0 none, 1, 2, 4), the lanes trained,
and the partner's exchange. -/
structure Training where
  width : Nat
  lanes : List Nat
  dev : Nat
  port : Nat
  startCount : Nat
  deriving DecidableEq, Repr

end Sys2Proof
end

