-- ==== Sys2Proof/Syntax.lean ====
section
/-! DEFINITION. The commands of the K4: one constructor per row of spec/opcode_table.json, in the table's order, each
with the operands that the outside world supplies at that step. `t` is network time in ns (R15). A step that some unit
of the K4 takes by itself is a command too: its operands then say which piece of work it is about, and what a
physical process or a model object's streams produced. -/

namespace Sys2Proof

inductive Instr where
  /-- DOORBELL_READ. R34; partition, time, the 128 bytes that the read of the doorbell block returned (none: failed, R58), the descriptor slots as fetched. -/
  | doorbellRead (p t : Nat) (blk : HostRead) (descs : List DescBytes)
  /-- SQ_ENABLE. R36; the word written to SQi_CFG, and the 128 bytes that the doorbell read of step 1 returned. -/
  | sqEnable (p i : Nat) (v : W32) (t : Nat) (blk : HostRead)
  /-- SQ_DISABLE. R36; the word written to SQi_CFG. -/
  | sqDisable (p i : Nat) (v : W32)
  /-- ADMISSION. R67; the partition's next request descriptor in the order taken. -/
  | admission (p t : Nat)
  /-- RUN_STREAM. R41; the next operation descriptor, and the read of its argument block. -/
  | runStream (p t : Nat) (arg : HostRead)
  /-- LOAD_MODEL. R436; the read of the piece at SRC_ADDR. -/
  | loadModel (p : Nat) (data : HostRead)
  /-- LOAD_VARIANT. R262. -/
  | loadVariant (p : Nat) (data : HostRead)
  /-- LOAD_INDEX_SECTION. R164. -/
  | loadIndexSection (p : Nat) (data : HostRead)
  /-- LOAD_ARC_OBJECT. R149. -/
  | loadArcObject (p : Nat) (data : HostRead)
  /-- LOAD_GRAMMAR. R274. -/
  | loadGrammar (p : Nat) (data : HostRead)
  /-- LOAD_VOCABULARY. R226. -/
  | loadVocabulary (p : Nat) (data : HostRead)
  /-- LOAD_TEMPLATE. R236. -/
  | loadTemplate (p : Nat) (data : HostRead)
  /-- LOAD_FEATURE_OBJECT. R211. -/
  | loadFeatureObject (p : Nat) (data : HostRead)
  /-- LOAD_PASSAGE_BATCH. R318. -/
  | loadPassageBatch (p : Nat) (data : HostRead)
  /-- LOAD_CONTEXT. R92. -/
  | loadContext (p : Nat) (data : HostRead)
  /-- ABORT. R80; the partition's next ABORT descriptor. -/
  | abort (p t : Nat)
  /-- EVICT. R91. -/
  | evict (p : Nat)
  /-- OBJECT_MEMORY_FREE. R91. -/
  | objectMemoryFree (kind id : Nat)
  /-- SET_PROFILE. R45; the read of the 256-byte record at ARG_ADDR. -/
  | setProfile (p : Nat) (rec : HostRead)
  /-- NOP. R44. -/
  | nop (p : Nat)
  /-- COMPLETION_RECORD_WRITTEN. R65; the Logbook slot. -/
  | completionRecordWritten (slot : Nat)
  /-- DSB_HEARTBEAT. R54; whether Astrolabe could write it (R388). -/
  | dsbHeartbeat (t : Nat) (written : Bool)
  /-- ABORT_TIMEOUT. R82. -/
  | abortTimeout (slot t : Nat)
  /-- RELEASE_REPORT. R82. -/
  | releaseReport (h : Handle) (dev : Nat)
  /-- ABORT_MESSAGE. R26. -/
  | abortMessage (h : Handle)
  /-- PRED_WINDOW. R73. -/
  | predWindow (t : Nat)
  /-- PF_SHARE_ADJUST. R79. -/
  | pfShareAdjust (t : Nat)
  /-- FREE_BLOCK_REPORT. R18, R72; MODEL_ID, free and unreserved blocks of each generator, a free block-table slot, room under
  R279. This device's own report says what its state says. -/
  | freeBlockReport (dev : Nat) (pools : List (Nat × Nat × Nat)) (slot room : Bool)
  /-- ARRAY_ACCEPTANCE. R107; the operation streams generated for requests since the last acceptance. -/
  | arrayAcceptance (t : Nat) (fresh : List ReqStream)
  /-- CONTEXT_SWAP. R90; ns the swap took. -/
  | contextSwap (t took : Nat)
  /-- OPERATION_COMPLETE. R108; what went wrong in the array (R112), the empty slots of its run (R111, R139), and the CK_ARR
  cycles without a real vector that followed its last one (R122). -/
  | operationComplete (t : Nat) (ck : Checks) (empty gap : Nat)
  /-- BLOCK_LINE_RETIREMENT. R384. -/
  | blockLineRetirement (t : Nat)
  /-- ARRAY_RAMP_DOWN. R121; the groups gated when the ramp ended, or an operation stopped it. -/
  | arrayRampDown (t gated : Nat)
  /-- ARC_APPLY. R154; the stream whose head step runs. -/
  | arcApply (sid : Nat)
  /-- ARC_SOFTMAX. R156. -/
  | arcSoftmax (sid : Nat)
  /-- ARC_SOFTMAX_PART. R158. -/
  | arcSoftmaxPart (sid : Nat)
  /-- ARC_ROWSCALE. R159. -/
  | arcRowscale (sid : Nat)
  /-- ARC_RMSNORM. R160. -/
  | arcRmsnorm (sid : Nat)
  /-- SEXTANT_SELECT. R196. -/
  | sextantSelect (sid : Nat)
  /-- SEXTANT_COMPACT. R197. -/
  | sextantCompact (sid : Nat)
  /-- FEATURE_UPDATE. R218. -/
  | featureUpdate (sid t : Nat)
  /-- WAYPOINT_WAIT. R438. -/
  | waypointWait (sid t : Nat)
  /-- WAYPOINT_SIGNAL. R438. -/
  | waypointSignal (sid t : Nat)
  /-- MOVE_COPY. R439. -/
  | moveCopy (sid : Nat)
  /-- MOVE_TRANSPOSE. R439. -/
  | moveTranspose (sid : Nat)
  /-- REMOTE_WAYPOINT_SIGNAL. R98; sender, its partition, stream and step, waypoint, increment. -/
  | remoteWaypointSignal (src part sid step idx inc t : Nat)
  /-- WAYPOINT_SIGNAL_ACK. R98. -/
  | waypointSignalAck (sid step : Nat) (st : Status)
  /-- WAYPOINT_WAIT_TIMEOUT. R97. -/
  | waypointWaitTimeout (t : Nat)
  /-- REGULATOR_REFILL. R93. -/
  | regulatorRefill (t : Nat)
  /-- PARTITION_ENABLE. R84; the word written to PART_CTRL. -/
  | partitionEnable (p : Nat) (v : W32) (t : Nat)
  /-- PARTITION_DISABLE. R84. -/
  | partitionDisable (p : Nat) (v : W32)
  /-- PARTITION_DRAIN_END. R84. -/
  | partitionDrainEnd (p t : Nat)
  /-- WAYPOINT_RANGE_WRITE. R95; WP_BASE, or WP_COUNT when count is set. -/
  | waypointRangeWrite (p : Nat) (count : Bool) (v : W32)
  /-- QUERY_TOKENISATION. R231; the read of the query text. -/
  | queryTokenisation (slot t : Nat) (text : HostRead)
  /-- EMBEDDING. R19; the FP32 codes the embedder computed. -/
  | embedding (slot t : Nat) (vec : List Nat)
  /-- QUERY_FAN_OUT. R171. -/
  | queryFanOut (f : FanOut) (t : Nat)
  /-- TABLE_BATCH_ISSUE. R172. -/
  | tableBatchIssue (index part t : Nat)
  /-- DISTANCE_TABLE_WRITE. R174. -/
  | distanceTableWrite (h : Handle)
  /-- WALK_START. R175; a lane that raised a parity error (R189). -/
  | walkStart (h : Handle) (laneErr : Option Nat)
  /-- WALK_EXPANSION. R176; a lane that raised a parity error (R189). -/
  | walkExpansion (h : Handle) (t : Nat) (laneErr : Option Nat)
  /-- NEIGHBOUR_LIST_ARRIVAL. R180. -/
  | neighbourListArrival (h : Handle) (item t : Nat)
  /-- PREFETCH_LINE_AGEING. R181. -/
  | prefetchLineAgeing (t : Nat)
  /-- FULL_VECTOR_ARRIVAL. R185; the bytes of the vector at which 32-byte units failed twice (R297). -/
  | fullVectorArrival (h : Handle) (item t : Nat) (bad : List Nat)
  /-- SKETCH_SCAN. R188; a lane that raised a parity error (R189). -/
  | sketchScan (index part t : Nat) (laneErr : Option Nat)
  /-- SHARD_LIST_RECEIVE. R198; the shard's substitutions (R186). -/
  | shardListReceive (h : Handle) (rank t : Nat) (recs : List ShardRec) (short : Bool) (subs : Nat)
  /-- MERGE_DEADLINE. R200. -/
  | mergeDeadline (slot t : Nat)
  /-- PASSAGE_FETCH. R317; whether every codeword was delivered correct (R327). -/
  | passageFetch (home : Nat) (h : Handle) (index item t : Nat) (good : Bool)
  /-- PASSAGE_TEXT_RECEIVE. R240; the rank of the shard whose item it is (R163). -/
  | passageTextReceive (slot rank item t : Nat) (st : Status) (text : List Byte) (keys : List Nat)
  /-- READ_DEADLINE_REMOVAL. R304. -/
  | readDeadlineRemoval (t : Nat)
  /-- PASSAGE_TOKENISATION. R233. -/
  | passageTokenisation (slot t : Nat)
  /-- CROSS_ENCODER_RERANK. R203; the FP32 score of each scored candidate, in merged order. -/
  | crossEncoderRerank (slot t : Nat) (scores : List Nat)
  /-- FEATURE_LOOKUP. R214. -/
  | featureLookup (home : Nat) (h : Handle) (deadline : Nat) (items : List LookupItem) (t : Nat)
  /-- FEATURE_PARTIAL_RECEIVE. R215. -/
  | featurePartialReceive (slot : Nat) (p : Partial) (t : Nat)
  /-- FEATURE_DEADLINE. R216. -/
  | featureDeadline (slot t : Nat)
  /-- PACKING. R238. -/
  | packing (slot t : Nat)
  /-- PREFIX_LOOKUP. R257. -/
  | prefixLookup (slot t : Nat)
  /-- PREFILL_ADMISSION. R266; the member that admits. -/
  | prefillAdmission (h : Handle) (member t : Nat)
  /-- PARTIAL_ROWS_RECEIVE. R265; FP32 codes. -/
  | partialRowsReceive (h : Handle) (member row : Nat) (vals : List Nat)
  /-- PREFILL_DONE. R267; this member's vocabulary share of the last position's logits. -/
  | prefillDone (h : Handle) (t : Nat) (logits : List Nat)
  /-- RESHARD_SLICE_RECEIVE. R267; a slice and its key/value bytes, or with logits a member's logit share. -/
  | reshardSliceReceive (h : Handle) (id : SliceId) (t : Nat) (d : Machine.Mem) (logits : Option (List Nat))
  /-- RESHARD_ACK_RECEIVE. R268. -/
  | reshardAckReceive (h : Handle)
  /-- DECODE_STEP. R270; each sequence's FP32 logit row. -/
  | decodeStep (model t : Nat) (rows : List (Handle × List Nat))
  /-- MASK_BUILT. R278. -/
  | maskBuilt (h : Handle) (t : Nat)
  /-- TOKEN_COMMIT. R23. -/
  | tokenCommit (slot pos id t : Nat)
  /-- OUTPUT_WRITE_DONE. R75. -/
  | outputWriteDone (slot t : Nat)
  /-- KV_SPILL. R251; the generator slot. -/
  | kvSpill (g : Nat)
  /-- PREFIX_READ_BACK. R253; the spill block read back, and the bytes of it at which 32-byte units failed twice (R297). -/
  | prefixReadBack (g spill t : Nat) (bad : List Nat)
  /-- PREFIX_AGEING. R259. -/
  | prefixAgeing (t : Nat)
  /-- VARIANT_HBM_COPY. R263. -/
  | variantHbmCopy (id : Nat)
  /-- UPDATE_RECORD_RECEIVE. R219. -/
  | updateRecordReceive (r : GradRec)
  /-- UPDATE_EPOCH_END. R219. -/
  | updateEpochEnd (t : Nat)
  /-- EPOCH_APPLY. R220. -/
  | epochApply (epoch t : Nat)
  /-- ROW_CACHE_AGEING. R217. -/
  | rowCacheAgeing (t : Nat)
  /-- VOCABULARY_CACHE_AGEING. R227. -/
  | vocabularyCacheAgeing (t : Nat)
  /-- SCRUB_ACCESS. R298; tier 0 HBM, 1 board, 2 tile store, 3 Logbook; whether foreground wrote the unit in between (R299). -/
  | scrubAccess (tier ch t : Nat) (res : ReadOutcome) (written : Bool)
  /-- UNIT_COPY. R302; whether the unit could be read correctly. -/
  | unitCopy (tier ch t : Nat) (good : Bool)
  /-- BANK_RETIREMENT. R308; the words of the bank that could not be read correctly. -/
  | bankRetirement (bank t : Nat) (bad : List Nat)
  /-- BOARD_WRITE_BACK. R294. -/
  | boardWriteBack (line t : Nat) (evicted : Bool)
  /-- ERROR_WINDOW_BOUNDARY. R382; the window's length: 0 for 1 s, 1 for 1 h, 24 for 24 h. -/
  | errorWindowBoundary (hours t : Nat)
  /-- FLASH_CODEWORD_READ. R327; corrected bits, re-reads, the package temperature in degrees C (R328). -/
  | flashCodewordRead (die set page corrected rereads t : Nat) (temp : Int) (good : Bool)
  /-- BLOCK_SET_VERIFY. R321; the package temperature, and of each page read the corrected bits and whether it read correct. -/
  | blockSetVerify (die set t : Nat) (temp : Int) (pages : List (Nat × Nat × Bool))
  /-- PASSAGE_BATCH_COMMIT. R319; the dies and block sets at which a program failed (R322). -/
  | passageBatchCommit (t : Nat) (bad : List (Nat × Nat))
  /-- LOG_MERGE. R314. -/
  | logMerge (die t : Nat)
  /-- BLOCK_SET_REWRITE. R329. -/
  | blockSetRewrite (die set t : Nat)
  /-- PATROL_READ. R329; as FLASH_CODEWORD_READ. -/
  | patrolRead (die set t corrected rereads : Nat) (temp : Int) (good : Bool)
  /-- FRAME_RECEIVE_DATA. R338; the lane an FCS failure is charged to (R383). -/
  | frameReceiveData (port : Nat) (f : Frame) (fcsOk : Bool) (lane t : Nat)
  /-- FRAME_RECEIVE_ACK. R338. -/
  | frameReceiveAck (port : Nat) (f : Frame) (t : Nat)
  /-- FRAME_RECEIVE_NAK. R340. -/
  | frameReceiveNak (port : Nat) (f : Frame) (t : Nat)
  /-- ACK_SEND. R338. -/
  | ackSend (dev q t : Nat)
  /-- ACK_TIMEOUT. R338. -/
  | ackTimeout (dev q t : Nat)
  /-- FRAME_TRANSMIT. R342; payload bytes of the frame sent and whether it ends its message. -/
  | frameTransmit (port t len : Nat) (last : Bool)
  /-- CALENDAR_SLOT. R344. -/
  | calendarSlot (port t : Nat)
  /-- GATE_ENTRY_BOUNDARY. R345. -/
  | gateEntryBoundary (port t : Nat)
  /-- LIST_SWITCH_NOW. R348. -/
  | listSwitchNow (port t : Nat)
  /-- LIST_SWITCH_AT_TIME. R348. -/
  | listSwitchAtTime (port t : Nat)
  /-- TRAINING_ATTEMPT. R334. -/
  | trainingAttempt (port t : Nat) (r : Training)
  /-- PORT_ENABLE. R361; the word written to PORT_CTRL. -/
  | portEnable (port : Nat) (v : W32) (t : Nat)
  /-- PTP_MESSAGE. R350; whether it is the master's Sync, and the measured offset in ns. -/
  | ptpMessage (port t : Nat) (sync : Bool) (offset : Int)
  /-- HOLDOVER_ENTRY. R352. -/
  | holdoverEntry (t : Nat)
  /-- FREE_RUN_ENTRY. R352. -/
  | freeRunEntry (t : Nat)
  /-- PPS_IN_EDGE. R417. -/
  | ppsInEdge (pin t : Nat)
  /-- DEVICE_RESET. R355; the rail that left its range, or none for a settled reset input. -/
  | deviceReset (rail : Option Nat)
  /-- DEVICE_START. R355; whether the fitted parts are those of the saved settings (R357). -/
  | deviceStart (t : Nat) (sameParts : Bool)
  /-- CONFIGURATION_READY. R359. -/
  | configurationReady
  /-- LOGIC_BIST. R378; the domains whose signature differed. -/
  | logicBist (failed : List Nat)
  /-- INTERFACE_TRAINING. R361; HBM sites that did not train, board capacities in GiB and trained rates by channel, and of each ONFI channel what its targets answer (R311). -/
  | interfaceTraining (hbm capacity rates : List Nat) (chans : List (List FlashTarget)) (t : Nat)
  /-- MEMORY_TEST. R363; per channel and bank, and for the Logbook, whether an uncorrectable error came and the corrected ones. -/
  | memoryTest (hbm board banks : List (Nat × Bool × Nat)) (logbook : Bool × Nat)
  /-- DEFECT_MAP_BUILD. R366; whether a checkpoint of the passage-store map verified (R367). -/
  | defectMapBuild (t : Nat) (mapOk : Bool)
  /-- SETUP_DONE. R370. -/
  | setupDone (t : Nat)
  /-- ETR_READ. R371. -/
  | etrRead (rec : HostRead) (t : Nat)
  /-- TOPO_WAIT_EXPIRY. R373. -/
  | topoWaitExpiry (t : Nat)
  /-- BIST_START. R379; the word written to BIST_CTRL. -/
  | bistStart (v : W32)
  /-- LC_REQUEST. R424; whether the authorisation verifies (R381). -/
  | lcRequest (v : W32) (auth : Bool)
  /-- WATCHDOG_STRIKE. R388. -/
  | watchdogStrike (t : Nat)
  /-- WATCHDOG_EXPIRY. R388. -/
  | watchdogExpiry (t : Nat)
  /-- TWIN_HEARTBEAT_SEND. R395. -/
  | twinHeartbeatSend (t : Nat)
  /-- TWIN_HEARTBEAT_RECEIVE. R395; sender, and the twin it names (R391). -/
  | twinHeartbeatReceive (src names : Nat)
  /-- HEARTBEAT_MISS. R396; one interval of the heartbeat clock ends. -/
  | heartbeatMiss (t : Nat)
  /-- TWIN_DSB_READ. R396. -/
  | twinDsbRead (dsb : HostRead) (t : Nat)
  /-- FAILOVER. R396. -/
  | failover (src t : Nat)
  /-- TAKEOVER_SLOT_READ. R397; the MIRROR entry's slot. -/
  | takeoverSlotRead (slot t : Nat) (rec : HostRead)
  /-- MIRROR_RECORD. R392. -/
  | mirrorRecord (src : Nat) (m : MirrorMsg)
  /-- MIRROR_ACK. R393. -/
  | mirrorAck (m : MirrorMsg) (ok : Bool) (t : Nat)
  /-- DOMAIN_DISABLE. R406. -/
  | domainDisable (d t : Nat)
  /-- DOMAIN_ENABLE. R408. -/
  | domainEnable (d : Nat)
  /-- DOMAIN_DRAIN_DONE. R407. -/
  | domainDrainDone (d t : Nat)
  /-- DOMAIN_ISOLATION_DONE. R406. -/
  | domainIsolationDone (d t : Nat)
  /-- DOMAIN_POWER_UP_DONE. R406. -/
  | domainPowerUpDone (d t : Nat)
  /-- SIDEBAND_INPUT_CHANGE. R416; 0 THROTTLE_N, 1 PWR_FAIL_N, 2 PERST_N, 3 SYS_RST_N, after 10 equal samples. -/
  | sidebandInputChange (pin t : Nat) (active : Bool)
  /-- SIDEBAND_UNSETTLED. R416. -/
  | sidebandUnsettled (pin t : Nat)
  /-- THROTTLE_STUCK. R414. -/
  | throttleStuck (t : Nat)
  /-- THERMTRIP. R413. -/
  | thermtrip (temp : Nat)
  /-- POWER_LIMIT_TICK. R412; the 1 ms average. -/
  | powerLimitTick (t watts : Nat)
  /-- TEMPERATURE_CROSSING. R412; the hottest junction sensor, in degrees C. -/
  | temperatureCrossing (temp : Nat)
  /-- REFCLK_LOSS. R410; 0 REFCLK_PCIE, 1 REFCLK_SYS, 2 REFCLK_SERDES. -/
  | refclkLoss (clk : Nat) (present : Bool) (t : Nat)
  /-- PIN_FUNCTION_SWITCH. R418; the word written to GPIO_MUX_CFG[k], and whether a transaction was in flight. -/
  | pinFunctionSwitch (k : Nat) (v : W32) (busy : Bool)
  /-- PIN_SWITCH_END. R418. -/
  | pinSwitchEnd (k : Nat)
  /-- COUNTER_SELECT. R432. -/
  | counterSelect (i : Nat) (v : W32)
  /-- SNAP. R433; the word written to SNAP_CTRL. -/
  | snap (v : W32)
  /-- PERIODIC_SNAPSHOT. R433. -/
  | periodicSnapshot (t : Nat)
  /-- NT_TIME_LO_READ. R429. -/
  | ntTimeLoRead (t : Nat)
  /-- PS_DEAD_BYTES_LO_READ. R428. -/
  | psDeadBytesLoRead
  /-- NT_STATUS_READ. R429. -/
  | ntStatusRead
  /-- MISALIGNED_ACCESS. R10. -/
  | misalignedAccess (offset size : Nat) (write : Bool)
  /-- REGISTER_WRITE. R422. -/
  | registerWrite (offset : Nat) (v : W32) (t : Nat)
  /-- MCTP_SET_ENDPOINT_ID. R374. -/
  | mctpSetEndpointId (eid : Nat)
  /-- MCTP_GET_ENDPOINT_ID. R374. -/
  | mctpGetEndpointId
  /-- MCTP_OTHER_MESSAGE. R374. -/
  | mctpOtherMessage
  /-- JTAG_IDCODE. R380. -/
  | jtagIdcode
  /-- JTAG_BYPASS. R380. -/
  | jtagBypass
  /-- JTAG_SAMPLE_PRELOAD. R380. -/
  | jtagSamplePreload
  /-- JTAG_OTHER_INSTRUCTION. R380. -/
  | jtagOtherInstruction (code : Nat)
  /-- LANE_LOCK_LOSS. R383. -/
  | laneLockLoss (port lane t : Nat)
  /-- PROGRAM_OR_ERASE_DONE. R321. -/
  | programOrEraseDone (die set t : Nat) (erase good : Bool)
  /-- STACK_TEMPERATURE_REPORT. R290; degrees C, and the on-die corrections of each of its channels. -/
  | stackTemperatureReport (stack temp : Nat) (odc : List (Nat × Nat))
  /-- CONFIGURATION_REQUEST. R359; a write of the bus-master enable, or none for any other request. -/
  | configurationRequest (busMaster : Option Bool)
  /-- SYNC_INTERVAL. R350. -/
  | syncInterval (t : Nat)
  /-- PPS_OUT. R417. -/
  | ppsOut (t : Nat)
  deriving DecidableEq, Repr

end Sys2Proof
end

