-- ==== Sys2Proof/Decode.lean ====
section
/-! DEFINITION. The words of spec/opcode_table.json. No row of the table gives any bits: the K4 takes commands, it
decodes no instruction word, so no word spells a command (assumption log 20). -/

namespace Sys2Proof

/-- The command a word spells by the table's bits: no row gives bits, so none. -/
def decodeTableWord (_nbits _w : Nat) : Option Instr := none

end Sys2Proof
end

