-- ==== Sys2Proof/Config.lean ====
section
/-! DEFINITION. What the spec leaves open and nothing in the model may fix: opaque constants with no body, so that no
proof can rest on a value of theirs and every claim holds whatever they are. -/

namespace Sys2Proof.Config

/-- R145: a built-in function's FP32 result is ONE of the two neighbours of the exact value; which one the spec does
not say. True: the upper one. Arguments: the FUNC code and the input's FP32 code. (Assumption log 5.) -/
opaque roundUp : Nat → Nat → Bool

/-- A value the spec leaves open with no bound at all: the argument is the model's counter `State.free`, advanced at
every use. (Assumption log 6.) -/
opaque freeValue : Nat → Nat

/-- A result for which the spec states a rule that does not reach some inputs: the first argument names the rule, the
second is the input. (Assumption log 21.) -/
opaque openResult : Nat → Nat → Nat

end Sys2Proof.Config
end

