-- ==== Sys2Proof/Machine/Fp.lean ====
section
/-! DEFINITION. Number formats and accumulation (06_number_formats R125-R137): the encodings, exact arithmetic on
decoded values, the one rounding `round_fp32` (R130), the narrowing conversions (R136) and the MX block writer
(R137). Codes are plain numbers inside this file; a decoded value is an `FV`. -/

namespace Sys2Proof.Machine

/-- A decoded value: NaN, an infinity, or sign, magnitude and power of two (a zero keeps its sign). -/
inductive FV where
  | nan
  | inf (neg : Bool)
  | fin (neg : Bool) (m : Nat) (e : Int)
  deriving DecidableEq, Repr

/-- What an element format does at its all-ones exponent (R125). -/
inductive TopKind where
  | ieee   -- infinity and NaN
  | e4m3   -- finite but for mantissa all ones, which is NaN
  | finite -- finite throughout
  deriving DecidableEq, Repr

/-- A floating-point format of R125. -/
structure FpFmt where
  eb : Nat
  mb : Nat
  bias : Nat
  top : TopKind
  deriving DecidableEq, Repr

def fmtFp32 : FpFmt := ⟨8, 23, 127, .ieee⟩
def fmtBf16 : FpFmt := ⟨8, 7, 127, .ieee⟩
def fmtE4m3 : FpFmt := ⟨4, 3, 7, .e4m3⟩
def fmtE5m2 : FpFmt := ⟨5, 2, 15, .ieee⟩
def fmtE3m2 : FpFmt := ⟨3, 2, 3, .finite⟩
def fmtE2m3 : FpFmt := ⟨2, 3, 1, .finite⟩
def fmtE2m1 : FpFmt := ⟨2, 1, 1, .finite⟩

/-- R125: decode a code. -/
def fpDecode (f : FpFmt) (c : Nat) : FV :=
  let m := c % 2 ^ f.mb
  let ex := (c >>> f.mb) % 2 ^ f.eb
  let neg := bit c (f.eb + f.mb)
  let topEx := 2 ^ f.eb - 1
  if ex = topEx && f.top = .ieee then (if m = 0 then .inf neg else .nan)
  else if ex = topEx && f.top = .e4m3 && m = 2 ^ f.mb - 1 then .nan
  else if ex = 0 then .fin neg m (1 - (f.bias : Int) - f.mb)
  else .fin neg (2 ^ f.mb + m) ((ex : Int) - f.bias - f.mb)

/-- The code of the largest finite magnitude. -/
def fpMaxCode (f : FpFmt) : Nat :=
  match f.top with
  | .ieee => (2 ^ f.eb - 1) <<< f.mb - 1
  | .e4m3 => 2 ^ (f.eb + f.mb) - 2
  | .finite => 2 ^ (f.eb + f.mb) - 1

/-- The floor of log2 (n / d), for n, d > 0. -/
def ilog2Rat (n d : Nat) : Int :=
  let l : Int := (Nat.log2 n : Int) - Nat.log2 d
  let below := if 0 ≤ l then n < d * 2 ^ l.toNat else n * 2 ^ (-l).toNat < d
  if below then l - 1 else l

/-- Quotient, remainder-vs-half comparison: round n/d to the nearest integer, ties to even. -/
def rneDiv (n d : Nat) : Nat :=
  let q := n / d
  let r := n % d
  if 2 * r < d then q else if d < 2 * r then q + 1 else if q % 2 = 0 then q else q + 1

/-- The magnitude code nearest to n/d (ties to even), unbounded above: subnormals are kept (R130, R136). -/
def roundMag (f : FpFmt) (n d : Nat) : Nat :=
  if n = 0 then 0 else
  let emin : Int := 1 - (f.bias : Int)
  let ex := max (ilog2Rat n d) emin
  let qe := ex - f.mb
  let k := if 0 ≤ qe then rneDiv n (d * 2 ^ qe.toNat) else rneDiv (n * 2 ^ (-qe).toNat) d
  (ex + f.bias - 1).toNat <<< f.mb + k

/-- The magnitude code just at or below n/d (rounding towards zero), unbounded above. -/
def truncMag (f : FpFmt) (n d : Nat) : Nat :=
  if n = 0 then 0 else
  let emin : Int := 1 - (f.bias : Int)
  let ex := max (ilog2Rat n d) emin
  let qe := ex - f.mb
  let k := if 0 ≤ qe then n / (d * 2 ^ qe.toNat) else (n * 2 ^ (-qe).toNat) / d
  (ex + f.bias - 1).toNat <<< f.mb + k

/-- The sign bit at its place. -/
def signCode (f : FpFmt) (neg : Bool) : Nat := if neg then 2 ^ (f.eb + f.mb) else 0

/-- m × 2^e as a fraction. -/
def dyadic (m : Nat) (e : Int) : Nat × Nat :=
  if 0 ≤ e then (m * 2 ^ e.toNat, 1) else (m, 2 ^ (-e).toNat)

/-- The canonical NaN of FP32 (R126). -/
def nan32 : Nat := 0x7FC00000
/-- FP32 infinities and 1.0. -/
def pinf32 : Nat := 0x7F800000
def ninf32 : Nat := 0xFF800000
def one32 : Nat := 0x3F800000

/-- R130: round_fp32. Beyond the largest finite value the result is an infinity of the sign. -/
def round32 (v : FV) : Nat :=
  match v with
  | .nan => nan32
  | .inf n => if n then ninf32 else pinf32
  | .fin n m e =>
    let (a, b) := dyadic m e
    signCode fmtFp32 n + min (roundMag fmtFp32 a b) pinf32

/-- Round a fraction ±a/b to FP32 (R130). -/
def round32Rat (neg : Bool) (a b : Nat) : Nat :=
  signCode fmtFp32 neg + min (roundMag fmtFp32 a b) pinf32

def dec32 (c : Nat) : FV := fpDecode fmtFp32 c

/-! ### Exact arithmetic on decoded values -/

def FV.neg : FV → FV
  | .nan => .nan
  | .inf n => .inf (!n)
  | .fin n m e => .fin (!n) m e

def FV.abs : FV → FV
  | .nan => .nan
  | .inf _ => .inf false
  | .fin _ m e => .fin false m e

def FV.isNan : FV → Bool
  | .nan => true
  | _ => false

def FV.isInf : FV → Bool
  | .inf _ => true
  | _ => false

def FV.isFin : FV → Bool
  | .fin .. => true
  | _ => false

def FV.isZero : FV → Bool
  | .fin _ 0 _ => true
  | _ => false

/-- The signed integer m of a finite value at exponent e' ≤ e. -/
def alignInt (n : Bool) (m : Nat) (e e' : Int) : Int :=
  let v : Int := (m * 2 ^ (e - e').toNat : Nat)
  if n then -v else v

/-- Exact sum; an exact zero is +0 unless both are −0 (R130); ∞ − ∞ is NaN (R132). -/
def FV.add : FV → FV → FV
  | .nan, _ => .nan
  | _, .nan => .nan
  | .inf a, .inf b => if a == b then .inf a else .nan
  | .inf a, _ => .inf a
  | _, .inf b => .inf b
  | .fin n m e, .fin n' m' e' =>
    let k := min e e'
    let s := alignInt n m e k + alignInt n' m' e' k
    if s = 0 then .fin (n && n' && m = 0 && m' = 0) 0 0
    else .fin (decide (s < 0)) s.natAbs k

/-- Exact product; ∞ × 0 is NaN (R132). -/
def FV.mul : FV → FV → FV
  | .nan, _ => .nan
  | _, .nan => .nan
  | .inf a, .inf b => .inf (a != b)
  | .inf a, .fin n m _ => if m = 0 then .nan else .inf (a != n)
  | .fin n m _, .inf b => if m = 0 then .nan else .inf (n != b)
  | .fin n m e, .fin n' m' e' => .fin (n != n') (m * m') (e + e')

/-- Multiply by 2^k exactly. -/
def FV.scale (v : FV) (k : Int) : FV :=
  match v with
  | .fin n m e => .fin n m (e + k)
  | v => v

/-- Order of two numbers by value (−0 = +0, infinities at the ends); false when either is NaN. -/
def FV.lt : FV → FV → Bool
  | .nan, _ => false
  | _, .nan => false
  | .inf a, .inf b => a && !b
  | .inf a, _ => a
  | _, .inf b => !b
  | .fin n m e, .fin n' m' e' =>
    let k := min e e'
    decide (alignInt n m e k < alignInt n' m' e' k)

/-- Equal by value; false when either is NaN. -/
def FV.eqv (a b : FV) : Bool := !a.isNan && !b.isNan && !a.lt b && !b.lt a

def FV.le (a b : FV) : Bool := a.lt b || a.eqv b

/-! ### FP32 operations, one rounding each (R130) -/

def add32 (a b : Nat) : Nat := round32 ((dec32 a).add (dec32 b))
def sub32 (a b : Nat) : Nat := round32 ((dec32 a).add (dec32 b).neg)
def mul32 (a b : Nat) : Nat := round32 ((dec32 a).mul (dec32 b))
def fma32 (a b c : Nat) : Nat := round32 (((dec32 a).mul (dec32 b)).add (dec32 c))

/-- Sum from +0 in list order, one rounding per addition. -/
def sum32 (l : List Nat) : Nat := l.foldl add32 0

/-! ### Element formats by the codes of R104 -/

/-- The element formats an operand may have (R104, plus FP32 as 0x9). -/
inductive Elt where
  | e4m3 | e5m2 | int8 | mxE4m3 | mxE5m2 | mxE3m2 | mxE2m3 | mxE2m1 | bf16 | fp32
  deriving DecidableEq, Repr

def Elt.ofCode : Nat → Option Elt
  | 0 => some .e4m3 | 1 => some .e5m2 | 2 => some .int8 | 3 => some .mxE4m3 | 4 => some .mxE5m2
  | 5 => some .mxE3m2 | 6 => some .mxE2m3 | 7 => some .mxE2m1 | 8 => some .bf16 | 9 => some .fp32
  | _ => none

/-- Block formats (R127). -/
def Elt.isMx : Elt → Bool
  | .mxE4m3 | .mxE5m2 | .mxE3m2 | .mxE2m3 | .mxE2m1 => true
  | _ => false

/-- Bits per element. -/
def Elt.width : Elt → Nat
  | .e4m3 | .e5m2 | .int8 | .mxE4m3 | .mxE5m2 => 8
  | .mxE3m2 | .mxE2m3 => 6
  | .mxE2m1 => 4
  | .bf16 => 16
  | .fp32 => 32

/-- The floating-point layout of the elements; none for INT8. -/
def Elt.fp : Elt → Option FpFmt
  | .e4m3 | .mxE4m3 => some fmtE4m3
  | .e5m2 | .mxE5m2 => some fmtE5m2
  | .mxE3m2 => some fmtE3m2
  | .mxE2m3 => some fmtE2m3
  | .mxE2m1 => some fmtE2m1
  | .bf16 => some fmtBf16
  | .fp32 => some fmtFp32
  | .int8 => none

/-- The value of an element code. -/
def Elt.val (t : Elt) (c : Nat) : FV :=
  match t.fp with
  | some f => fpDecode f c
  | none =>
    let s := s8 c
    .fin (decide (s < 0)) s.natAbs 0

/-- R128: element i of a row of packed bytes. -/
def Elt.code (t : Elt) (row : List Byte) (i : Nat) : Nat :=
  match t.width with
  | 4 => bits (u8 row (i / 2)) (4 * (i % 2) + 3) (4 * (i % 2))
  | 6 => bits (uN row (3 * (i / 4)) 3) (6 * (i % 4) + 5) (6 * (i % 4))
  | 16 => u16 row (2 * i)
  | 32 => u32 row (4 * i)
  | _ => u8 row i

/-- Bytes that `n` packed elements take (R128). -/
def Elt.bytes (t : Elt) (n : Nat) : Nat :=
  match t.width with
  | 4 => cdiv n 2
  | 6 => 3 * cdiv n 4
  | w => n * (w / 8)

/-- R128: pack element codes into bytes. -/
def Elt.pack (t : Elt) (cs : List Nat) : List Byte :=
  let n := cs.length
  match t.width with
  | 4 => (List.range (cdiv n 2)).map fun j => BitVec.ofNat 8 (cs.getD (2 * j) 0 + 16 * cs.getD (2 * j + 1) 0)
  | 6 => (List.range (cdiv n 4)).flatMap fun j =>
      le 3 (cs.getD (4 * j) 0 + 64 * cs.getD (4 * j + 1) 0 + 4096 * cs.getD (4 * j + 2) 0
        + 262144 * cs.getD (4 * j + 3) 0)
  | w => cs.flatMap fun c => le (w / 8) c

/-! ### Conversions (R135, R136). The count is the number of saturations and NaN-to-zero cases. -/

/-- R136 for a floating-point column: finite overflow saturates, ±∞ stays where the format has it. -/
def narrowFp (f : FpFmt) (v : FV) : Nat × Nat :=
  match v with
  | .nan => (match f.top with
      | .ieee => (2 ^ f.eb - 1) <<< f.mb + 2 ^ (f.mb - 1)
      | .e4m3 => 2 ^ (f.eb + f.mb) - 1
      | .finite => 0, 0)
  | .inf n => (match f.top with
      | .ieee => (signCode f n + (2 ^ f.eb - 1) <<< f.mb, 0)
      | _ => (signCode f n + fpMaxCode f, 1))
  | .fin n m e =>
    let (a, b) := dyadic m e
    let k := roundMag f a b
    if fpMaxCode f < k then (signCode f n + fpMaxCode f, 1) else (signCode f n + k, 0)

/-- R136, INT8 column: nearest integer, ties to even, −0 written as 0, saturating; NaN gives 0. -/
def narrowInt8 (v : FV) : Nat × Nat :=
  match v with
  | .nan => (0, 1)
  | .inf n => (if n then 0x80 else 0x7F, 1)
  | .fin n m e =>
    let (a, b) := dyadic m e
    let k := rneDiv a b
    if n then (if 128 < k then (0x80, 1) else ((256 - k) % 256, 0))
    else (if 127 < k then (0x7F, 1) else (k, 0))

/-- R135, R136: one value to an element code of a plain (not MX) format. -/
def convertElt (t : Elt) (v : FV) : Nat × Nat :=
  match t with
  | .fp32 => (round32 v, 0)
  | .int8 => narrowInt8 v
  | t => match t.fp with
    | some f => narrowFp f v
    | none => narrowInt8 v

/-- The exponent of an element format's largest finite value (R137). -/
def Elt.topExp : Elt → Nat
  | .mxE4m3 => 8
  | .mxE5m2 => 15
  | .mxE3m2 => 4
  | _ => 2

/-- ⌊log2 |v|⌋ of a non-zero finite value. -/
def FV.ilog2 : FV → Int
  | .fin _ m e => (Nat.log2 m : Int) + e
  | _ => 0

/-- R137: one block: scale, element codes, saturations, and whether it holds a NaN or an infinity. -/
def mxBlock (t : Elt) (vs : List FV) : Nat × List Nat × Nat × Bool :=
  if vs.any fun v => !v.isFin then (0xFF, vs.map fun _ => 0, 0, true)
  else
    let nz := vs.filter fun v => !v.isZero
    match nz with
    | [] => (0, vs.map fun _ => 0, 0, false)
    | v :: r =>
      let top := r.foldl (fun a x => max a x.ilog2) v.ilog2
      let e := (min (max (top - (t.topExp : Int) + 127) 0) 254).toNat
      let cs := vs.map fun v => match t.fp with
        | some f => narrowFp f (v.scale (127 - (e : Int)))
        | none => (0, 0)
      (e, cs.map (·.1), sumN (cs.map (·.2)), false)

/-! ### Products and accumulation (R129 to R132) -/

/-- One group: the exact sum of the products, with no rounding (R129, R132). -/
def groupSum (ps : List FV) : FV := ps.foldl FV.add (.fin false 0 0)

/-- The exact sum as R129 forms it: for a group of one product it is that product itself (sign of zero kept). -/
def groupProduct : List (FV × FV) → FV
  | [(x, w)] => x.mul w
  | ps => groupSum (ps.map fun p => p.1.mul p.2)

/-- The factor a block scale applies; scale 0xFF makes the block NaN (R127, R132). -/
def applyScale (s : Nat) (v : FV) : FV := if s = 0xFF then .nan else v.scale ((s : Int) - 127)

/-- R129: the array's result for one output. `gs` are the groups in ascending order: each group's operand pairs
(MX scale codes already paired as options). -/
def accumulate (gs : List (List (FV × FV) × Option Nat × Option Nat)) : Nat :=
  gs.foldl (fun acc g =>
    let p := groupProduct g.1
    let p := match g.2.1 with | some s => applyScale s p | none => p
    let p := match g.2.2 with | some s => applyScale s p | none => p
    round32 ((dec32 acc).add p)) 0

/-- R185: a dot product in groups of 64, exact within a group, one rounding per group. -/
def dotGroups (n : Nat) (xs ys : List FV) : Nat :=
  let rec go (fuel acc : Nat) (l : List (FV × FV)) : Nat :=
    match fuel with
    | 0 => acc
    | f + 1 => match l with
      | [] => acc
      | l => go f (round32 ((dec32 acc).add (groupProduct (l.take n)))) (l.drop n)
  go (xs.length + 1) 0 (xs.zip ys)

/-- The order of R191 on FP32 codes: a strictly above b; every NaN after every number. `asc`: lowest first. -/
def rankAbove32 (asc : Bool) (a b : Nat) : Bool :=
  match (dec32 a).isNan, (dec32 b).isNan with
  | true, _ => false
  | false, true => true
  | false, false => if asc then (dec32 a).lt (dec32 b) else (dec32 b).lt (dec32 a)

/-- Equal in rank by R191: both NaN, or equal by value. -/
def rankEq32 (a b : Nat) : Bool := !rankAbove32 false a b && !rankAbove32 false b a

/-- R138: the value of a BF16 descriptor field when it is in range: not NaN, not infinite, not below zero. −0 reads
as +0. -/
def bf16Field (c : Nat) : Option Nat :=
  if c = 0x8000 then some 0
  else if bit c 15 then none
  else if (c >>> 7) % 256 = 255 then none
  else some c

/-- BF16 code to FP32 code, exactly. -/
def bf16To32 (c : Nat) : Nat := (c % 65536) * 65536

end Sys2Proof.Machine
end

