-- ==== Sys2Proof/Machine/ObjectTypes.lean ====
section
/-! DEFINITION. What a loaded object holds once its image has been checked (R42, R43): one structure per kind, its
fields named as the image's own table names them. A resident object keeps what later steps read of it. -/

namespace Sys2Proof.Machine

/-- R436: a model object. `weights` are the matrices as (K, N, FMT); `streams` the directory as (PURPOSE, SPLIT). -/
structure ModelObj where
  role : Nat
  outDim : Nat
  ctxId : Nat
  layers : Nat
  kvHeads : Nat
  headDim : Nat
  kvFmt : Nat
  maxContext : Nat
  weights : List (Nat × Nat × Nat)
  streams : List (Nat × Nat)
  deriving DecidableEq, Repr

/-- R262: a variant delta, bound to the model object it was checked against (`baseUid`). -/
structure VariantObj where
  base : Nat
  baseUid : Nat
  records : List (Nat × Nat × Nat)     -- MATRIX, ROW_BLK, COL_BLK
  data : List (List Byte)              -- 32 scales then 1,024 elements, per record
  deriving DecidableEq, Repr

/-- R165, R166: the index header with its entry list. -/
structure IndexHeader where
  itemCount : Nat
  dim : Nat
  metric : Nat
  pqBits : Nat
  pqS : Nat
  cbFmt : Nat
  degree : Nat
  vecFmt : Nat
  sketchBits : Nat
  attrBytes : Nat
  graphObj : Nat
  codebookObj : Nat
  codesObj : Nat
  sketchObj : Nat
  vectorsObj : Nat
  attrObj : Nat
  hashSeed : Nat
  ctxId : Nat
  entries : List Nat
  deriving DecidableEq, Repr

/-- R168: one clause of a filter. -/
structure Clause where
  offset : Nat
  width : Nat
  op : Nat
  value : Nat
  deriving DecidableEq, Repr

/-- R164: an index section. `body` is the section's body for the sections read by item or code. -/
structure SectionObj where
  sec : Nat
  indexId : Nat
  count : Nat
  stride : Nat
  header : Option IndexHeader
  bitmapObj : Nat
  clauses : List Clause
  body : List Byte
  deriving DecidableEq, Repr

/-- R146: the header of a segment table. -/
structure TableHead where
  mode : Nat
  pre : Nat
  expMin : Int
  expMax : Int
  mbits : Nat
  signMode : Nat
  lowAction : Nat
  highAction : Nat
  lowValue : Nat
  highValue : Nat
  pinf : Nat
  ninf : Nat
  negValue : Nat
  kPreHi : Nat
  kPreLo : Nat
  kPostHi : Nat
  kPostLo : Nat
  deriving DecidableEq, Repr

/-- R147: a segment. -/
structure Segment where
  x0 : Nat
  c0 : Nat
  c1 : Nat
  c2 : Nat
  deriving DecidableEq, Repr

/-- R146, R147: a segment table; exceptions as (FMT, KEY, OUT). -/
structure SegTable where
  head : TableHead
  segs : List Segment
  excs : List (Nat × Nat × Nat)
  deriving DecidableEq, Repr

/-- R151: a micro-program: constants and step words. -/
structure Program where
  consts : List Nat
  steps : List Nat
  deriving DecidableEq, Repr

/-- R273: a grammar state. -/
structure GState where
  bitmap : Nat
  full : Nat
  dflt : Nat
  cdFirst : Nat
  cdCount : Nat
  deriving DecidableEq, Repr

/-- R273: a context-dependent record. ACTION 0 NONE, 1 POP, 2 POP then PUSH. -/
structure GCd where
  token : Nat
  top : Nat
  action : Nat
  sym : Nat
  next : Nat
  deriving DecidableEq, Repr

/-- R273: a used transition entry. -/
structure GTrans where
  state : Nat
  token : Nat
  next : Nat
  push : Bool
  sym : Nat
  deriving DecidableEq, Repr

/-- R272, R273: a compiled grammar. -/
structure GrammarObj where
  vocabId : Nat
  vocabSize : Nat
  start : Nat
  terminator : Option Nat
  states : List GState
  bitmaps : List (List Byte)
  cds : List GCd
  trans : List GTrans
  deriving DecidableEq, Repr

/-- R224, R225: a vocabulary; `brk` is the 32-byte BREAK matrix, `ranges` the class ranges as (FIRST, CLASS). -/
structure VocabObj where
  size : Nat
  eos : Nat
  pad : Nat
  brk : List Byte
  ranges : List (Nat × Nat)
  byteToks : List Nat
  merges : List (Nat × Nat × Nat)
  texts : List (List Byte)
  deriving DecidableEq, Repr

/-- R235: a template; runs as token lists, segments as (KIND, literal tokens). -/
structure TemplateObj where
  vocabId : Nat
  segs : List (Nat × List Nat)
  psgHead : List Nat
  psgTail : List Nat
  pairHead : List Nat
  pairSep : List Nat
  pairTail : List Nat
  deriving DecidableEq, Repr

/-- R209: a feature table; `rows` are the local rows' bytes. -/
structure FeatTable where
  sharded : Bool
  elemFmt : Nat
  rowBytes : Nat
  shards : Nat
  thisShard : Nat
  rowCount : Nat
  updatable : Bool
  lr : Nat
  owners : List Nat
  dflt : List Byte
  rows : List (List Byte)
  deriving DecidableEq, Repr

/-- R212: one lookup of a feature set. -/
structure Lookup where
  table : Nat
  pkey : Bool
  first : Nat
  count : Nat
  mean : Bool
  deriving DecidableEq, Repr

/-- R92: a context. Ranges as (HBM_ADDR, TS_OFF, LEN). -/
structure ContextObj where
  tables : List Nat
  programs : List Nat
  grammars : List Nat
  ranges : List (Nat × Nat × Nat)
  deriving DecidableEq, Repr

/-- What an object is, by kind (R42). -/
inductive ObjBody where
  | model (m : ModelObj)
  | variant (v : VariantObj)
  | index (s : SectionObj)
  | arcTable (t : SegTable)
  | arcProgram (p : Program)
  | grammar (g : GrammarObj)
  | vocab (v : VocabObj)
  | template (t : TemplateObj)
  | featTable (t : FeatTable)
  | featSet (l : List Lookup)
  | context (c : ContextObj)
  deriving DecidableEq, Repr

/-- A resident object: kind and id (R42), tier, bytes it occupies, a number of its own (so that a later object of the
same id is told apart, R262), whether an EVICT has made it unusable to new requests (R91), and for a variant whether
its HBM copy exists (R263). -/
structure Obj where
  kind : Nat
  id : Nat
  tier : Nat
  size : Nat
  uid : Nat
  evicted : Bool
  hbmCopy : Bool
  body : ObjBody
  deriving DecidableEq, Repr

/-- R43: a load in progress. `cover` lists the byte ranges [lo, hi) taken, `bytes` the staged bytes. -/
structure Load where
  kind : Nat
  id : Nat
  part : Nat
  tier : Nat
  pieces : Nat
  cover : List (Nat × Nat)
  bytes : Mem
  deriving DecidableEq, Repr

/-- R318: one record of a passage batch or of the store. -/
structure PassageRec where
  item : Nat
  keys : List Nat
  text : List Byte
  deriving DecidableEq, Repr

/-- R45 and the sections it names: a request profile (R170, R199, R208, R232, R254). 0xFFFF is "none" where R45
allows it. -/
structure Profile where
  id : Nat
  embModel : Nat
  indexId : Nat
  shardK : Nat
  ef : Nat
  evalMax : Nat
  pfDepth : Nat
  rerankN : Nat
  rerankUs : Nat
  tableWaitUs : Nat
  mergeUs : Nat
  minShards : Nat
  ceModel : Nat
  ceCands : Nat
  cePairLen : Nat
  featSet : Nat
  featUs : Nat
  featStride : Nat
  featAddr : Nat
  retVocab : Nat
  genVocab : Nat
  promptTemplate : Nat
  pairTemplate : Nat
  budget : Nat
  queryMax : Nat
  minFragment : Nat
  packFill : Bool
  packMax : Nat
  passageMax : Nat
  fetchUs : Nat
  genModel : Nat
  prefixMode : Nat
  prefixUs : Nat
  deriving DecidableEq, Repr

end Sys2Proof.Machine
end

