-- ==== Sys2Proof/Machine/State.lean ====
section
/-! DEFINITION. The state of one K4, unit by unit, as plain data. Each field's comment gives, between bars, its width,
the file and rule of spec/ that names it, its value at reset, and what it is ("DC n": DESIGN CHOICE of assumption log
entry n; "PR n": PRESUMED). Set-up registers stand in `Bar.regs` by BAR0 offset (R421); what reads back live is in the
unit's own fields. Sparse tables are `Tab`s. -/

namespace Sys2Proof.Machine

/-! ### The part, its package flash, and the cell it stands in -/

/-- What is fixed when the package is built and fused at test (R3). No command changes it. -/
structure Ident where
  /-- 4 bits | 00 R3, 20 R423 ID_PART | DC 1: 8 | HBM stacks, 6 or 8 -/
  hbmStacks : Nat
  /-- 4 bits | 00 R3, 20 R423 ID_PART | DC 1: 4 | I/O dies, 2 or 4 -/
  iods : Nat
  /-- 2 bits | 00 R3, 20 R423 ID_PART | DC 1: 2 | grade, 1 to 3 -/
  grade : Nat
  /-- 8 bits | 20 R423 ID_STEPPING | DC 1: 0 | silicon stepping -/
  stepping : Nat
  /-- 64 bits | 20 R423 SERIAL | DC 1: 0 | serial number -/
  serial : Nat
  /-- 10 bits | 19 R403, R419 ARR_VID | DC 1: 750 | fused VDD_ARR setpoint in mV -/
  arrVid : Nat
  /-- list | 17 R366 | DC 1: empty | fused test-time defect map: (FAULTED class, physical index) -/
  fused : List (Nat × Nat)
  /-- number | 17 R358 | DC 1: 0 | fused minimum security version -/
  minSec : Nat
  deriving DecidableEq, Repr

/-- One firmware image in package flash (R358). -/
structure Image where
  /-- 32 bits | 17 R358, 20 R423 FW_VERSION | DC 1: 0 | version -/
  version : Nat
  /-- 32 bits | 17 R358, 20 R423 FW_SEC_VERSION | DC 1: 0 | security version -/
  sec : Nat
  /-- 1 bit | 17 R358 | DC 1: true | whether its signature verifies -/
  signed : Bool
  deriving DecidableEq, Repr

/-- What survives a start (R356). -/
structure PkgFlash where
  /-- 32 bits | 17 R355, R376 START_COUNT | DC 1: 0 | starts so far -/
  startCount : Nat
  /-- 16 bits | 20 R425 DEVNO | 0xFFFF (blank, R425) | persisted device number -/
  devno : Nat
  /-- 1 bit | 17 R376 BRINGUP_CTRL | 1 (blank) | WARM_EN -/
  warmEn : Bool
  /-- 1 bit | 17 R376 BRINGUP_CTRL | 0 (blank) | FORCE_COLD -/
  forceCold : Bool
  /-- 8 bits | 17 R376 BRINGUP_CTRL | 16 (blank) | COLD_EVERY -/
  coldEvery : Nat
  /-- 32 bits | 17 R376 MT_PARAMS | 0x0100_085A (blank) | memory-test parameters -/
  mtParams : Nat
  /-- record | 17 R358 | DC 1 | image A -/
  imgA : Image
  /-- record | 17 R358 | DC 1 | image B -/
  imgB : Image
  /-- 1 bit | 17 R357, R362 | DC 1: false | saved interface settings present and their CRC good -/
  saved : Bool
  /-- number | 17 R357 | DC 1: 0 | warm starts since the last cold start -/
  warmRuns : Nat
  /-- 1 bit | 17 R357 | DC 1: false | the previous run ended in FAULTED -/
  lastFaulted : Bool
  /-- list | 17 R366 | DC 1: empty | grown defect log: (class, physical index) -/
  grown : List (Nat × Nat)
  /-- 3 bits | 17 R380, 20 R424 LC_STATE | DC 1: 3 (DEPLOYED) | life-cycle state in fuses -/
  lc : Nat
  /-- 3 bits, optional | 17 R381, 20 R424 | none | pending life-cycle transition, applied at the next start -/
  lcPending : Option Nat
  deriving DecidableEq, Repr

/-- A shard of an index as the cell configuration gives it (R17, R198). -/
structure Shard where
  index : Nat
  rank : Nat
  active : Nat
  twin : Nat
  deriving DecidableEq, Repr

/-- The cell configuration (R17, R18, R267), which the spec names but gives no register: fixed data. -/
structure Cell where
  /-- list of DEVNOs | 01 R18 | DC 2: empty (this device alone) | the prefill group's other members -/
  group : List Nat
  /-- list | 01 R17, 09 R198 | DC 2: empty (one shard, rank 0, here) | shards of each index -/
  shards : List Shard
  deriving DecidableEq, Repr

/-! ### BAR0 -/

/-- BAR0's own state (R8-R10, R421, R422). -/
structure Bar where
  /-- 32 bits each | 20 R421-R431 | by offset: none listed, each register reads its table's reset value | set-up registers written -/
  regs : Tab (Option W32)
  /-- 32 bits | 20 R425 IGNORED_WRITES | 0 | writes ignored, saturating -/
  ignored : Nat
  /-- 32 bits | 20 R425 IGNORED_AT | 0 | offset of the last ignored write -/
  ignoredAt : Nat
  /-- 32 bits | 00 R8, R10 | DC 3: 0 | what the last read returned to the host -/
  lastRead : W32
  /-- 32 bits | 20 R429 NT_TIME_HI | 0 | high half captured by a read of NT_TIME_LO -/
  ntHi : W32
  /-- 32 bits | 20 R428 PS_DEAD_BYTES | 0 | high half captured by a read of the low half -/
  deadHi : W32
  deriving DecidableEq, Repr

/-! ### Host port -/

/-- The host port and the DSB (R53-R58). -/
structure HostPort where
  /-- bytes | 02 R36-R58 | none listed | host memory as this device has written it -/
  mem : Mem
  /-- 1 bit | 17 R359 | 0 | the boot ROM has loaded configuration space -/
  cfgReady : Bool
  /-- 1 bit | 02 R55 | 0 | bus mastering enabled by configuration write -/
  busMaster : Bool
  /-- 1 bit | 17 R359 | DC 3: 0 | the last configuration request was answered with retry status -/
  lastRetry : Bool
  /-- 64 bits | 02 R53, R54 | 0 | HEARTBEAT -/
  heartbeat : Nat
  /-- 64 bits | 02 R53 | 0 | HB_TIME -/
  hbTime : Nat
  /-- ns | 18 R388 | 0 | when HEARTBEAT was last written -/
  hbLastOk : Nat
  /-- count | 02 R35, 03 R67 | 0 | descriptors taken so far: the order they are taken in -/
  takes : Nat
  deriving DecidableEq, Repr

/-! ### Partitions -/

/-- R426: STATE of a partition. -/
inductive PartSt where
  | off | ready | draining | invalid
  deriving DecidableEq, Repr

/-- A descriptor taken from a ring and not yet started (R35, R37), with the time its read completed (R62) and its number
in the order the device has taken descriptors (R67). -/
structure Taken where
  sq : Nat
  count : Nat
  bytes : List Byte
  at_ : Nat
  ord : Nat
  deriving DecidableEq, Repr

/-- A descriptor taken and not yet completed (R50): ring, count, and the TAG its completion returns. -/
structure OpenD where
  sq : Nat
  count : Nat
  tag : Nat
  deriving DecidableEq, Repr

/-- A completion record in commit order and not yet in host memory: its count in the completion ring, its bytes, and
the request whose twin's acknowledgement it waits for, if any (R49, R393). -/
structure CqRec where
  n : Nat
  bytes : List Byte
  held : Option Handle
  deriving DecidableEq, Repr

/-- One submission ring (R31, R36). -/
structure Ring where
  /-- 32 bits | 02 R31, R53 SQ_HEAD | 0 | head count -/
  head : W32
  /-- 32 bits | 02 R32 | DC 3: 0 | tail as last read -/
  tail : W32
  /-- 1 bit | 02 R36, 20 R426 SQi_CFG | 0 | STOPPED -/
  stopped : Bool
  /-- 1 bit | 02 R36 | 0 | SQ_EN was set and step 1's read has not succeeded yet -/
  restart : Bool
  deriving DecidableEq, Repr

def Ring.reset : Ring := ⟨0, 0, false, false⟩

/-- One admission meter (R69): credit in 2^-16 of a request, and the fractions left over. -/
structure Meter where
  /-- 2^-16 requests | 03 R69, R70 | 0 | committed bucket -/
  commit : Nat
  /-- 2^-16 requests | 03 R69, R70 | 0 | excess bucket -/
  excess : Nat
  /-- fraction | 03 R69 | 0 | remainder of the committed fill -/
  commitFrac : Nat
  /-- fraction | 03 R69 | 0 | remainder of the excess fill -/
  excessFrac : Nat
  /-- ns | 03 R69 | 0 | network time of the last fill -/
  last : Nat
  deriving DecidableEq, Repr

def Meter.reset : Meter := ⟨0, 0, 0, 0, 0⟩

/-- One partition (R83, R426). -/
structure Part where
  /-- 2 bits | 20 R426 PART_CTRL STATE | OFF | state -/
  st : PartSt
  /-- 1 bit | 04 R84 | 0 | EN was written 1 while DRAINING -/
  enPending : Bool
  /-- 16 records | 02 R30, R36 | each at reset | submission rings -/
  rings : Tab Ring
  /-- 4 bits | 02 R35 | DC 4: 0 | ring the next read starts its round robin with -/
  rrNext : Nat
  /-- ns | 02 R34 | 100,000 (POLL_MAX default) | current poll interval -/
  interval : Nat
  /-- ns | 02 R34 | 0 | when the next doorbell read falls due -/
  nextPoll : Nat
  /-- 32 bits | 02 R31 | 0 | completion ring tail -/
  cqTail : W32
  /-- 32 bits | 02 R32 | 0 | CQ_HEAD as last read -/
  cqHead : W32
  /-- 32 bits | 02 R31 | 0 | event ring tail -/
  eqTail : W32
  /-- 32 bits | 02 R32 | 0 | EQ_HEAD as last read -/
  eqHead : W32
  /-- count | 02 R51, R52 | 0 | events dropped since the ring was full -/
  lost : Nat
  /-- list | 02 R35 | empty | descriptors taken and not started, in the order taken -/
  taken : List Taken
  /-- list | 02 R37 FENCE, R50 | empty | descriptors taken and not completed -/
  open_ : List OpenD
  /-- list | 02 R49, 18 R393 | empty | records committed and not yet written, in commit order -/
  cqWait : List CqRec
  /-- count | 02 R50, 18 R392 | 0 | completion slots reserved for MIRROR entries -/
  mirrorSlots : Nat
  /-- 4 records | 03 R69 | each at reset | meters of classes C0 to C3 -/
  meters : Tab Meter
  /-- µs, 4 values, in 1/65,536 | 03 R73 FRONT_EST | 10,000 µs each (PRED_FRONT_INIT) | front-half estimates -/
  frontEst : Tab Nat
  /-- tokens per ms in 1/65,536 | 03 R73 PF_RATE | 200 (PRED_PF_RATE_INIT) | prefill rate estimate -/
  pfRate : Nat
  /-- tokens per ms in 1/65,536, 4 values | 03 R73 ADMIT_RATE | 0 | admitted prompt tokens per class -/
  admitRate : Tab Nat
  /-- µs in 1/65,536 | 03 R73 HANDOFF_EST | 1,000 µs (PRED_HANDOFF_INIT) | hand-off estimate -/
  handoff : Nat
  /-- count | 03 R73 | 0 | prefill tokens completed in this 1 ms window -/
  winPf : Nat
  /-- 1 bit | 03 R73 | 0 | the prefill queue was not empty at some moment of this window -/
  winBusy : Bool
  /-- count, 4 values | 03 R73 | 0 | prompt tokens admitted in this window per class -/
  winAdmit : Tab Nat
  /-- 7 bits | 03 R78 PF_SHARE, 20 R426 | 8 (PF_MIN) | the long queue's share in 1/64 -/
  pfShare : Nat
  /-- bytes, 5 values | 04 R93 | 0 | regulator buckets: HBM, board, flash, link egress, PCIe -/
  regs : Tab Int
  /-- ns | 04 R87 | 0 | Helm's credit -/
  credit : Int
  /-- 1 bit | 04 R87 | 0 | backlogged at the last acceptance -/
  backlogged : Bool
  /-- number | 04 R88 | 0 (never) | when it was last issued from -/
  lastIssue : Nat
  /-- ns | 04 R88 | 0 | credit of the long queue and of the decode queue -/
  qCredit : Int × Int
  /-- number | 04 R88 | 0 (never) | when each queue was last issued from -/
  qLast : Nat × Nat
  /-- 2 bits | 04 R87, R88 | 0 | each queue was backlogged at the last acceptance -/
  qBack : Bool × Bool
  deriving DecidableEq, Repr

def Part.reset : Part :=
  { st := .off, enPending := false, rings := [], rrNext := 0, interval := 100000, nextPoll := 0,
    cqTail := 0, cqHead := 0, eqTail := 0, eqHead := 0, lost := 0, taken := [], open_ := [], cqWait := [], mirrorSlots := 0,
    meters := [], frontEst := (List.range 4).map fun c => (c, 10000 * 65536), pfRate := 200 * 65536, admitRate := [], handoff := 1000 * 65536, winPf := 0,
    winBusy := false, winAdmit := [], pfShare := 8, regs := [], credit := 0, backlogged := false, lastIssue := 0,
    qCredit := (0, 0), qLast := (0, 0), qBack := (false, false) }

/-! ### The Logbook and what the home device holds of a request -/

/-- R64: the states of an entry. -/
inductive ReqSt where
  | free | admitted | front | waitPrefill | prefill | decode | committing | aborting | mirror
  deriving DecidableEq, Repr

/-- R64: the number of a state. -/
def ReqSt.toNum : ReqSt → Nat
  | .free => 0 | .admitted => 1 | .front => 2 | .waitPrefill => 3 | .prefill => 4 | .decode => 5
  | .committing => 6 | .aborting => 7 | .mirror => 8

/-- R62: a Logbook entry. -/
structure Entry where
  /-- 4 bits | 03 R62 STATE | FREE (R61) | state -/
  st : ReqSt
  /-- 1 bit | 03 R62 COLOUR | 0 | yellow -/
  yellow : Bool
  /-- 1 bit | 03 R62 MIRRORED | 0 | mirrored to a twin -/
  mirrored : Bool
  /-- 2 bits | 03 R62 CLASS | 0 | class in force -/
  cls : Nat
  /-- 2 bits | 03 R62 ORIG_CLASS | 0 | class of the descriptor -/
  origCls : Nat
  /-- 2 bits | 03 R62 LAST_STAGE | 0 | last stage to run -/
  lastStage : Nat
  /-- 8 bits | 03 R62 STAGE | 0 | stage now running, 1 to 18 -/
  stage : Nat
  /-- 4 bits | 03 R62 SQ_ID | 0 | source ring -/
  sq : Nat
  /-- 26 bits | 03 R60, R61, R62 GEN | 1 (R61) | generation -/
  gen : Nat
  /-- 32 bits | 03 R62 TAG | 0 | tag -/
  tag : Nat
  /-- 48 bits | 03 R62 ARRIVAL_NS | 0 | arrival -/
  arrival : Nat
  /-- 16 bits | 03 R62 KV_DEVNO | 0 | device of the reservation, then the decode device -/
  kvDev : Nat
  /-- 32 bits | 03 R62 TTFT_TARGET_US | 0 | target in force -/
  ttftTarget : Nat
  /-- 32 bits | 03 R62 TTFT_US | 0 | measured first-token time, 0xFFFF_FFFF until written -/
  ttftUs : Nat
  /-- 32 bits | 03 R62 LAST_TOKEN_US | 0 | last token write after arrival -/
  lastTokenUs : Nat
  /-- 16 bits | 03 R62 TBT_MAX | 0 | largest gap in 10 µs -/
  tbtMax : Nat
  /-- 16 bits | 03 R62 TBT_MISSES | 0 | gaps over target -/
  tbtMisses : Nat
  /-- 16 bits | 03 R62 TOKENS_COMMITTED | 0 | tokens committed at the home device -/
  tokens : Nat
  /-- 16 bits | 03 R62 PROFILE_ID | 0 | profile -/
  profileId : Nat
  /-- 32 bits | 03 R62 PROMPT_REF | 0 | HBM place of the prompt record, in 256 B -/
  promptRef : Nat
  /-- 32 bits | 03 R62 KVT_REF | 0 | index of the block table, 0xFFFF_FFFF if none -/
  kvtRef : Nat
  /-- 64 bits | 03 R62 OUTPUT_ADDR | 0 | output buffer -/
  outAddr : Nat
  /-- 32 bits | 03 R62 OUT_BYTES | 0 | bytes written -/
  outBytes : Nat
  /-- 32 bits | 03 R62 OUTPUT_LEN | 0 | size of the buffer -/
  outLen : Nat
  deriving DecidableEq, Repr

def Entry.freeEntry : Entry :=
  { st := .free, yellow := false, mirrored := false, cls := 0, origCls := 0, lastStage := 0, stage := 0, sq := 0,
    gen := 1, tag := 0, arrival := 0, kvDev := 0, ttftTarget := 0, ttftUs := 0, lastTokenUs := 0, tbtMax := 0,
    tbtMisses := 0, tokens := 0, profileId := 0, promptRef := 0, kvtRef := 0, outAddr := 0, outBytes := 0,
    outLen := 0 }

/-- R198: one element of the merge list. -/
structure Elem where
  key : Nat
  seq : Nat
  item : Nat
  rank : Nat
  flags : Nat
  deriving DecidableEq, Repr

/-- How far the text of a candidate is (R240). -/
inductive TextSt where
  | wanted | here | absent
  deriving DecidableEq, Repr

/-- A passage of the merged list with what stages 9 to 11 add to it. -/
structure Cand where
  item : Nat
  rank : Nat
  flags : Nat
  score : Nat
  fetch : TextSt
  retried : Bool
  text : List Byte
  keys : List Nat
  retToks : List Nat
  genToks : List Nat
  ce : Option Nat
  deriving DecidableEq, Repr

/-- A pooled partial the home device waits for (R215, R216). -/
structure FeatWait where
  cand : Nat
  lookup : Nat
  shard : Nat
  keys : Nat
  deriving DecidableEq, Repr

/-- An ABORT descriptor that completes after its request (R46, R81): ring, count, tag, and whether with OK. -/
structure AbortWait where
  sq : Nat
  count : Nat
  tag : Nat
  ok : Bool
  deriving DecidableEq, Repr

/-- The success qualifiers that apply to a request so far (R22). -/
structure Quals where
  resumed : Bool
  grammarEnd : Bool
  short : Bool
  degraded : Bool
  truncated : Bool
  deriving DecidableEq, Repr

def Quals.none : Quals := ⟨false, false, false, false, false⟩

/-- The home device's record of a request beside its entry: the prompt record (R63) and what the stages have
produced. -/
structure Work where
  /-- record | 03 R59 | - | the request's handle -/
  handle : Handle
  /-- record | 04 R85 | - | its order -/
  rank : Rank
  /-- 64 B | 03 R63 | - | descriptor copy -/
  desc : List Byte
  /-- list | 04 R91, 12 R262 | - | numbers (uid) of the objects the request was admitted with -/
  refs : List Nat
  /-- list of DEVNOs | 01 R26 | empty | devices that have been sent work for the request -/
  sentTo : List Nat
  /-- number | 02 R37 | - | count of its descriptor in its ring -/
  count : Nat
  /-- record | 02 R45 | - | its profile as it stood at admission -/
  prof : Profile
  /-- list | 03 R63, 11 R223 | empty | query tokens under RET_VOCAB -/
  retToks : List Nat
  /-- list | 03 R63, 11 R223 | empty | query tokens under GEN_VOCAB -/
  genToks : List Nat
  /-- FP32 list | 01 R19 | empty | query vector -/
  vec : List Nat
  /-- flags | 01 R22 | none | qualifiers that apply -/
  quals : Quals
  /-- ns | 09 R199 | 0 | when the fan-out was sent -/
  fanoutAt : Nat
  /-- list | 09 R200 | empty | shard ranks of the index -/
  wanted : List Nat
  /-- list | 09 R200, R201 | empty | ranks whose list is merged -/
  got : List Nat
  /-- list | 09 R198 | empty | the merge list -/
  merge : List Elem
  /-- count | 09 R200, R202 | 0 | missing shards -/
  missing : Nat
  /-- list | 09 R202, 10 R208 | empty | the merged list with texts and scores -/
  cands : List Cand
  /-- list | 10 R203, R208 | empty | the re-rank order, as positions in the merged list -/
  order : List Nat
  /-- ns | 11 R232 | 0 | start of stage 9 -/
  fetchAt : Nat
  /-- list | 11 R237 | empty | cross-encoder pairs: position in the merged list, tokens, length without padding -/
  pairs : List (Nat × List Nat × Nat)
  /-- list | 10 R208, R213 | empty | feature rows that wait for the head's context: address, bytes -/
  featRows : List (Nat × List Byte)
  /-- 16 bits | 10 R208 | 0 | the head's context -/
  featCtx : Nat
  /-- ns | 10 R216 | 0 | when the lookup messages were sent -/
  featAt : Nat
  /-- list | 10 R216 | empty | partials still wanted -/
  featWait : List FeatWait
  /-- list | 10 R215 | empty | partials arrived -/
  featGot : List Partial
  /-- list | 03 R63 | empty | packed prompt -/
  prompt : List Nat
  /-- 64 bits each | 12 R257 | empty | block hashes -/
  hashes : List Nat
  /-- count | 12 R258 | 0 | the reuse run -/
  reuse : Nat
  /-- list | 12 R258, R261 | empty | blocks pinned for the request and in no block table: (in spill area, GEN_SLOT, block) -/
  pins : List (Bool × Nat × Nat)
  /-- list | 12 R253 | empty | blocks late under the read-back deadline -/
  late : List Nat
  /-- list | 12 R253 | empty | (block, spill block) read-backs outstanding -/
  readBacks : List (Nat × Nat)
  /-- ns | 12 R253 | 0 | start of stage 13 -/
  prefixAt : Nat
  /-- list | 03 R65, 12 R266 | empty | members that have admitted the request to prefill -/
  admittedBy : List Nat
  /-- ns | 03 R73 | 0 | end of stage 14 as seen here -/
  prefillEnd : Nat
  /-- list | 01 R23 | empty | tokens that arrived out of order: (position, ID) -/
  early : List (Nat × Nat)
  /-- list | 01 R23, 18 R393 | empty | tokens next in order whose mirror record is not acknowledged -/
  held : List Nat
  /-- list | 03 R80 | empty | committed token IDs -/
  out : List Nat
  /-- at most 3 B | 11 R242 | empty | hold-back bytes -/
  hold : List Byte
  /-- list | 03 R75, 02 R49 | empty | text writes not finished, oldest first: (offset in the output, bytes) -/
  writes : List (Nat × List Byte)
  /-- ns | 03 R76 | 0 | last token write -/
  lastWrite : Nat
  /-- count | 03 R76 | 0 | gaps closed so far -/
  gaps : Nat
  /-- ns, optional | 03 R79 | none | most recent gap -/
  lastGap : Option Nat
  /-- optional | 03 R65 | none | how generation ended, and after how many tokens -/
  genEnd : Option (Status × Nat)
  /-- list | 02 R46, 03 R81 | empty | ABORT descriptors waiting to complete after the request -/
  aborts : List AbortWait
  /-- list | 03 R82 | empty | devices whose release is awaited -/
  releases : List Nat
  /-- ns | 03 R82, 20 R425 | 0 | when ABORT_TIMEOUT expires -/
  abortBy : Nat
  /-- record, optional | 03 R66, R47 | none | the committed completion -/
  commit : Option Commit
  /-- 1 bit | 18 R393 | false | the record waits for the twin's acknowledgement -/
  commitHeld : Bool
  /-- optional | 02 R49, 04 R93 | none | status and DETAIL with which it ends once its output is written -/
  ending : Option (Status × Nat)
  /-- 1 bit | 18 R397 | false | taken over, and waiting for its reservation -/
  waitKv : Bool
  deriving DecidableEq, Repr

/-- A MIRROR entry: the twin's request as its mirror records describe it (R392): entry fields, prompt, committed
tokens, state, and the commit once mirrored. `waiting` is true while a read of its completion slot is outstanding
after a takeover (R397). -/
structure Mirror where
  slot : Nat
  img : EntryImage
  prompt : List Nat
  toks : List Nat
  st : Nat
  commit : Option Commit
  waiting : Bool
  firstAt : Nat       -- ns: when the first and the latest token record arrived (assumption log 48)
  lastAt : Nat
  deriving DecidableEq, Repr

/-- The Logbook (R59-R66). -/
structure Logbook where
  /-- 262,144 records | 03 R62, R61 | each FREE, generation 1 | entries by slot -/
  entries : Tab Entry
  /-- list | 03 R63 | empty | home-side records by slot -/
  work : List (Nat × Work)
  /-- 18 bits | 03 R60 | 0 | first slot not used since reset -/
  fresh : Nat
  /-- list | 03 R60 | empty | slots freed since reset, oldest first -/
  freed : List Nat
  /-- number | 03 R71, 04 R85 | 0 | admissions so far: the order of admission -/
  order : Nat
  /-- list | 18 R392, R397 | empty | MIRROR entries by slot -/
  mirrors : List Mirror
  deriving DecidableEq, Repr

/-! ### Objects -/

/-- What a place of HBM or board memory that the K4 takes holds: the image of an object, or a codebook's table-build set
(R43, R173), by the object's number, or the prompt record of a Logbook slot (R63). -/
inductive PlaceOf where
  | image (uid : Nat)
  | buildSet (uid : Nat)
  | prompt (slot : Nat)
  deriving DecidableEq, Repr

structure Place where
  of : PlaceOf
  addr : Nat
  len : Nat
  deriving DecidableEq, Repr

/-- Objects, loads and profiles (R42-R45, R91). -/
structure Objects where
  /-- list | 02 R42, R43 | empty (R356) | resident objects, and evicted ones whose memory is not yet free -/
  objs : List Obj
  /-- list | 02 R43 | empty | loads in progress -/
  loads : List Load
  /-- number | 12 R262 | 0 | last object number given -/
  nextUid : Nat
  /-- 1,024 records | 02 R45 | none defined | profiles -/
  profiles : Tab (Option Profile)
  /-- bytes | 02 R43 | empty | board-staged passage batches: (id, bytes) -/
  staged : List (Nat × Nat)
  /-- device ranges | 02 R43, 03 R63, 08 R173, 14 R288 | empty | images, prompt records and table-build sets, by falling
  address -/
  places : List Place
  deriving DecidableEq, Repr

/-! ### Helm, Meridian, streams and waypoints -/

/-- Where an array operation comes from: a step of a stream (the host's, or one generated for requests), or piece j of a
table build (R173, R187). -/
inductive OpSrc where
  | step (sid idx : Nat)
  | build (index part batch piece : Nat)
  deriving DecidableEq, Repr

/-- A partition that an operation serves (R85, R87): its input vectors in it, and where it stands in the partition's queue. -/
structure Share where
  part : Nat
  vecs : Nat
  rank : Rank
  deriving DecidableEq, Repr

/-- The check path's terms of an operation (R112), formed as the tile loads and the vectors enter: S and A by row, U and B
by column, FP32 codes. -/
structure CheckSums where
  s : List Nat
  a : List Nat
  u : List Nat
  b : List Nat
  deriving DecidableEq, Repr

/-- An operation that has entered the array (R106, R107, R109): the weight register sets it holds, its product rows as
they leave the last data cell, the YIN and bias rows the drain and the epilogue add (R110, R141), the check terms, the
saturations and NaN blocks of its weight feed (R264), and whether what it read was poisoned (R297). -/
structure OpRun where
  sets : List Nat
  prods : List (List Nat)
  yin : List (List Nat)
  bias : List Nat
  sums : CheckSums
  sat : Nat
  nanBlocks : Nat
  bad : Bool
  deriving DecidableEq, Repr

/-- An array operation queued at Helm or issued (R85, R104, R105). -/
structure ArrayOp where
  src : OpSrc
  step : List Byte            -- the 64-byte step; empty for a table build
  shares : List Share
  decode : Bool
  m : Nat
  k : Nat
  n : Nat
  bf16 : Bool
  curLong : Bool
  epiSteps : Nat
  ctx : Nat
  rerun : Bool                -- a re-execution (R117)
  paid : Bool                 -- its issue has been charged (R87)
  run : Option OpRun          -- none until it enters (R107)
  deriving DecidableEq, Repr

/-- Helm (R85-R90, R107, R117, R384). -/
structure Helm where
  /-- list | 04 R85 | empty | table-build operations waiting; a stream's own wait at its head -/
  queue : List ArrayOp
  /-- list | 05 R107, R108 | empty | operations issued and not complete, oldest first; at most the last has not entered -/
  issued : List ArrayOp
  /-- list | 05 R107, R117 | empty | operations to re-execute ahead of every other, and behind them one that was issued and had not entered -/
  rerun : List ArrayOp
  /-- number | 04 R88 | 0 | issues so far -/
  seq : Nat
  /-- 16 bits | 04 R90 | 0 (the empty context) | context loaded -/
  ctx : Nat
  /-- record, optional | 04 R90 | none | swap in progress: incoming context, partition, operation -/
  swap : Option (Nat × ArrayOp)
  /-- list | 04 R90 | empty | dirty 64-byte words of the loaded context's ranges -/
  dirty : List Nat
  /-- 1 bit | 18 R384 | 0 | issue stopped for a block-line retirement -/
  stopped : Bool
  /-- 1/16 | 19 R412 | 0 | sixteenths of the array's busy time given up -/
  delay : Nat
  deriving DecidableEq, Repr

/-- The array (R101, R106, R120-R122). -/
structure Meridian where
  /-- 11 bits | 05 R120, R121 | all gated | block-column groups whose clock is on -/
  groups : Nat
  /-- 32 bits | 05 R122 | DC 7: 1 | dummy-vector generator -/
  dummy : Nat
  /-- 1 bit | 05 R122 | 0 | the last operation was SHORT: dummy fill runs in gaps -/
  fill : Bool
  /-- 3 bits | 05 R106 | DC 76: 0 (WS0) | weight register set the next tile loads into -/
  ws : Nat
  /-- ns | 05 R121 | 0 | when a vector last entered -/
  lastAt : Nat
  /-- physical lines, optional | 05 R101, 17 R366 | none | block-row the spare replaces -/
  rowSpare : Option Nat
  /-- physical lines, optional | 05 R101, 17 R366 | none | block-column the spare replaces -/
  colSpare : Option Nat
  /-- list | 05 R118 | empty | block-lines marked suspect -/
  suspect : List Nat
  deriving DecidableEq, Repr

/-- What a stream generated for requests carries beside its steps (R104, R207, R265, R270): PURPOSE, the number of its
model object, the requests it serves with their input vectors, the places of its weight tiles in the model's weight list
(step, MATRIX, first row, first column), the steps whose FP32 rows are partial sums for the group (step, first row), and its
place among what became issuable (R85). -/
structure ReqRun where
  purpose : Nat
  model : Nat
  hs : List (Handle × Nat)
  tiles : List (Nat × Nat × Nat × Nat)
  partials : List (Nat × Nat)
  order : Nat
  deriving DecidableEq, Repr

/-- An operation stream: started by an operation descriptor (R41), or generated for requests (R104). -/
structure Stream where
  /-- record, optional | 05 R104 | none for a descriptor's | the requests it runs for -/
  req : Option ReqRun
  /-- number | 04 R85 | - | its partition (of its first request) -/
  part : Nat
  /-- numbers | 02 R41 | 0 for requests | its descriptor: ring, count, tag -/
  sq : Nat
  count : Nat
  tag : Nat
  /-- record | 04 R85 | - | its order -/
  rank : Rank
  /-- record, optional | 02 R41 | - | SIGNAL_WP and SIGNAL_INC -/
  signal : Option (Nat × Nat)
  /-- 64 B each | 05 R104 | - | its steps -/
  steps : List (List Byte)
  /-- count | 05 R105 | 0 | the step at its head -/
  next : Nat
  /-- list | 05 R109 | empty | steps complete -/
  done : List Nat
  /-- status, optional | 05 R105 | none | how it has ended while operations already issued stand -/
  ended : Option Status
  /-- bytes | 02 R41 | - | argument block -/
  arg : List Byte
  deriving DecidableEq, Repr

/-- Who waits at a waypoint: an operation descriptor, or a step of a stream. -/
inductive Waiter where
  | desc (sq count tag : Nat) (bytes : List Byte) (arg : List Byte) (rank : Rank)
  | step (sid idx : Nat)
  deriving DecidableEq, Repr

/-- R96, R97: one wait. -/
structure Wait where
  part : Nat
  wp : Nat
  value : Nat
  since : Nat
  who : Waiter
  deriving DecidableEq, Repr

/-- Waypoints (R95-R99). -/
structure Waypoints where
  /-- 65,536 × 32 bits | 04 R95 | 0 | counters -/
  count : Tab W32
  /-- list | 04 R97 | empty | waits in progress -/
  waits : List Wait
  deriving DecidableEq, Repr

/-! ### Bearing -/

/-- How far a query is on this shard device (R171-R185). -/
inductive QuerySt where
  | gathering | building | built | walking | scanning | rerank
  deriving DecidableEq, Repr

/-- An entry of a walk's list: PQ sum or sketch score, item, and whether it has been expanded. -/
structure WalkEnt where
  score : Int
  item : Nat
  expanded : Bool
  deriving DecidableEq, Repr

/-- A query on this shard device. -/
structure Query where
  /-- record | 08 R171, R186 | - | the fan-out that brought it -/
  f : FanOut
  /-- ns | 08 R172 | - | arrival -/
  arrived : Nat
  /-- state | 08 R19 stages 5-7 | - | where it stands -/
  st : QuerySt
  /-- number | 08 R172 | 0 | the batch it was issued in -/
  batch : Nat
  /-- number | 08 R173 | 0 | its column in the batch's weight tiles -/
  col : Nat
  /-- FP32 lists | 08 R173, R187 | empty | its results in the batch's output buffer, by operation -/
  built : Tab (List Nat)
  /-- list | 04 R91 | - | numbers of the index sections it reads -/
  refs : List Nat
  /-- FP32 list | 08 R171 | - | the query after unit scaling -/
  q : List Nat
  /-- INT16 list | 08 R174 | empty | distance table, sub-quantiser-major -/
  table : List Int
  /-- number | 08 R174 | 0 | the table's exponent e -/
  texp : Int
  /-- bits | 08 R187 | 0 | query sketch -/
  sketch : Nat
  /-- list | 08 R176 | empty | cand -/
  cand : List WalkEnt
  /-- list | 08 R176 | empty | res -/
  res : List WalkEnt
  /-- 131,072 bits | 08 R178 | none set | visited set -/
  visited : List Nat
  /-- count | 08 R176 | 0 | evaluations -/
  evals : Nat
  /-- count | 08 R176 | 0 | bad neighbours -/
  bad : Nat
  /-- count | 08 R185 | 0 | substitutions -/
  subs : Nat
  /-- item | 08 R188, R189 | 0 | where its scan goes on -/
  scanAt : Nat
  /-- list | 08 R181 | empty | prefetch reads refused: (kind, item) -/
  retry : List (Nat × Nat)
  /-- ns | 08 R185 | 0 | when the walk stopped -/
  stopAt : Nat
  /-- list | 08 R185 | empty | items whose full vector is awaited -/
  wait : List Nat
  /-- list | 08 R185 | empty | (item, FP32 score, flags) so far -/
  scored : List ShardRec
  deriving DecidableEq, Repr

/-- A line of the prefetch buffer (R181): its walk, what it holds (0 list, 1 code, 2 attribute, 3 bitmap), the item,
when it was filled. -/
structure PfLine where
  h : Handle
  kind : Nat
  item : Nat
  lines : Nat
  at_ : Nat
  arrived : Bool
  deriving DecidableEq, Repr

structure Bearing where
  /-- list | 08 R171-R185 | empty | queries here -/
  queries : List Query
  /-- 262,144 lines | 08 R181 | empty | prefetch buffer -/
  lines : List PfLine
  /-- 136 lanes | 18 R385, 17 R366 | empty | lanes retired onto their domain's spare -/
  retired : List Nat
  /-- count | 08 R172 | 0 | table-build batches issued -/
  batches : Nat
  deriving DecidableEq, Repr

/-! ### Feature unit and Plotter caches -/

/-- A cached row (R217). -/
structure CacheRow where
  table : Nat
  row : Nat
  slots : Nat
  count : Nat
  order : Nat
  deriving DecidableEq, Repr

structure Feature where
  /-- 8,192 sets of 16 slots | 10 R217 | empty | row cache by set -/
  cache : Tab (List CacheRow)
  /-- number | 10 R217 | 0 | insertions so far -/
  order : Nat
  /-- number | 10 R219 | 0 | epoch running -/
  epoch : Nat
  /-- list | 10 R219, 20 R430 | one: epoch 0 at 0, 10 ms (UPD_EPOCH_US default) | the length in force, and those before: first epoch,
  its start and the length in ns, newest first -/
  spans : List (Nat × Nat × Nat)
  /-- count | 10 R219 | 0 | next batch position of the epoch -/
  pos : Nat
  /-- list | 10 R219 | empty | contributions received and not applied -/
  contribs : List GradRec
  /-- number | 10 R220 | DC 8: 0 | epochs below this have been applied -/
  applied : Nat
  /-- list | 10 R220 | empty | tables that read STALE -/
  stale : List Nat
  /-- list | 10 R218, 04 R439 | empty | update and move steps whose messages wait for acknowledgement: stream, step -/
  acks : List (Nat × Nat)
  deriving DecidableEq, Repr

/-- A vocabulary-cache line (R227): set, vocabulary object and line, last hit. -/
structure VLine where
  set : Nat
  vocab : Nat
  line : Nat
  hit : Nat
  deriving DecidableEq, Repr

/-! ### Generation -/

/-- R256: an entry of the prefix table. `g` is the generator slot whose pool or spill area LOC names a block of, and
`copy` the spill block that holds the board copy of a clean block in HBM (R253). -/
structure PfxEntry where
  hash : Nat
  g : Nat
  spill : Bool
  idx : Nat
  copy : Option Nat
  pin : Nat
  age : Nat
  valid : Bool
  dirty : Bool
  tail : Bool
  deriving DecidableEq, Repr

/-- R256: a block's tag. -/
structure Tag where
  slot : Nat           -- GEN_SLOT of its model
  toks : List Nat
  parent : Nat
  model : Nat
  variant : Nat
  block : Nat
  filled : Nat
  split : Nat
  owner : Nat
  deriving DecidableEq, Repr

/-- One generator's pool and spill area (R248, R251). -/
structure Pool where
  /-- list | 12 R248, R250 | empty | pool blocks allocated, rising -/
  used : List Nat
  /-- count | 03 R72, 12 R249 | 0 | blocks reserved and not yet allocated -/
  reserved : Nat
  /-- list | 12 R248, R252 | empty | spill blocks in use -/
  spill : List Nat
  /-- block, optional | 12 R251 | none | write-back in progress: (bucket, pool block, spill block) -/
  spilling : Option (Nat × Nat × Nat)
  deriving DecidableEq, Repr

def Pool.reset : Pool := ⟨[], 0, [], none⟩

/-- R249: a request's block table. -/
structure BlockTable where
  /-- 64 bits | 12 R249 HANDLE | - | request -/
  h : Handle
  /-- number | 12 R248 | - | generator slot of its model -/
  gslot : Nat
  /-- 16 bits | 12 R249 MODEL_ID | - | generator -/
  model : Nat
  /-- 16 bits | 12 R249 VARIANT_ID | - | variant -/
  variant : Nat
  /-- 32 bits | 12 R249 LENGTH | 0 | positions written -/
  length : Nat
  /-- 32 bits | 12 R249 RESERVED_LEFT | - | reserved blocks not yet allocated -/
  resLeft : Nat
  /-- 32 bits | 12 R249 PROMPT_LEN | 0 | tokens of the packed prompt -/
  promptLen : Nat
  /-- 2,048 × 32 bits | 12 R249 ENTRY | (0, 0) | KIND and POOL_INDEX of each block -/
  entries : Tab (Nat × Nat)
  /-- list | 04 R91 | - | numbers of the objects the reservation was made for -/
  refs : List Nat
  deriving DecidableEq, Repr

/-- Where a sequence stands on its decode device (R268, R24, R270). -/
inductive SeqSt where
  | reshard | first | decode | ended
  deriving DecidableEq, Repr

/-- A sequence on its decode device. -/
structure Sequence where
  /-- record | 12 R270 | - | the request: handle, order, model, variant, grammar, sampling fields -/
  o : GenOrder
  /-- number | 12 R248 | - | generator slot -/
  gslot : Nat
  /-- list | 04 R91 | - | numbers of the objects it uses -/
  refs : List Nat
  /-- state | 12 R268 | - | where it stands -/
  st : SeqSt
  /-- count | 09 R205 | - | position of the next token among those generated -/
  pos : Nat
  /-- list | 12 R267 | empty | slices received -/
  got : List SliceId
  /-- list | 12 R267 | empty | logit shares received: member, values -/
  shares : List (Nat × List Nat)
  /-- list | 12 R267 | empty | pool blocks taken for prompt blocks whose slices are arriving: (block, pool block) -/
  filling : List (Nat × Nat)
  /-- list | 12 R268 | empty | blocks entered -/
  entered : List Nat
  /-- list, optional | 13 R280 | none | logit row waiting for its mask -/
  waiting : Option (List Nat)
  /-- 1 bit | 12 R270, 01 R24 | 0 | it is in the decode step under way -/
  inStep : Bool
  deriving DecidableEq, Repr

/-- A prefill member's job (R266). -/
structure PrefillJob where
  o : GenOrder
  /-- 1 bit | 12 R266 | 0 | this member has admitted it to prefill -/
  admitted : Bool
  /-- 1 bit | 12 R266 | - | the slices of the reuse run are here -/
  prefixIn : Bool
  /-- list | 12 R266 | empty | pool blocks taken as scratch -/
  scratch : List Nat
  gslot : Nat
  /-- 1 bit | 12 R267 | 0 | its slices have been sent -/
  sent : Bool
  rows : List (Nat × Nat × List Nat)   -- partial rows received: row, member, values
  hidden : List (Nat × List Nat)       -- rows summed over every member (R265)
  /-- list | 04 R91 | - | numbers of the objects it uses -/
  refs : List Nat
  deriving DecidableEq, Repr

/-- A member's last control message (R18, R72). -/
structure Report where
  dev : Nat
  pools : List (Nat × Nat × Nat)   -- MODEL_ID, free and unreserved blocks
  slot : Bool
  room : Bool
  deriving DecidableEq, Repr

structure Gen where
  /-- 8 records | 12 R248 | empty pools | pools by GEN_SLOT -/
  pools : Tab Pool
  /-- 8,192 records | 12 R249 | empty | block tables, by slot -/
  tables : List (Nat × BlockTable)
  /-- 4,194,304 buckets of 4 | 12 R256 | empty | prefix table -/
  pfx : Tab (List PfxEntry)
  /-- list | 12 R256 | empty | tags: (spill, GEN_SLOT, block) -/
  tags : List ((Bool × Nat × Nat) × Tag)
  /-- ns | 12 R259 | 0 | last prefix ageing -/
  ageAt : Nat
  /-- list | 12 R270 | empty | sequences whose decode device this is -/
  seqs : List Sequence
  /-- list | 12 R266 | empty | prefill jobs of this member -/
  jobs : List PrefillJob
  /-- list | 01 R18 | empty | last reports of the group's members -/
  reports : List Report
  /-- list | 12 R263 | empty | variant copies in progress -/
  copies : List Nat
  /-- list | 12 R263 | empty | HBM variant copies, least recently used first -/
  lru : List Nat
  deriving DecidableEq, Repr

/-! ### Compass -/

/-- R275: a Compass record. -/
structure CompassRec where
  h : Handle
  grammar : Nat
  uid : Nat             -- the grammar object's number
  state : Nat
  stack : List Nat      -- top first
  deriving DecidableEq, Repr

structure Compass where
  /-- 192 B each | 13 R275 | empty | records -/
  recs : List CompassRec
  /-- list | 13 R276, R278 | empty | masks built: the tokens allowed -/
  masks : List (Handle × List Nat)
  /-- 131,072 lines | 13 R285 | empty | grammar-cache lines held: (grammar object's number, 64-byte line of its image), least
  recently used first -/
  cache : List (Nat × Nat)
  deriving DecidableEq, Repr

/-! ### Memory tiers -/

/-- R301: the assignment made when a channel is declared: unit k of what it held (its data area, then its spare area by
ascending offset) goes to receiver k mod n, at the next place of that receiver's spare area. -/
structure Assign where
  tier : Nat
  ch : Nat
  to_ : List Nat        -- the healthy channels, ascending
  base : List Nat       -- places each has given away before
  data : Nat            -- units of the data area
  spare : Nat           -- units of the spare area
  deriving DecidableEq, Repr

/-- R301, R302: a move in progress: the units copied so far, of how many, and those poisoned. -/
structure Move where
  tier : Nat
  ch : Nat
  next : Nat
  total : Nat
  poisoned : Nat
  deriving DecidableEq, Repr

/-- R304: a deadline read queued or issued. kind: 0 vector, 1 prefix. (Queued
passage fetches stand among the messages received, with their deadlines.) -/
structure DRead where
  kind : Nat
  h : Handle
  item : Nat
  deadline : Nat
  deriving DecidableEq, Repr

structure Tiers where
  /-- GiB each | 14 R292 | DC 1: empty | board channel capacities found in stage 1 -/
  boardCaps : List Nat
  /-- MT/s | 14 R292, 20 R427 MEM_STATUS | 0 | board rate reached -/
  boardRate : Nat
  /-- MT/s each | 14 R292 | empty | rate of each I/O die's board memory -/
  dieRates : List Nat
  /-- list | 14 R297, R295 | empty | poisoned units as (device address, bytes) -/
  poison : List (Nat × Nat)
  /-- offset by channel | 14 R298 | 0 | scrub position, by tier × 8,192 + channel -/
  scrub : Tab Nat
  /-- list | 14 R301 | empty | moves, in the order declared; the first of a type runs -/
  moves : List Move
  /-- list | 14 R300, 20 R427 | empty | channels retired: (tier, channel) -/
  retired : List (Nat × Nat)
  /-- relocation tables | 14 R301 | empty | where the units of each retired channel go, in the order declared -/
  assigns : List Assign
  /-- list | 14 R308 | empty | physical tile-store banks retired -/
  banks : List Nat
  /-- list | 14 R308, 17 R366 | empty | logical tile-store banks that a spare serves: (logical, physical) -/
  bankMap : List (Nat × Nat)
  /-- lines | 14 R294 | empty | board-cache lines held: (line, dirty since), least recently written first -/
  cache : List (Nat × Option Nat)
  /-- list | 14 R304 | empty | deadline reads -/
  reads : List DRead
  /-- bits | 14 R290 | none | stacks whose refresh rate is doubled -/
  hot : List Nat
  deriving DecidableEq, Repr

/-! ### Passage store -/

/-- R316: a directory entry (LPN of the record's first page, offset and length in 16-byte units). -/
structure DirEntry where
  lpn : Nat
  off16 : Nat
  len16 : Nat
  deriving DecidableEq, Repr

/-- A passage set (R316, R437). -/
structure PassageSet where
  index : Nat
  dir : Tab (Option DirEntry)
  recs : Tab (Option PassageRec)
  dirPages : Tab (Option Nat)  -- LPN of each directory page that a batch has written
  blocks : List Nat            -- logical blocks held
  append : Nat × Nat           -- append point: logical block, 16-byte offset within it
  deriving DecidableEq, Repr

/-- A batch past its LAST-piece checks and not yet committed (R319). -/
structure Batch where
  id : Nat
  part : Nat
  sq : Nat
  count : Nat
  tag : Nat
  index : Nat
  replace : Bool
  recs : List PassageRec
  deriving DecidableEq, Repr

/-- A block set being written (R321). kind: 0 append, 1 merge target, 2 rewrite target, 3 log. -/
structure OpenSet where
  die : Nat
  set : Nat
  kind : Nat
  pages : Nat
  stripe : Nat        -- of its I/O die (R321)
  deriving DecidableEq, Repr

/-- R328: a block-close record, and how far the patrol of the set has come (R329): the next page, and the last read. -/
structure Close where
  die : Nat
  set : Nat
  time : Nat
  temp : Int
  patrol : Nat
  patrolAt : Nat
  deriving DecidableEq, Repr

/-- R313: the spare bytes of a run of programmed pages of a block set: page `first` + i carries LPN `lpn` + i (none: a filler
page, 0xFFFF_FFFF, R322) and the sequence of the commit that names it. -/
structure SpareRun where
  die : Nat
  set : Nat
  first : Nat
  count : Nat
  lpn : Option Nat
  seq : Nat
  deriving DecidableEq, Repr

structure PassageStore where
  /-- counts | 15 R310, R312, 20 R428 PS_CHAN | DC 9: none fitted | (rate, targets) per ONFI channel -/
  chans : Tab (Nat × Nat)
  /-- list | 15 R311 | empty | (channel, target) of each target not used, for the topology check -/
  rejected : List (Nat × Nat)
  /-- count | 15 R322 | DC 9: 1 | pages that share a word line -/
  wordLine : Nat
  /-- words | 15 R328 | DC 9: none | threshold defaults of the fitted die -/
  defaults : List Nat
  /-- 7 bits per die, optional | 15 R328 | none sent | PS_THRESHOLD_TABLE entry last sent to each die -/
  thr : Tab (Option Nat)
  /-- list | 15 R313 | empty | spare bytes of the pages programmed; the LDPC parity they carry too is a function of the page -/
  spare : List SpareRun
  /-- count | 15 R312 | DC 9: 4,096 | pages per block set PB -/
  pb : Nat
  /-- count | 15 R311 | DC 9: 4,096 | block sets per die -/
  perDie : Nat
  /-- up to 16 | 15 R316 | empty | passage sets -/
  sets : List PassageSet
  /-- list | 15 R318 | empty | batches checked, waiting to commit, in order -/
  batches : List Batch
  /-- 4 B each | 15 R313 | unmapped | block map: logical block → (die, block set) -/
  map : Tab (Option (Nat × Nat))
  /-- list | 15 R314 | empty | current log pages: LPN → (die, block set, page) -/
  logs : Tab (Option (Nat × Nat × Nat))
  /-- list | 15 R321 | empty | open block sets -/
  open_ : List OpenSet
  /-- counts | 15 R323, R326 | 0 | erase counts by die × 2^25 + block set -/
  erases : Tab Nat
  /-- list | 15 R321, R331 | empty | grown bad block sets (die, block set) -/
  bad : List (Nat × Nat)
  /-- list | 15 R331 | empty | dies retired -/
  deadDies : List Nat
  /-- 64 bits | 15 R323 | DC 9: 0 | sequence of the last durable commit -/
  seq : Nat
  /-- count | 15 R323 | 0 | commits since the last checkpoint -/
  sinceCkpt : Nat
  /-- 64 bits | 15 R319, 20 R428 PS_DEAD_BYTES | 0 | bytes left behind -/
  dead : Nat
  /-- list | 15 R328 | empty | block-close records -/
  closes : List Close
  /-- list | 15 R329 | empty | block sets scheduled for rewrite -/
  rewrites : List (Nat × Nat)
  /-- list | 15 R319, R320, R324 | empty | block sets released and not erased yet -/
  toErase : List (Nat × Nat)
  /-- 1 bit | 15 R325 | false | programs, erases and journal writes stopped -/
  stopped : Bool
  deriving DecidableEq, Repr

/-! ### Links and network time -/

/-- R334: the state of a port. -/
inductive PortSt where
  | up | degraded | down | fenced | off
  deriving DecidableEq, Repr

/-- A pending list switch (R348): at the first boundary at or after a time. -/
structure Switch where
  at_ : Nat
  list : List W32
  deriving DecidableEq, Repr

structure Port where
  /-- 3 bits | 16 R334, 20 R429 PORT_STATUS | DOWN | state -/
  st : PortSt
  /-- lanes | 16 R333, 20 R429 | 0 | width -/
  width : Nat
  /-- list | 16 R334 | empty | lanes trained -/
  lanes : List Nat
  /-- list | 18 R383 | empty | lanes retired -/
  badLanes : List Nat
  /-- 1 bit | 16 R354, 20 R429 PORT_EN | 0 | enabled -/
  en : Bool
  /-- numbers, optional | 16 R335 | none | partner's DEVNO, port and START_COUNT -/
  partner : Option (Nat × Nat × Nat)
  /-- 1 bit | 17 R372 | 0 | held out of use by the topology check -/
  heldOut : Bool
  /-- 32 bits × ≤256 | 16 R345, 20 R429 ACTIVE_GCL | one entry 0x0000_02FF | active gate list -/
  active : List W32
  /-- 32 bits × 256 | 16 R345, 20 R429 PENDING_GCL | each 0x0000_02FF | pending gate list -/
  pend : Tab (Option W32)
  /-- 9 bits | 20 R429 LIST_LEN | 1 | pending length -/
  pendLen : Nat
  /-- 1 bit | 16 R347, 20 R429 LIST_REFUSED | 0 | a list was refused -/
  refused : Bool
  /-- record, optional | 16 R348, 20 R429 SWITCH_PENDING | none | switch pending -/
  switch : Option Switch
  /-- ns, optional | 16 R345, R348 | none: GATE_BASE | when the cycles of the active list began, after a list switch -/
  base : Option Nat
  /-- index | 16 R345 | 0 | entry of the active list in force -/
  entry : Nat
  /-- 8 queues | 16 R341 | empty | egress queues: messages with their receiver and partition -/
  queues : Tab (List (Nat × Nat × Msg))
  /-- bytes, Q3-Q7 | 16 R343 | 0 | credits -/
  credit : Tab Int
  /-- by 12q + n | 16 R344 | 0 | next eligible times of the flows, in ns times FLOW_RATE -/
  flows : Tab Nat
  /-- 4,096 slots | 16 R344 | empty | calendar wheel: slot → flows entered -/
  wheel : Tab (List Nat)
  /-- count | 16 R342, R350 | 0 | 1588 messages waiting -/
  ptp : Nat
  /-- ns | 16 R349 | 0 | last recalibration -/
  recalAt : Nat
  /-- counts | 16 R337 | 0 | frames already sent of the message at the head, by queue × 65,536 + receiver -/
  midMsg : Tab Nat
  deriving DecidableEq, Repr

def Port.reset : Port :=
  { st := .down, width := 0, lanes := [], badLanes := [], en := false, partner := none, heldOut := false,
    active := [0x2FF], pend := [], pendLen := 1, refused := false, switch := none, base := none, entry := 0,
    queues := [], credit := [], flows := [], wheel := [], ptp := 0, recalAt := 0, midMsg := [] }

/-- Sender's side of one (receiver, queue) (R338). -/
structure Tx where
  dev : Nat
  q : Nat
  seq : Nat
  unacked : List Frame
  sentAt : Nat
  retries : Nat
  alt : Bool
  lost : Bool
  deriving DecidableEq, Repr

/-- Receiver's side of one (sender, queue) (R338). -/
structure Rx where
  dev : Nat
  q : Nat
  next : Nat
  owed : Option Nat      -- when the frame still to be acknowledged was accepted
  deriving DecidableEq, Repr

structure Links where
  /-- 24 records | 16 R333, R429 | each at reset | ports -/
  ports : Tab Port
  /-- list | 16 R338 | empty (sequences from 0) | sender states -/
  tx : List Tx
  /-- list | 16 R338 | empty (sequences from 0) | receiver states -/
  rx : List Rx
  /-- list | 16 R338 | empty | messages delivered whole, newest first -/
  inbox : List (Nat × Msg)
  /-- list | 16 R336, R338, R340 | empty | frames sent, newest first: port, frame -/
  sent : List (Nat × Frame)
  deriving DecidableEq, Repr

/-- Network time (R350-R352). -/
structure NetTime where
  /-- 2 bits | 16 R352, 20 R429 NT_STATUS | UNLOCKED (0) | 0 UNLOCKED, 1 LOCKED, 2 HOLDOVER, 3 FREE_RUN -/
  status : Nat
  /-- 1 bit | 16 R351, 20 R429 NT_STATUS | 0 | step limit exceeded since the last read -/
  stepFlag : Bool
  /-- ppb | 16 R351 | 0 | frequency correction -/
  freq : Int
  /-- ns | 16 R352 | 0 | last Sync from the master -/
  lastSync : Nat
  /-- ns | 16 R352 | 0 | when HOLDOVER was entered -/
  holdAt : Nat
  /-- port, optional | 16 R350 | none | port on which the master's Sync arrives -/
  port : Option Nat
  /-- ns | 19 R417 | 0 | last PPS_IN edge -/
  ppsAt : Nat
  deriving DecidableEq, Repr

/-! ### Bring-up, faults, twin -/

/-- R53: STATE of the device. -/
inductive DevSt where
  | reset | bringup | ready | faulted
  deriving DecidableEq, Repr

def DevSt.toNum : DevSt → Nat
  | .reset => 0 | .bringup => 1 | .ready => 2 | .faulted => 3

/-- R371: the Expected Topology Record as read. Ports as (PARTNER_DEVNO, PARTNER_PORT, MIN_WIDTH, REQUIRED). -/
structure Etr where
  minPorts : Nat
  ntMin : Nat
  allowUnexpected : Bool
  waitS : Nat
  ports : List (Nat × Nat × Nat × Bool)
  deriving DecidableEq, Repr

structure Boot where
  /-- 2 bits | 02 R53, 17 R376 STATE | RESET | state of the device -/
  st : DevSt
  /-- 3 bits | 02 R53, 17 R376 STAGE | 0 | bring-up stage -/
  stage : Nat
  /-- 1 bit | 17 R376 FW_RUNNING | 0 | firmware runs -/
  fw : Bool
  /-- 1 bit | 17 R376 START_KIND | 0 | warm start -/
  warm : Bool
  /-- 1 bit | 17 R376 IMAGE | 0 | image B runs -/
  imageB : Bool
  /-- 1 bit | 17 R370, R376 SETUP_DONE | 0 | set-up done -/
  setupDone : Bool
  /-- 1 bit | 17 R370, R376 SETUP_REFUSED | 0 | set-up refused -/
  refused : Bool
  /-- 32 bits | 17 R370, R376 SETUP_REFUSED_AT | 0 | register named -/
  refusedAt : Nat
  /-- 1 bit | 17 R373, R376 TOPO_FAIL | 0 | topology not passed in time -/
  topoFail : Bool
  /-- 1 bit | 17 R367, R376 PS_MAP_NEW | 0 | passage store started empty -/
  mapNew : Bool
  /-- 32 bits | 17 R369, R376 FATAL_CODE | 0 | fatal code -/
  fatal : Nat
  /-- 1 bit | 17 R371 | 0 | the read of the ETR is outstanding -/
  etrWait : Bool
  /-- record, optional | 17 R371 | none | the ETR read at the last SETUP_DONE -/
  etr : Option Etr
  /-- ns, optional | 17 R370, R373 | none | when stage 4 began -/
  stage4At : Option Nat
  /-- 1 bit | 17 R366 | 0 | stage 3 has ended -/
  mapped : Bool
  /-- list | 17 R362, R364, R366 | empty | failures of stages 1 and 2: (class, physical index) -/
  fails : List (Nat × Nat)
  /-- list | 17 R379, R372 | empty | link ports held off by logic BIST -/
  heldPorts : List Nat
  /-- 32 bits × 24 | 17 R372, R376 PORT_RESULT | CLASS 4, DEVNO 0xFFFF | class of each port -/
  portClass : Tab Nat
  /-- 1 bit | 17 R360, R379 | 0 | the logic BIST of this cold start has ended -/
  bistDone : Bool
  /-- 1 bit | 17 R379, R376 BIST_STATUS | 0 | BUSY -/
  bistBusy : Bool
  /-- 1 bit | 17 R376 BIST_STATUS | 0 | FAIL -/
  bistFail : Bool
  /-- 96 bits | 17 R376 BIST_FAIL | 0 | domains that failed -/
  bistFailed : List Nat
  /-- list | 17 R379 | empty | domains of the host-started run still to test -/
  bistRun : List Nat
  /-- 1 bit | 20 R424 LC_REFUSED | 0 | last life-cycle request refused -/
  lcRefused : Bool
  /-- list | 17 R355, 19 R402 | empty | rails outside their range -/
  rails : List Nat
  /-- 1 bit | 19 R410 | 0 | REFCLK_SYS absent: held in reset -/
  noClock : Bool
  /-- 1 bit | 19 R413 | 0 | THERMTRIP_N asserted, until every rail is removed and restored -/
  tripped : Bool
  /-- ns | 18 R382 | 0 | network time of READY: error windows start here -/
  readyAt : Nat
  deriving DecidableEq, Repr

structure Faults where
  /-- counts | 18 R382, R383 | 0 | transient errors by class × 2^24 + index in the present window -/
  transient : Tab Nat
  /-- counts | 18 R382, R383 | 0 | corrected errors (FCS failures for lanes) in the present window -/
  corrected : Tab Nat
  /-- list | 18 R386 | empty | retirements declared and not finished: (class, index) -/
  queue : List (Nat × Nat)
  /-- ns | 18 R388 | 0 | last watchdog strike -/
  strike : Nat
  deriving DecidableEq, Repr

structure Twin where
  /-- 1 bit | 18 R400 | 0 | mirroring covers new requests -/
  active : Bool
  /-- 1 bit | 18 R395 | 0 | a heartbeat has arrived in this interval -/
  seen : Bool
  /-- count | 18 R396 | 0 | consecutive misses -/
  misses : Nat
  /-- 1 bit | 18 R396 | 0 | the twin's DSB is being read -/
  reading : Bool
  /-- 1 bit | 18 R397 | 0 | this device has taken its twin over -/
  took : Bool
  /-- count | 18 R391 | DC 3: 0 | heartbeats discarded -/
  discarded : Nat
  deriving DecidableEq, Repr

/-! ### Power, pins, counters -/

/-- R406: the state of a power domain. -/
inductive DomSt where
  | off | poweringUp | on | draining | fenced
  deriving DecidableEq, Repr

/-- R419: a power domain. -/
structure Dom where
  /-- 1 bit | 19 R419 EN | 1 fitted | EN -/
  en : Bool
  /-- 3 bits | 19 R406, R419 STATE | OFF | state -/
  st : DomSt
  /-- 1 bit | 19 R409, R419 REFUSED | 0 | an EN of 0 was refused -/
  refused : Bool
  deriving DecidableEq, Repr

def Dom.reset : Dom := ⟨true, .off, false⟩

structure Power where
  /-- 96 records | 19 R405, R406, R419 | OFF, EN 1 | power domains -/
  doms : Tab Dom
  /-- MHz | 19 R411, R419 PWR_STATUS | 0 | CK_ARR -/
  ckArr : Nat
  /-- MHz | 19 R412 | DC 10: 1,600 (grade clock) | the power target -/
  pwrTarget : Nat
  /-- 1 bit | 19 R412 | 0 | the temperature target holds -/
  thermal : Bool
  /-- °C | 19 R419 TJ_READ | 0 | hottest sensor now -/
  tj : Nat
  /-- °C | 19 R419 TJ_READ | 0 | hottest since the start -/
  tjMax : Nat
  /-- W | 19 R419 PWR_AVG_W | 0 | last 1 ms average -/
  avg : Nat
  /-- 1 bit | 19 R419 PWR_STATUS | 0 | power limiting -/
  limiting : Bool
  /-- 1 bit | 19 R414 | 0 | THROTTLE_STUCK -/
  stuck : Bool
  /-- ns, optional | 19 R414 | none | since when THROTTLE_N has been settled active -/
  throttleAt : Option Nat
  /-- 3 bits | 19 R410 | present | reference clocks absent -/
  refLost : List Nat
  deriving DecidableEq, Repr

/-- R416: one sideband input. -/
structure Sideband where
  /-- 1 bit | 19 R416, R420 SIDEBAND_STATUS [3:0] | DC 10: inactive | filtered state, active -/
  active : Bool
  /-- 1 bit | 19 R416, R420 SIDEBAND_STATUS [7:4] | 0 | unsettled -/
  unsettled : Bool
  /-- 8 bits | 19 R416, R420 UNSETTLED_COUNT | 0 | entries to the unsettled state, saturating -/
  count : Nat
  deriving DecidableEq, Repr

/-- R417, R418: one GPIO_MUX pin. -/
structure Gpio where
  /-- 3 bits | 19 R417, R420 FUNC | 1 for pins 0-1, else 0 | function in force -/
  func : Nat
  /-- 2 bits | 19 R420 PULL | 2 | pull -/
  pull : Nat
  /-- 1 bit | 19 R420 | 0 | GPIO_OE -/
  oe : Bool
  /-- 1 bit | 19 R420 | 0 | GPIO_OUT -/
  out : Bool
  /-- 3 bits, optional | 19 R418, R420 SWITCHING | none | function that starts when the switch ends -/
  pend : Option Nat
  /-- 1 bit | 19 R418, R420 | 0 | XFER_ERR -/
  xferErr : Bool
  deriving DecidableEq, Repr

structure Pins where
  /-- 4 records | 19 R416 | each at reset | THROTTLE_N, PWR_FAIL_N, PERST_N, SYS_RST_N -/
  side : Tab Sideband
  /-- 8 records | 19 R417 | R420 | GPIO_MUX pins -/
  gpio : Tab (Option Gpio)
  /-- 1 bit | 19 R415 | 0 | FAULT_N asserted -/
  faultN : Bool
  /-- 1 bit | 19 R417 | 0 | a PPS_OUT pulse is high -/
  pps : Bool
  /-- count | 19 R418 | 0 | PPS seconds missed in a switch -/
  ppsMissed : Nat
  /-- 8 bits | 17 R374 | DC 3: 0 | MCTP endpoint ID -/
  eid : Nat
  /-- number | 17 R374, R380 | DC 3: 0 | what the last MCTP message or JTAG instruction was answered with -/
  reply : Nat
  deriving DecidableEq, Repr

/-- R431: one event counter. -/
structure Counter where
  /-- 30 bits | 20 R431 CNT_SEL | 0x1FFF_F000 | selection -/
  sel : W32
  /-- 48 bits | 20 R431, R432 | 0 | count -/
  val : Nat
  /-- 1 bit | 20 R431 OVF | 0 | overflow -/
  ovf : Bool
  /-- 48 bits | 20 R431 CNT_SHADOW | 0 | shadow -/
  shadow : Nat
  /-- 1 bit | 20 R431 CNT_SHADOW | 0 | overflow at the snapshot -/
  shOvf : Bool
  deriving DecidableEq, Repr

def Counter.reset : Counter := ⟨0x1FFFF000, 0, false, 0, false⟩

structure Counters where
  /-- 256 records | 20 R431 | each at reset | counters -/
  cnt : Tab Counter
  /-- 32 bits | 20 R431 SNAP_SEQ | 0 | snapshots taken -/
  seq : Nat
  /-- ns | 20 R433 | 0 | last periodic snapshot -/
  last : Nat
  deriving DecidableEq, Repr

/-! ### The whole -/

/-- Why a command stops without a next state. The K4's own errors are status codes, events and the FAULTED state, all
of them next states; nothing in the spec stops the machine, so this type has no constructor (R11, R389). -/
inductive Fault where
  deriving DecidableEq, Repr

/-- Why a command has no meaning here. -/
inductive Refusal where
  /-- Raised by a refused arm of `exec`: the command has not been given its meaning. Safe. -/
  | notModelled (mnemonic : String)
  /-- Raised by JTAG_OTHER_INSTRUCTION in a life-cycle state that opens all instructions: the spec does not say what
  the instruction does (17 R380). Safe. -/
  | jtagInstruction (code : Nat)
  deriving DecidableEq, Repr

/-- The state of one K4. -/
structure State where
  /-- list | the task | empty | commands waiting, first in first out -/
  pending : List Instr
  /-- 64 bits | 01 R15, 16 R350, 20 R429 NT_TIME | 0 | network time in ns, as last read through the synchroniser -/
  now : Nat
  /-- number | the model's own | DC 6: 0 | counter of free values drawn -/
  free : Nat
  ident : Ident
  flash : PkgFlash
  cell : Cell
  bar : Bar
  host : HostPort
  /-- 12 records | 04 R83, 20 R426 | each at reset | partitions -/
  parts : Tab Part
  lb : Logbook
  obj : Objects
  /-- bytes | 14 R288 | none listed: 0 (R363) | tile store, HBM and board memory by device address -/
  mem : Mem
  helm : Helm
  array : Meridian
  /-- list | 02 R41 | empty | streams by number -/
  streams : Tab (Option Stream)
  /-- number | 04 R85 | 0 | streams started -/
  nextSid : Nat
  wp : Waypoints
  bearing : Bearing
  /-- list | 09 R194 | empty | Sextant lists held by merges: (list, handle) -/
  lists : List (Nat × Handle)
  feat : Feature
  /-- 65,536 lines | 11 R227 | empty | vocabulary cache -/
  vcache : List VLine
  gen : Gen
  compass : Compass
  tiers : Tiers
  ps : PassageStore
  links : Links
  nt : NetTime
  boot : Boot
  faults : Faults
  twin : Twin
  power : Power
  pins : Pins
  cnt : Counters
  deriving DecidableEq, Repr

/-- The state right after reset (R8, R61, R70, R95, R355, R376 and each register table's Reset column). -/
def State.reset : State :=
  { pending := [], now := 0, free := 0,
    ident := { hbmStacks := 8, iods := 4, grade := 2, stepping := 0, serial := 0, arrVid := 750, fused := [], minSec := 0 },
    flash := { startCount := 0, devno := 0xFFFF, warmEn := true, forceCold := false, coldEvery := 16,
               mtParams := 0x0100085A, imgA := ⟨0, 0, true⟩, imgB := ⟨0, 0, true⟩, saved := false, warmRuns := 0,
               lastFaulted := false, grown := [], lc := 3, lcPending := none },
    cell := { group := [], shards := [] },
    bar := { regs := [], ignored := 0, ignoredAt := 0, lastRead := 0, ntHi := 0, deadHi := 0 },
    host := { mem := [], cfgReady := false, busMaster := false, lastRetry := false, heartbeat := 0, hbTime := 0,
              hbLastOk := 0, takes := 0 },
    parts := [],
    lb := { entries := [], work := [], fresh := 0, freed := [], order := 0, mirrors := [] },
    obj := { objs := [], loads := [], nextUid := 0, profiles := [], staged := [], places := [] },
    mem := [],
    helm := { queue := [], issued := [], rerun := [], seq := 0, ctx := 0, swap := none, dirty := [], stopped := false,
              delay := 0 },
    array := { groups := 0, dummy := 1, fill := false, ws := 0, lastAt := 0, rowSpare := none, colSpare := none, suspect := [] },
    streams := [], nextSid := 0,
    wp := { count := [], waits := [] },
    bearing := { queries := [], lines := [], retired := [], batches := 0 },
    lists := [],
    feat := { cache := [], order := 0, epoch := 0, spans := [(0, 0, 10000000)], pos := 0, contribs := [], applied := 0, stale := [], acks := [] },
    vcache := [],
    gen := { pools := [], tables := [], pfx := [], tags := [], ageAt := 0, seqs := [], jobs := [], reports := [],
             copies := [], lru := [] },
    compass := { recs := [], masks := [], cache := [] },
    tiers := { boardCaps := [], boardRate := 0, dieRates := [], poison := [], scrub := [], moves := [], retired := [], assigns := [],
               banks := [], bankMap := [], cache := [], reads := [], hot := [] },
    ps := { chans := [], rejected := [], wordLine := 1, defaults := [], thr := [], spare := [], pb := 4096, perDie := 4096, sets := [], batches := [], map := [], logs := [], open_ := [],
            erases := [], bad := [], deadDies := [], seq := 0, sinceCkpt := 0, dead := 0, closes := [], rewrites := [],
            toErase := [], stopped := false },
    links := { ports := [], tx := [], rx := [], inbox := [], sent := [] },
    nt := { status := 0, stepFlag := false, freq := 0, lastSync := 0, holdAt := 0, port := none, ppsAt := 0 },
    boot := { st := .reset, stage := 0, fw := false, warm := false, imageB := false, setupDone := false,
              refused := false, refusedAt := 0, topoFail := false, mapNew := false, fatal := 0, etrWait := false,
              etr := none, stage4At := none, mapped := false, fails := [], heldPorts := [], portClass := [],
              bistDone := false, bistBusy := false, bistFail := false, bistFailed := [], bistRun := [], lcRefused := false,
              rails := [], noClock := false, tripped := false, readyAt := 0 },
    faults := { transient := [], corrected := [], queue := [], strike := 0 },
    twin := { active := false, seen := false, misses := 0, reading := false, took := false,
              discarded := 0 },
    power := { doms := [], ckArr := 0, pwrTarget := 1600, thermal := false, tj := 0, tjMax := 0, avg := 0,
               limiting := false, stuck := false, throttleAt := none, refLost := [] },
    pins := { side := [], gpio := [], faultN := false, pps := false, ppsMissed := 0, eid := 0,
              reply := 0 },
    cnt := { cnt := [], seq := 0, last := 0 } }

end Sys2Proof.Machine
end

