-- ==== Sys2Proof/Machine/RegMap.lean ====
section
/-! DEFINITION. BAR0 (R8-R10, R421-R431): where each register stands, its reset value, which of its bits take writes,
which of those are set-up fields (S) and which range each takes. What a register's bits DO stands with its unit. -/

namespace Sys2Proof.Machine

/-- R422: the values a field takes. `wrap a b` takes a value at or above `a` or at or below `b` (a signed range);
`but a b x` takes [a, b] without `x`. Fields checked only as a set take any value. -/
inductive Rng where
  | any
  | within (a b : Nat)
  | wrap (a b : Nat)
  | but (a b x : Nat)
  deriving DecidableEq, Repr

def Rng.ok : Rng → Nat → Bool
  | .any, _ => true
  | .within a b, v => decide (a ≤ v) && decide (v ≤ b)
  | .wrap a b, v => decide (a ≤ v) || decide (v ≤ b)
  | .but a b x, v => decide (a ≤ v) && decide (v ≤ b) && v != x

/-- One writable field: its bits, whether it is a set-up field (R422), and its range. -/
structure Fld where
  hi : Nat
  lo : Nat
  setup : Bool
  rng : Rng
  deriving DecidableEq, Repr

/-- One register: reset value and writable fields. RO, RSV and WO bits are not listed. -/
structure RegSpec where
  reset : Nat
  flds : List Fld
  deriving DecidableEq, Repr

/-! ### Offsets (R421 and the regions' tables) -/

def rDEVNO : Nat := 0x20000
def rDSB_LO : Nat := 0x20004
def rDSB_HI : Nat := 0x20008
def rTWIN_CTRL : Nat := 0x2000C
def rTWIN_DEVNO : Nat := 0x20010
def rTWIN_DSB_LO : Nat := 0x20014
def rTWIN_DSB_HI : Nat := 0x20018
def rOPQ_MAX : Nat := 0x2001C
def rABORT_TIMEOUT : Nat := 0x20020
def rMIRROR_QUOTA : Nat := 0x20024
def rLC_AUTH_LO : Nat := 0x10008
def rDOMAIN : Nat := 0x30000
def rPWR_LIMIT : Nat := 0x30200
def rTJ_CTRL : Nat := 0x3020C
def rGPIO : Nat := 0x40000
/-- A register of partition `p` (R426). -/
def rPart (p o : Nat) : Nat := 0x100000 + p * 0x10000 + o
def pSQ_LO (i : Nat) : Nat := 0x10 + 16 * i
def pSQ_CFG (i : Nat) : Nat := 0x18 + 16 * i
def rMem (o : Nat) : Nat := 0x200000 + o
def rPs (o : Nat) : Nat := 0x300000 + o
/-- A register of link port `q` (R429). -/
def rPort (q o : Nat) : Nat := 0x400000 + q * 0x1000 + o
/-- A word of route entry `e` (R429). -/
def rRoute (e w : Nat) : Nat := 0x440000 + 16 * e + 4 * w
def rLink (o : Nat) : Nat := 0x460000 + o
def rEng (o : Nat) : Nat := 0x500000 + o
def rCnt (o : Nat) : Nat := 0x600000 + o
def rBring (o : Nat) : Nat := 0x700000 + o
def rTOPO_LO : Nat := 0x700010

/-! ### Field lists -/

/-- A run-time (D) field and a set-up (S) field. -/
def fD (hi lo : Nat) (r : Rng := .any) : Fld := ⟨hi, lo, false, r⟩
def fS (hi lo : Nat) (r : Rng := .any) : Fld := ⟨hi, lo, true, r⟩

/-- R5, R419: the grade's package power limit in watts, and its array clock in MHz. -/
def gradeWatts (g : Nat) : Nat := if g = 1 then 1050 else if g = 2 then 1300 else 1600
def gradeMHz (g : Nat) : Nat := if g = 1 then 1400 else if g = 2 then 1600 else 1850

/-- R425: global set-up. -/
def specGlob (devno : Nat) : Nat → Option RegSpec
  | 0x00 => some ⟨devno, [fS 15 0 (.within 0 0xFFFE)]⟩
  | 0x04 => some ⟨0, [fS 31 12]⟩
  | 0x08 => some ⟨0, [fS 31 0]⟩
  | 0x0C => some ⟨0x00060000, [fS 0 0, fS 12 8, fS 20 16]⟩
  | 0x10 => some ⟨0xFFFF, [fS 15 0]⟩
  | 0x14 => some ⟨0, [fS 31 12]⟩
  | 0x18 => some ⟨0, [fS 31 0]⟩
  | 0x1C => some ⟨0x32, [fD 7 0 (.within 10 200)]⟩
  | 0x20 => some ⟨2, [fD 6 0 (.within 1 100)]⟩
  | 0x24 => some ⟨0, [fS 18 0]⟩
  | 0x28 => some ⟨0, []⟩
  | 0x2C => some ⟨0, []⟩
  | _ => none

/-- R426: a partition's registers. PART_CTRL's EN and SQi_CFG's SQ_EN have commands of their own and are not listed. -/
def specPart (o : Nat) : Option RegSpec :=
  if o % 4 ≠ 0 then none
  else if o = 0x00 then some ⟨0, [fD 1 1, fD 2 2]⟩
  else if o = 0x04 then some ⟨100, [fD 6 0 (.within 1 100)]⟩
  else if o = 0x08 then some ⟨0, [fD 31 7]⟩
  else if o = 0x0C then some ⟨0, [fD 31 0]⟩
  else if 0x10 ≤ o ∧ o < 0x110 then
    (match o % 16 with
     | 0 => some ⟨0, [fD 31 12]⟩
     | 4 => some ⟨0, [fD 31 0]⟩
     | 8 => some ⟨6, [fD 4 0]⟩
     | _ => none)
  else if o = 0x110 ∨ o = 0x120 then some ⟨0, [fD 31 12]⟩
  else if o = 0x114 ∨ o = 0x124 then some ⟨0, [fD 31 0]⟩
  else if o = 0x118 then some ⟨8, [fD 4 0]⟩
  else if o = 0x128 then some ⟨6, [fD 4 0]⟩
  else if o = 0x130 then some ⟨0, [fD 18 0]⟩
  else if o = 0x134 then some ⟨0xC0, [fD 8 0 (.within 0 256)]⟩
  else if 0x140 ≤ o ∧ o < 0x180 then
    (match o % 16 with
     | 0 => some ⟨0, [fD 23 0]⟩
     | 4 => some ⟨0, [fD 23 0]⟩
     | 8 => some ⟨1, [fD 15 0 (.within 1 65535)]⟩
     | _ => none)
  else if 0x180 ≤ o ∧ o < 0x1A0 then
    some ⟨([60000, 30000, 100000, 40000, 500000, 60000, 0, 0] : List Nat).getD ((o - 0x180) / 4) 0, [fD 31 0]⟩
  else if o = 0x1A0 then some ⟨0x00082808, [fD 6 0, fD 14 8]⟩
  else if o = 0x1A4 then some ⟨1, [fD 7 0]⟩
  else if 0x1B0 ≤ o ∧ o < 0x1D8 then
    (if o % 8 = 0 then some ⟨0, [fD 23 0]⟩ else some ⟨0x10000, [fD 24 0 (.within 1 16777216)]⟩)
  else if o = 0x200 then some ⟨0, [fD 15 0]⟩
  else if o = 0x204 then some ⟨0, [fD 16 0]⟩
  else if o = 0x208 then some ⟨0, [fD 13 0 (.within 0 10000)]⟩
  else if 0x210 ≤ o ∧ o < 0x220 then some ⟨10000, [fD 31 0]⟩
  else if o = 0x220 then some ⟨200, [fD 31 0]⟩
  else if o = 0x224 then some ⟨1000, [fD 31 0]⟩
  else none

/-- R427: memory tiers. -/
def specMem (o : Nat) : Option RegSpec :=
  if o % 4 ≠ 0 then none
  else if o < 0x0C then some ⟨0, []⟩
  else if o = 0x10 then some ⟨0x10, [fS 6 0]⟩
  else if o = 0x14 then some ⟨1000, [fS 16 0 (.within 10 100000)]⟩
  else if o = 0x18 then some ⟨0x40, [fS 7 0]⟩
  else if o = 0x1C then some ⟨10000, [fD 23 0 (.within 100 10000000)]⟩
  else if o = 0x20 then some ⟨0xFF, [fD 7 0 (.within 1 255)]⟩
  else if 0x40 ≤ o ∧ o < 0xC0 then
    (match o % 16 with
     | 0 => some ⟨0, [fS 15 0, fS 16 16]⟩
     | 4 => some ⟨0, [fS 19 0]⟩
     | 8 => some ⟨0, [fS 19 0]⟩
     | _ => some ⟨0x40, [fS 15 0]⟩)
  else if o = 0xC0 then some ⟨9216, [fS 23 0]⟩
  else none

/-- R428, R332: the passage store. RATED_CYCLES, FLASH_TEMP_FA and PS_THRESHOLD come from the dies' parameter pages
(assumption log 9: 0 with no die fitted). -/
def specPs (o : Nat) : Option RegSpec :=
  if o % 4 ≠ 0 then none
  else if o = 0x00 then some ⟨0x00101004, [fS 3 0 (.within 1 8), fS 19 4 (.within 16 65535), fS 24 20 (.within 0 16)]⟩
  else if o = 0x04 then some ⟨0x10, [fS 6 0 (.within 1 64)]⟩
  else if o = 0x08 then some ⟨0x00080040, [fS 10 0 (.within 8 1024), fS 22 16 (.within 4 64)]⟩
  else if o = 0x0C then some ⟨0x5028, [fS 7 0, fS 15 8 (.within 1 255)]⟩
  else if o = 0x10 then some ⟨0xA8, [fS 9 0 (.within 1 720)]⟩
  else if o = 0x14 then some ⟨0, [fS 16 0 (.within 100 100000)]⟩
  else if o = 0x18 then some ⟨0, [fS 7 0]⟩
  else if o = 0x20 ∨ o = 0x24 then some ⟨0, []⟩
  else if 0x40 ≤ o ∧ o < 0x80 then some ⟨0, []⟩
  else if 0x1000 ≤ o ∧ o < 0x1400 then
    (if o % 8 = 0 then some ⟨0, [fS 31 0]⟩ else some ⟨0, [fS 23 0]⟩)
  else none

/-- R429, R354: one link port. -/
def specPort (o : Nat) : Option RegSpec :=
  if o % 4 ≠ 0 then none
  else if o = 0x00 then some ⟨0, [fS 1 1, fS 13 2 (.within 0 4094), fS 14 14]⟩
  else if o = 0x04 then some ⟨4, []⟩
  else if o = 0x08 then some ⟨0, [fS 31 0]⟩
  else if o = 0x0C then some ⟨0, [fS 15 0]⟩
  else if o = 0x10 then
    some ⟨0x00FAC688, [fS 2 0, fS 5 3, fS 8 6, fS 11 9, fS 14 12, fS 17 15, fS 20 18, fS 23 21]⟩
  else if 0x20 ≤ o ∧ o < 0x34 then
    some ⟨([0x10008, 0x10002, 0x10004, 0x10001, 0x10001] : List Nat).getD ((o - 0x20) / 4) 0,
          [fD 7 0, fD 20 8 (.within 8 4096)]⟩
  else if o = 0x40 ∨ o = 0x44 then some ⟨0, [fS 31 0]⟩
  else if o = 0x48 then some ⟨1000, [fS 15 0 (.within 1 60000)]⟩
  else if o = 0x4C then some ⟨0, []⟩
  else if o = 0x50 ∨ o = 0x54 then some ⟨0, [fD 31 0]⟩
  else if o = 0x58 then some ⟨0x00010001, [fD 24 16 (.within 1 256)]⟩
  else if 0x100 ≤ o ∧ o < 0x280 then some ⟨0, [fD 12 0 (.within 0 8000)]⟩
  else if 0x800 ≤ o ∧ o < 0xC00 then some ⟨0x2FF, []⟩
  else if 0xC00 ≤ o ∧ o < 0x1000 then some ⟨0x2FF, [fD 31 9 (.within 1 8388607), fD 8 8, fD 7 0]⟩
  else none

/-- R429: the route table. -/
def specRoute (o : Nat) : Option RegSpec :=
  match o % 16 with
  | 0 => some ⟨0, [fS 15 0, fS 20 16, fS 28 24, fS 31 31]⟩
  | 4 => some ⟨0, [fS 31 0]⟩
  | 8 => some ⟨0, [fS 15 0, fS 31 16]⟩
  | 12 => some ⟨0, [fS 31 0]⟩
  | _ => none

/-- R429, R354: the device-wide link registers. -/
def specLink : Nat → Option RegSpec
  | 0x00 => some ⟨0x88B5, [fS 15 0 (.but 0x0600 0xFFFF 0x88F7)]⟩
  | 0x04 => some ⟨0x00082010, [fS 5 0 (.within 1 32), fS 15 8 (.within 2 128), fS 22 16 (.within 1 64)]⟩
  | 0x08 => some ⟨0x001403E8, [fS 13 0 (.within 100 10000), fS 25 16 (.within 2 1000)]⟩
  | 0x0C => some ⟨0x0D808000, [fS 7 0, fS 15 8, fS 23 16, fS 27 24 (.wrap 12 0)]⟩
  | 0x10 => some ⟨10000, [fS 19 0 (.within 100 1000000)]⟩
  | 0x14 => some ⟨1000, [fS 13 0 (.within 1 10000)]⟩
  | 0x18 => some ⟨0, []⟩
  | 0x20 => some ⟨0, []⟩
  | 0x24 => some ⟨0, []⟩
  | 0x28 => some ⟨0, [fD 31 0]⟩
  | 0x2C => some ⟨0, [fD 31 0]⟩
  | _ => none

/-- R430, R217: engine set-up. UPD_GRACE_US runs up to UPD_EPOCH_US as it stands. -/
def specEng (epoch : Nat) : Nat → Option RegSpec
  | 0x00 => some ⟨1000, [fD 13 0 (.within 10 10000)]⟩
  | 0x04 => some ⟨0x000103E8, [fD 13 0 (.within 10 10000), fD 19 16]⟩
  | 0x08 => some ⟨10000, [fD 19 0 (.within 1000 1000000)]⟩
  | 0x0C => some ⟨2000, [fD 19 0 (.within 100 epoch)]⟩
  | 0x10 => some ⟨0, []⟩
  | 0x20 => some ⟨0, [fD 7 0, fD 31 16]⟩
  | 0x24 => some ⟨0, []⟩
  | _ => none

/-- R431: event counters. CNT_SEL and SNAP have commands of their own. -/
def specCnt (o : Nat) : Option RegSpec :=
  if o % 4 ≠ 0 then none
  else if o < 0x400 then some ⟨0x1FFFF000, []⟩
  else if o < 0xC00 then some ⟨0, []⟩
  else if o = 0xC00 then some ⟨0, [fD 23 8]⟩
  else if o = 0xC04 then some ⟨0, []⟩
  else none

/-- R376: bring-up and self-test. SETUP_DONE and START have commands of their own. FORCE_COLD is W1S. -/
def specBring (o : Nat) : Option RegSpec :=
  if o % 4 ≠ 0 then none
  else if o = 0x0C then some ⟨0x1002, [fD 1 1, fD 2 2, fD 15 8 (.within 1 255)]⟩
  else if o = 0x10 then some ⟨0, [fD 31 8]⟩
  else if o = 0x14 then some ⟨0, [fD 31 0]⟩
  else if o = 0x18 then some ⟨0x0100085A, [fD 9 0 (.within 1 600), fD 11 10, fD 31 16]⟩
  else if 0x20 ≤ o ∧ o < 0x80 then some ⟨0x0400FFFF, []⟩
  else if 0x108 ≤ o ∧ o < 0x114 then some ⟨0, [fD 31 0]⟩
  else if o = 0 ∨ o = 4 ∨ o = 8 ∨ o = 0x1C ∨ o = 0x80 ∨ o = 0x100 ∨ o = 0x104 then some ⟨0, []⟩
  else if 0x118 ≤ o ∧ o < 0x124 then some ⟨0, []⟩
  else none

/-- R419: power domains. EN has commands of its own; REFUSED is W1C. -/
def specPwr (grade : Nat) (o : Nat) : Option RegSpec :=
  if o % 4 ≠ 0 then none
  else if o < 0x180 then some ⟨1, [fD 4 4]⟩
  else if o = 0x200 then some ⟨gradeWatts grade, [fD 11 0 (.within (gradeWatts grade / 2) (gradeWatts grade))]⟩
  else if o = 0x20C then some ⟨0x5F, [fD 7 0 (.within 70 105)]⟩
  else if o = 0x204 ∨ o = 0x208 ∨ o = 0x210 ∨ o = 0x214 then some ⟨0, []⟩
  else none

/-- R420: pins. FUNC has a command of its own; XFER_ERR is W1C. -/
def specPin (o : Nat) : Option RegSpec :=
  if o % 4 ≠ 0 then none
  else if o < 8 then some ⟨0x11, [fD 4 3 (.within 0 2), fD 5 5, fD 6 6, fD 9 9]⟩
  else if o < 0x20 then some ⟨0x10, [fD 4 3 (.within 0 2), fD 5 5, fD 6 6, fD 9 9]⟩
  else if o = 0x40 ∨ o = 0x44 then some ⟨0, []⟩
  else none

/-- R423, R424. -/
def specId (o : Nat) : Option RegSpec := if o % 4 = 0 ∧ o < 0x18 then some ⟨0, []⟩ else none
def specLc : Nat → Option RegSpec
  | 0 => some ⟨0, []⟩
  | 4 => some ⟨0, []⟩
  | 8 => some ⟨0, [fD 31 8]⟩
  | 12 => some ⟨0, [fD 31 0]⟩
  | _ => none

/-- R421: the register at a BAR0 offset; none where no table defines one. `epoch` is UPD_EPOCH_US as it stands. -/
def regSpec (id : Ident) (fl : PkgFlash) (epoch off : Nat) : Option RegSpec :=
  if off < 0x10000 then specId off
  else if off < 0x20000 then specLc (off - 0x10000)
  else if off < 0x30000 then specGlob fl.devno (off - 0x20000)
  else if off < 0x40000 then specPwr id.grade (off - 0x30000)
  else if off < 0x50000 then specPin (off - 0x40000)
  else if 0x100000 ≤ off ∧ off < 0x1C0000 then specPart (off % 0x10000)
  else if 0x200000 ≤ off ∧ off < 0x300000 then specMem (off - 0x200000)
  else if 0x300000 ≤ off ∧ off < 0x400000 then specPs (off - 0x300000)
  else if 0x400000 ≤ off ∧ off < 0x418000 then specPort (off % 0x1000)
  else if 0x440000 ≤ off ∧ off < 0x444000 then specRoute (off - 0x440000)
  else if 0x460000 ≤ off ∧ off < 0x470000 then specLink (off - 0x460000)
  else if 0x500000 ≤ off ∧ off < 0x600000 then specEng epoch (off - 0x500000)
  else if 0x600000 ≤ off ∧ off < 0x700000 then specCnt (off - 0x600000)
  else if 0x700000 ≤ off ∧ off < 0x800000 then specBring (off - 0x700000)
  else none

/-- The value of a set-up register as last written, else its reset value. -/
def reg (s : State) (off : Nat) : Nat :=
  match tget none s.bar.regs off with
  | some v => v.toNat
  | none =>
    match regSpec s.ident s.flash 0 off with
    | some r => r.reset
    | none => 0

/-- Bits of a set-up register. -/
def regBits (s : State) (off hi lo : Nat) : Nat := bits (reg s off) hi lo

/-- R332: PS_CFG0 once the geometry is known: MERGE_PAGES runs up to PB. -/
def mergeRange (s : State) (r : RegSpec) : RegSpec :=
  { r with flds := r.flds.map fun f => if f.lo = 4 then { f with rng := .within 16 s.ps.pb } else f }

/-- The register at an offset, with the ranges that hang on the state: UPD_GRACE_US up to UPD_EPOCH_US (R430), MERGE_PAGES up
to PB from the moment training has found the flash parts. -/
def specNow (s : State) (off : Nat) : Option RegSpec :=
  (regSpec s.ident s.flash (regBits s (rEng 8) 19 0) off).map fun r =>
    if off = rPs 0 ∧ s.ps.chans ≠ [] then mergeRange s r else r

/-- Keep a set-up register's value. -/
def setReg (s : State) (off v : Nat) : State :=
  { s with bar := { s.bar with regs := tput s.bar.regs off (some (BitVec.ofNat 32 v)) } }

/-! ### Set-up values by name -/

def devno (s : State) : Nat := regBits s rDEVNO 15 0
def preg (s : State) (p o : Nat) : Nat := reg s (rPart p o)
def partEn (s : State) (p : Nat) : Bool := bit (preg s p 0) 0
def deviceEvents (s : State) (p : Nat) : Bool := bit (preg s p 0) 1
def prefixShare (s : State) (p : Nat) : Bool := bit (preg s p 0) 2
def pollMaxNs (s : State) (p : Nat) : Nat := bits (preg s p 4) 6 0 * 1000
def sqEn (s : State) (p i : Nat) : Bool := bit (preg s p (pSQ_CFG i)) 8
def sqLog (s : State) (p i : Nat) : Nat := bits (preg s p (pSQ_CFG i)) 4 0
def sqSize (s : State) (p i : Nat) : Nat := 2 ^ sqLog s p i
def cqLog (s : State) (p : Nat) : Nat := bits (preg s p 0x118) 4 0
def cqSize (s : State) (p : Nat) : Nat := 2 ^ cqLog s p
def eqLog (s : State) (p : Nat) : Nat := bits (preg s p 0x128) 4 0
def eqSize (s : State) (p : Nat) : Nat := 2 ^ eqLog s p
def cqBase (s : State) (p : Nat) : Nat := preg s p 0x114 * 2 ^ 32 + preg s p 0x110
def eqBase (s : State) (p : Nat) : Nat := preg s p 0x124 * 2 ^ 32 + preg s p 0x120
def lbQuota (s : State) (p : Nat) : Nat := bits (preg s p 0x130) 18 0
def yellowOcc (s : State) (p : Nat) : Nat := bits (preg s p 0x134) 8 0
def commitRate (s : State) (p c : Nat) : Nat := bits (preg s p (0x140 + 16 * c)) 23 0
def excessRate (s : State) (p c : Nat) : Nat := bits (preg s p (0x144 + 16 * c)) 23 0
def meterBurst (s : State) (p c : Nat) : Nat := bits (preg s p (0x148 + 16 * c)) 15 0
def ttftDefault (s : State) (p c : Nat) : Nat := preg s p (0x180 + 8 * c)
def tbtTarget (s : State) (p c : Nat) : Nat := preg s p (0x184 + 8 * c)
def pfMin (s : State) (p : Nat) : Nat := bits (preg s p 0x1A0) 6 0
def pfMax (s : State) (p : Nat) : Nat := bits (preg s p 0x1A0) 14 8
def arrayWeight (s : State) (p : Nat) : Nat := bits (preg s p 0x1A4) 7 0
def regRate (s : State) (p r : Nat) : Nat := bits (preg s p (0x1B0 + 8 * r)) 23 0
def regBurst (s : State) (p r : Nat) : Nat := 64 * bits (preg s p (0x1B4 + 8 * r)) 24 0
def wpBase (s : State) (p : Nat) : Nat := bits (preg s p 0x200) 15 0
def wpCount (s : State) (p : Nat) : Nat := bits (preg s p 0x204) 16 0
def wpTimeoutMs (s : State) (p : Nat) : Nat := bits (preg s p 0x208) 13 0
def opqMaxUs (s : State) : Nat := regBits s rOPQ_MAX 7 0
def abortTimeoutMs (s : State) : Nat := regBits s rABORT_TIMEOUT 6 0
def mirrorQuota (s : State) : Nat := regBits s rMIRROR_QUOTA 18 0
def twinEn (s : State) : Bool := bit (reg s rTWIN_CTRL) 0
def twinPort0 (s : State) : Nat := regBits s rTWIN_CTRL 12 8
def twinPort1 (s : State) : Nat := regBits s rTWIN_CTRL 20 16
def twinDev (s : State) : Nat := regBits s rTWIN_DEVNO 15 0
def maxPayload (s : State) : Nat := 256 * regBits s (rLink 4) 5 0
def linkWindow (s : State) : Nat := 8 * regBits s (rLink 4) 15 8
def linkRetryMax (s : State) : Nat := regBits s (rLink 4) 22 16
def ackDelayNs (s : State) : Nat := regBits s (rLink 8) 13 0
def ackTimeoutUs (s : State) : Nat := regBits s (rLink 8) 25 16
/-- R352, R429: the sync interval in ns, 2^NT_LOG_SYNC s. -/
def syncNs (s : State) : Nat :=
  let v := regBits s (rLink 0xC) 27 24
  if v = 0 then 1000000000 else 1000000000 / 2 ^ (16 - v)
def genSlotModel (s : State) (g : Nat) : Nat := regBits s (rMem (0x40 + 16 * g)) 15 0
def genSlotEn (s : State) (g : Nat) : Bool := bit (reg s (rMem (0x40 + 16 * g))) 16
def poolBlocks (s : State) (g : Nat) : Nat := regBits s (rMem (0x44 + 16 * g)) 19 0
def spillBlocks (s : State) (g : Nat) : Nat := regBits s (rMem (0x48 + 16 * g)) 19 0
def freeLow (s : State) (g : Nat) : Nat := regBits s (rMem (0x4C + 16 * g)) 15 0
def blockBytesMax (s : State) : Nat := 1024 * regBits s (rMem 0xC0) 23 0
/-- R4, R405: link ports fitted. -/
def nPorts (s : State) : Nat := 6 * s.ident.iods
def upDegraded : PortSt → Bool
  | .up => true
  | .degraded => true
  | _ => false

end Sys2Proof.Machine
end

