-- ==== Sys2Proof/Machine/Ops.lean ====
section
/-! DEFINITION. The operations every unit shares: time, free values, event counters, partitions and rings, host-memory
writes, completion and event records (R47-R52), the Device Status Block (R53-R56), power-domain tests (R405, R406),
messages (R339, R341), Logbook look-up (R60) and entering FAULTED (R389). -/

namespace Sys2Proof.Machine

/-! ### Time and free values -/

/-- R15, R351: network time as the command carries it; it never decreases. -/
def tick (s : State) (t : Nat) : State := { s with now := max s.now t }

/-- A value the spec leaves open: the next one no proof can see. -/
def draw (s : State) : Nat := Config.freeValue s.free

/-- Move on to the next free value. -/
def drawn (s : State) : State := { s with free := s.free + 1 }

/-- Several free values in a row, and past them. -/
def drawAt (s : State) (i : Nat) : Nat := Config.freeValue (s.free + i)
def drawnBy (s : State) (n : Nat) : State := { s with free := s.free + n }

/-- R11: the status codes in the table's order. -/
def allStatus : List Status :=
  [.ok, .okTruncated, .okShort, .okDegraded, .okGrammarEnd, .okResumed, .aborted, .alreadyComplete, .cancelled,
   .rejectedRate, .rejectedFull, .rejectedSlo, .notReady, .badDescriptor, .noResource, .domainOff, .grammarStuck,
   .limitExceeded, .dataError, .checkMismatch, .linkLost, .internalFault]

/-- A status no rule names: some listed code, which one is left free. -/
def freeStatus (n : Nat) : Status := allStatus.getD (n % 22) .ok

def isReady (s : State) : Bool := s.boot.st = .ready

/-! ### Event counters (R431, R432, R434) -/

/-- R431, R432: whether a counter's selection takes an event of this unit, index and instance, charged to `owner`. -/
def Counter.hits (sel : W32) (unit idx inst : Nat) (owner : Option Nat) : Bool :=
  let v := sel.toNat
  bit v 29 && bits v 11 0 == unit * 256 + idx
    && (bits v 24 12 == 0x1FFF || bits v 24 12 == inst)
    && (bits v 28 25 == 15 || owner == some (bits v 28 25))

/-- R432: a counter wraps at 2^48 and sets OVF. -/
def Counter.add (c : Counter) (n : Nat) : Counter :=
  { c with val := (c.val + n) % 2 ^ 48, ovf := c.ovf || decide (2 ^ 48 ≤ c.val + n) }

/-- `n` events of one source reach every counter that selects them. -/
def countEv (s : State) (unit idx inst : Nat) (owner : Option Nat) (n : Nat) : State :=
  { s with cnt := { s.cnt with
      cnt := s.cnt.cnt.map fun e => if Counter.hits e.2.sel unit idx inst owner then (e.1, e.2.add n) else e } }

/-! ### Partitions and rings -/

def part (s : State) (p : Nat) : Part := tget Part.reset s.parts p

def modPart (s : State) (p : Nat) (f : Part → Part) : State := { s with parts := tmod Part.reset s.parts p f }

def ring (s : State) (p i : Nat) : Ring := tget Ring.reset (part s p).rings i

def modRing (s : State) (p i : Nat) (f : Ring → Ring) : State :=
  modPart s p fun P => { P with rings := tmod Ring.reset P.rings i f }

def allParts : List Nat := List.range 12

/-- R426: STATE of a partition as a number. -/
def PartSt.toNum : PartSt → Nat
  | .off => 0 | .ready => 1 | .draining => 2 | .invalid => 3

/-- Run a step for each of a list. -/
def forEach {α : Type} (s : State) (l : List α) (f : State → α → State) : State := l.foldl f s

/-! ### Bandwidth regulators (R93, R94): 0 HBM, 1 board memory, 2 flash, 3 link egress, 4 PCIe -/

def bucket (s : State) (p r : Nat) : Int := tget 0 (part s p).regs r

/-- R93: whether a transfer of `n` bytes may be issued: a RATE of 0 regulates nothing. -/
def regOpen (s : State) (p r n : Nat) : Bool :=
  regRate s p r == 0 ||
    (if n ≤ regBurst s p r then decide (0 < bucket s p r) else decide ((regBurst s p r : Int) ≤ bucket s p r))

/-- R93: issue takes the transfer's size. -/
def charge (s : State) (p r n : Nat) : State :=
  if regRate s p r = 0 then s else modPart s p fun P => { P with regs := tmod 0 P.regs r fun b => b - n }

/-- R93: whether an effect draws on an HBM or board-memory bucket of a partition that is empty. -/
def drawsShut (s s' : State) (p : Nat) : Bool := [0, 1].any fun r => decide (bucket s' p r < bucket s p r) && !regOpen s p r 1

/-- R93: a transfer that finds its bucket empty waits: a command that would draw on a tier whose bucket is empty has no
effect yet (assumption log 69). -/
def regulatedAll (s s' : State) (ps : List Nat) : State := if ps.any (drawsShut s s') then s else s'

def regulated (s s' : State) (p : Nat) : State := if drawsShut s s' p then s else s'

/-! ### Host memory, the DSB (R53-R56) -/

/-- A write into host memory. -/
def hostWrite (s : State) (a : Nat) (b : List Byte) : State :=
  { s with host := { s.host with mem := s.host.mem.write a b } }

/-- R55: Astrolabe writes the DSB once both halves of its address have been written and bus mastering is enabled. -/
def dsbOn (s : State) : Bool :=
  s.boot.fw && s.host.busMaster && (tget none s.bar.regs rDSB_LO).isSome && (tget none s.bar.regs rDSB_HI).isSome

def dsbBase (s : State) : Nat := reg s rDSB_HI * 2 ^ 32 + reg s rDSB_LO

def dsbPut (s : State) (off : Nat) (b : List Byte) : State :=
  if dsbOn s then hostWrite s (dsbBase s + off) b else s

/-- R53, R56: FATAL_CODE. -/
def dsbFatal (s : State) : State := dsbPut s 0x018 (le 4 s.boot.fatal)

/-- R53: STATE and BRINGUP_STAGE. -/
def dsbState (s : State) : State :=
  dsbPut (dsbPut s 0x01C (le 4 s.boot.stage)) 0x004 (le 4 s.boot.st.toNum)

/-- R54: HEARTBEAT and HB_TIME. -/
def dsbHeart (s : State) : State :=
  dsbPut (dsbPut s 0x008 (le 8 s.host.heartbeat)) 0x010 (le 8 s.host.hbTime)

/-- R53, R54: SQ_HEAD of ring i of partition p. -/
def dsbHead (s : State) (p i : Nat) : State := dsbPut s (0x100 + 64 * p + 4 * i) (le 4 (ring s p i).head.toNat)

/-- The 4 KiB of the block at 0. -/
def dsbClear (s : State) : State :=
  { s with host := { s.host with
      mem := s.host.mem.filter fun e => decide (e.1 < dsbBase s ∨ dsbBase s + 4096 ≤ e.1) } }

/-- R53, R55: the whole block, from the moment it takes effect; reserved bytes as 0. -/
def dsbStart (s : State) : State :=
  if dsbOn s then
    forEach (dsbHeart (dsbState (dsbFatal (dsbPut (dsbClear s) 0 (le 4 1)))))
      (s.parts.flatMap fun e => e.2.rings.map fun r => (e.1, r.1)) fun s pi => dsbHead s pi.1 pi.2
  else s

/-! ### Event records (R51, R52) -/

/-- R48: PHASE for the record of count n in a ring of `size` entries. -/
def phaseOf (n size : Nat) : Bool := n / size % 2 == 0

/-- R51: the 32 bytes of an event record. -/
def eventBytes (ev st res now detail : Nat) (phase : Bool) : List Byte :=
  le 2 ev ++ le 2 st ++ le 4 res ++ le 8 now ++ le 4 detail ++ le 11 0 ++ le 1 (b2n phase)

/-- R31: distance from one 32-bit count to a later one. -/
def dist (a b : W32) : Nat := (b - a).toNat

/-- R51, R52: put one record at the tail of the event ring. -/
def putEvent (s : State) (p ev st res detail : Nat) : State :=
  let n := (part s p).eqTail.toNat
  let sz := eqSize s p
  let s := hostWrite s (eqBase s p + 32 * (n % sz)) (eventBytes ev st res s.now detail (phaseOf n sz))
  modPart s p fun P => { P with eqTail := P.eqTail + 1 }

def eqRoom (s : State) (p : Nat) : Bool := decide (dist (part s p).eqHead (part s p).eqTail < eqSize s p)

/-- R51: EVENTS_LOST is written first once space returns; DETAIL counts the events dropped. The rule names no STATUS
and no RESOURCE for it: free values. -/
def flushLost (s : State) (p : Nat) : State :=
  if (part s p).lost = 0 || !eqRoom s p then s
  else
    let s := putEvent s p 6 (freeStatus (draw s)).toCode (draw (drawn s) % 2 ^ 32) ((part s p).lost % 2 ^ 32)
    modPart (drawn (drawn s)) p fun P => { P with lost := 0 }

/-- R52: an event for one partition: written while STATE reads READY or DRAINING, dropped and counted when the ring is
full. -/
def eventTo (s : State) (p ev st res detail : Nat) : State :=
  if (part s p).st = .ready || (part s p).st = .draining then
    let s := flushLost s p
    if (part s p).lost = 0 && eqRoom s p then putEvent s p ev st res detail
    else countEv (modPart s p fun P => { P with lost := P.lost + 1 }) 0xD 3 p (some p) 1
  else s

/-- R52: a device-wide event goes to every partition whose DEVICE_EVENTS is 1. -/
def eventAll (s : State) (ev st res detail : Nat) : State :=
  forEach s (allParts.filter fun p => deviceEvents s p) fun s p => eventTo s p ev st res detail

/-- A device-wide event whose STATUS and DETAIL no rule names: free values. -/
def eventFree (s : State) (ev res : Nat) : State :=
  eventAll (drawn (drawn s)) ev (freeStatus (draw s)).toCode res (draw (drawn s) % 2 ^ 32)

/-! ### Completion records (R47-R50) -/

/-- R47: the 32 bytes of a completion record. -/
def recordBytes (handle tag st sq stage outBytes ttft detail : Nat) (phase : Bool) : List Byte :=
  le 8 handle ++ le 4 tag ++ le 2 st ++ le 1 sq ++ le 1 stage ++ le 4 outBytes ++ le 4 ttft ++ le 4 detail
    ++ le 3 0 ++ le 1 (b2n phase)

/-- R49: records go to host memory in the order their completions were committed; one that waits for the twin's
acknowledgement (R393) holds those after it. -/
def flushCq (s : State) (p : Nat) : List CqRec → State
  | [] => modPart s p fun P => { P with cqWait := [] }
  | r :: rs =>
    if r.held.isSome then modPart s p fun P => { P with cqWait := r :: rs }
    else flushCq (hostWrite s (cqBase s p + 32 * (r.n % cqSize s p)) r.bytes) p rs

/-- Commit one record: it takes the slot at the tail (R31), and is written as R49 orders. -/
def pushRecord (s : State) (p : Nat) (mk : Bool → List Byte) (held : Option Handle) : State :=
  let n := (part s p).cqTail.toNat
  let r : CqRec := ⟨n, mk (phaseOf n (cqSize s p)), held⟩
  let s := modPart s p fun P => { P with cqTail := P.cqTail + 1 }
  flushCq s p ((part s p).cqWait ++ [r])

/-- R50: a descriptor has completed. -/
def closeDesc (s : State) (p sq count : Nat) : State :=
  modPart s p fun P => { P with open_ := P.open_.filter fun d => !(d.sq == sq && d.count == count) }

/-- R47: the completion of a descriptor that never held a Logbook entry: HANDLE 0, TTFT_US 0xFFFF_FFFF. -/
def completeDesc (s : State) (p sq count tag stage : Nat) (st : Status) : State :=
  pushRecord (closeDesc s p sq count) p (recordBytes 0 tag st.toCode sq stage 0 0xFFFFFFFF 0) none

/-! ### Power domains (R405-R409) -/

/-- R405: whether a domain's part is fitted. -/
def fittedDom (s : State) (d : Nat) : Bool :=
  d ≤ 42 || (43 ≤ d && d < 43 + s.ident.hbmStacks) || (51 ≤ d && d < 51 + 11 * s.ident.iods) || d == 95

/-- R405, R419: a domain; those of parts that are not fitted read OFF with EN 0. -/
def dom (s : State) (d : Nat) : Dom := if fittedDom s d then tget Dom.reset s.power.doms d else ⟨false, .off, false⟩

def modDom (s : State) (d : Nat) (f : Dom → Dom) : State :=
  { s with power := { s.power with doms := tmod Dom.reset s.power.doms d f } }

def domIs (s : State) (d : Nat) (st : DomSt) : Bool := (dom s d).st = st

/-- R29: some domain of the unit (numbers lo to hi) is ON or POWERING_UP. -/
def unitUp (s : State) (lo hi : Nat) : Bool :=
  (List.range (hi + 1 - lo)).any fun k => domIs s (lo + k) .on || domIs s (lo + k) .poweringUp

/-- R409: the array is one function; it is usable while all of domains 0 to 14 are. -/
def arrayUp (s : State) : Bool := (List.range 15).all fun d => domIs s d .on || domIs s d .poweringUp

def bearingUp (s : State) : Bool := unitUp s 15 22
def sextantUp (s : State) : Bool := unitUp s 23 24
def arcUp (s : State) : Bool := unitUp s 25 28
def plotterUp (s : State) : Bool := unitUp s 29 30
def compassUp (s : State) : Bool := unitUp s 31 32
def featureUp (s : State) : Bool := unitUp s 33 34
def movesUp (s : State) : Bool := unitUp s 35 42

/-- R405: the domain of logical port q. -/
def portDom (q : Nat) : Nat := 51 + 11 * (q / 6) + q % 6

/-! ### Link ports and messages -/

def port (s : State) (q : Nat) : Port := tget Port.reset s.links.ports q

def modPort (s : State) (q : Nat) (f : Port → Port) : State :=
  { s with links := { s.links with ports := tmod Port.reset s.links.ports q f } }

/-- R334, R372: UP or DEGRADED, enabled and in use. -/
def portUp (s : State) (q : Nat) : Bool := upDegraded (port s q).st && (port s q).en && !(port s q).heldOut

/-- R339, R429: the valid route entry of a device: its offset in BAR0 and its word 0. -/
def routeEntry (s : State) (dev : Nat) : Option (Nat × Nat) :=
  (s.bar.regs.find? fun e =>
    decide (0x440000 ≤ e.1 ∧ e.1 < 0x444000) && e.1 % 16 == 0 &&
      (match e.2 with | some v => bit v.toNat 31 && v.toNat % 65536 == dev | none => false)).bind
    fun e => e.2.map fun v => (e.1, v.toNat)

/-- R339: the primary and the alternate port toward a device. -/
def routeOf (s : State) (dev : Nat) : Option (Nat × Nat) :=
  (routeEntry s dev).map fun e => (bits e.2 20 16, bits e.2 28 24)

def txOf (s : State) (dev q : Nat) : Tx :=
  (s.links.tx.find? fun x => x.dev == dev && x.q == q).getD ⟨dev, q, 0, [], 0, 0, false, false⟩

def setTx (s : State) (x : Tx) : State :=
  { s with links := { s.links with
      tx := x :: s.links.tx.filter fun y => !(y.dev == x.dev && y.q == x.q) } }

def rxOf (s : State) (dev q : Nat) : Rx :=
  (s.links.rx.find? fun x => x.dev == dev && x.q == q).getD ⟨dev, q, 0, none⟩

def setRx (s : State) (x : Rx) : State :=
  { s with links := { s.links with
      rx := x :: s.links.rx.filter fun y => !(y.dev == x.dev && y.q == x.q) } }

/-- R339: the port toward a device: the primary while it is UP or DEGRADED and R338 has not moved the receiver, else
the alternate while that is, else the primary. -/
def pickPort (s : State) (dev q : Nat) : Option Nat :=
  (routeOf s dev).map fun r =>
    if portUp s r.1 && !(txOf s dev q).alt then r.1 else if portUp s r.2 then r.2 else r.1

/-- Put a message in a port's egress queue. -/
def enqueue (s : State) (prt dev pt : Nat) (m : Msg) : State :=
  modPort s prt fun P => { P with
    queues := tmod [] P.queues m.queue fun l => l ++ [(dev, pt, m)] }

/-- R341: send a message to another device over the route to it; with no route entry nothing is sent (the sender's
rule says what follows, R339). -/
def sendMsg (s : State) (dev pt : Nat) (m : Msg) : State :=
  match pickPort s dev m.queue with
  | some q => enqueue s q dev pt m
  | none => s

/-- R395: twin traffic takes the twin ports; while both are DOWN, the route to TWIN_DEVNO. -/
def sendTwin (s : State) (pt : Nat) (m : Msg) : State :=
  if portUp s (twinPort0 s) then enqueue s (twinPort0 s) (twinDev s) pt m
  else if portUp s (twinPort1 s) then enqueue s (twinPort1 s) (twinDev s) pt m
  else sendMsg s (twinDev s) pt m

/-- R389, R395: on every path: both twin ports that are up, else the route. -/
def sendTwinAll (s : State) (m : Msg) : State :=
  let up := [twinPort0 s, twinPort1 s].filter (portUp s)
  if up.isEmpty then sendMsg s (twinDev s) 0 m else forEach s up fun s q => enqueue s q (twinDev s) 0 m

/-- Whether a device can be sent to: this device, or one with a route. -/
def reachable (s : State) (dev : Nat) : Bool := dev == devno s || (routeOf s dev).isSome

/-! ### The Logbook (R59-R63) -/

def entry (s : State) (slot : Nat) : Entry := tget Entry.freeEntry s.lb.entries slot

def modEntry (s : State) (slot : Nat) (f : Entry → Entry) : State :=
  { s with lb := { s.lb with entries := tmod Entry.freeEntry s.lb.entries slot f } }

def work (s : State) (slot : Nat) : Option Work := s.lb.work.lookup slot

def modWork (s : State) (slot : Nat) (f : Work → Work) : State :=
  { s with lb := { s.lb with work := s.lb.work.map fun e => if e.1 = slot then (e.1, f e.2) else e } }

/-- R60: the slot of a live request by its handle: an entry in a state other than FREE whose handle this is. (A
taken-over request keeps its original handle, R397.) -/
def liveSlot (s : State) (h : Handle) : Option Nat :=
  (s.lb.work.find? fun e => e.2.handle == h).map (·.1)

/-- R84, R70: the partition's entries in use. -/
def inUse (s : State) (p : Nat) : Nat := (s.lb.work.filter fun e => e.2.handle.part == p).length

/-! ### Objects (R42, R91) -/

/-- The resident object a new user would get: of this kind and id, not evicted. -/
def resident (s : State) (kind id : Nat) : Option Obj :=
  s.obj.objs.find? fun o => o.kind == kind && o.id == id && !o.evicted

/-- The object work was admitted with (R91): by its own number. -/
def heldObj (s : State) (refs : List Nat) (kind id : Nat) : Option Obj :=
  s.obj.objs.find? fun o => o.kind == kind && o.id == id && refs.contains o.uid

/-! ### Streams in the array (R105) -/

/-- R105, R117: operations that Helm has taken and that are not complete, re-executions and the one a swap is for included. -/
def helmOps (s : State) : List ArrayOp :=
  s.helm.issued ++ s.helm.rerun ++ (match s.helm.swap with | some x => [x.2] | none => [])

/-- Whether something of a stream is in Helm's hands. -/
def inArray (s : State) (sid : Nat) : Bool :=
  (helmOps s).any fun a => match a.src with | .step i _ => i == sid | _ => false

/-! ### FAULTED (R56, R369, R388, R389) -/

/-- R369: cause class and physical index. -/
def fatalCode (cls idx : Nat) : Nat := cls % 256 * 2 ^ 24 + idx % 2 ^ 24

/-- R56: the request of a partition a taken descriptor became, if any. -/
def descSlot (s : State) (p sq count : Nat) : Option (Nat × Work) :=
  s.lb.work.find? fun e =>
    e.2.handle.part == p && e.2.handle.dev == devno s && e.2.count == count && (entry s e.1).sq == sq

/-- R15, R62: ns from an entry's ARRIVAL_NS, which holds bits [47:0] of network time, to a moment. -/
def sinceArrival (e : Entry) (t : Nat) : Nat := (t % 2 ^ 48 + 2 ^ 48 - e.arrival % 2 ^ 48) % 2 ^ 48

/-- R77: rounded up to whole microseconds. -/
def usUp (ns : Nat) : Nat := cdiv ns 1000

/-- R75: the first-token timer stops: TTFT_US in whole µs, rounded up; R74, R77: a miss is judged in ns. A time beyond the
field reads 0xFFFF_FFFE, since 0xFFFF_FFFF says that there was no token: the spec gives no rule for it (DESIGN CHOICE,
assumption log 74). -/
def stopTtft (s : State) (slot t : Nat) : State :=
  let e := entry s slot
  let d := sinceArrival e t
  let s := modEntry s slot fun e => { e with ttftUs := min 0xFFFFFFFE (usUp d) }
  if e.ttftTarget ≠ 0 ∧ e.ttftTarget * 1000 < d then
    countEv s 7 4 e.cls ((work s slot).map (·.handle.part)) 1
  else s

/-- R75: with tokens committed and no text written, the first-token timer stops as the completion is committed. -/
def settleTtft (s : State) (slot : Nat) : State :=
  if (entry s slot).tokens ≠ 0 ∧ (entry s slot).ttftUs = 0xFFFFFFFF then stopTtft s slot s.now else s

/-- R47: the record of a request. -/
def reqRecord (e : Entry) (h : Handle) (st : Status) (detail : Nat) : Bool → List Byte :=
  recordBytes h.toNum e.tag st.toCode e.sq e.stage e.outBytes e.ttftUs detail

/-- R19, R64: the entry as its completion is committed: COMMITTING, stage 18. -/
def Entry.committed (e : Entry) : Entry := { e with st := .committing, stage := 18 }

/-- R56: a request's completion at the fault is committed as any completion is (R66), so that no second record follows. -/
def faultReq (s : State) (p : Nat) (d : OpenD) (slot : Nat) (w : Work) : State :=
  let s := settleTtft s slot
  let e := entry s slot
  let n := (part s p).cqTail.toNat
  let c : Commit := ⟨.internalFault, 0, e.outBytes, e.stage, n, phaseOf n (cqSize s p)⟩
  let s := modWork s slot fun w => { w with commit := some c, aborts := [], releases := [] }
  pushRecord (closeDesc (modEntry s slot Entry.committed) p d.sq d.count) p (reqRecord e w.handle .internalFault 0) none

/-- R56: the completion of one taken descriptor at the fault; a mirrored request gets none here. -/
def faultComplete (s : State) (p : Nat) (d : OpenD) : State :=
  match descSlot s p d.sq d.count with
  | some (slot, w) => if (entry s slot).mirrored then s else faultReq s p d slot w
  | none => completeDesc s p d.sq d.count d.tag 0 .internalFault

/-- R369, R389: FATAL_CODE, STATE and FAULT_N. -/
def markFaulted (s : State) (cls idx : Nat) : State :=
  { s with
    boot := { s.boot with st := .faulted, fatal := fatalCode cls idx }
    flash := { s.flash with lastFaulted := true }
    pins := { s.pins with faultN := true } }

/-- R389: FATAL_CODE, then STATE, in the DSB, by the firmware if it runs. -/
def faultDsb (s : State) : State := if s.boot.fw then dsbState (dsbFatal s) else s

/-- R389: FAILOVER to the twin. -/
def faultTwin (s : State) : State := if twinEn s then sendTwinAll s .failover else s

/-- R56, R389: a record that waits for the twin is never written here (the twin writes it, R397); those it held back are. -/
def dropHeld (s : State) (p : Nat) : State := flushCq s p ((part s p).cqWait.filter fun r => r.held.isNone)

/-- R389: every stage stops; FATAL_CODE, then STATE; FAULT_N; FAILOVER to the twin; the completions of R56. No command
commits a completion afterwards: those that would check that the device is READY. -/
def enterFaulted (s : State) (cls idx : Nat) : State :=
  if s.boot.st = .faulted then s
  else
    forEach (faultTwin (faultDsb (markFaulted s cls idx))) allParts fun s p =>
      forEach (dropHeld s p) (part s p).open_ fun s d => faultComplete s p d

end Sys2Proof.Machine
end

