-- ==== Sys2Proof/Machine/Layout.lean ====
section
/-! DEFINITION. The device address space (R288, R289, R292): its windows; what the K4 takes of HBM and board memory for
itself at set-up (R248, R249, R256, R263, R294, R427) and afterwards (R43, R63, R173); reads and writes of memory with
poison (R297), the board write-back cache (R294) and the dirty words of the loaded context (R90). -/

namespace Sys2Proof.Machine

/-! ### Windows (R288, R289, R292) -/

def hbmBase : Nat := 0x0000010000000000
def boardBase : Nat := 0x0000020000000000
def tileBytes : Nat := 0x10000000
def hbmBytes (s : State) : Nat := (if s.ident.hbmStacks = 8 then 372 else 279) * 2 ^ 30
def boardBytes (s : State) : Nat := sumN s.tiers.boardCaps * 2 ^ 30 * 15 / 16 * 7 / 8

/-- R288, R41: a device range lies in one window; an empty range still names its address. -/
def inWindow (s : State) (a len : Nat) : Bool :=
  let len := max len 1
  decide (a + len ≤ tileBytes) || (decide (hbmBase ≤ a) && decide (a + len ≤ hbmBase + hbmBytes s))
    || (decide (boardBase ≤ a) && decide (a + len ≤ boardBase + boardBytes s))

/-! ### What set-up takes (R248, R249, R256, R263, R294, R332) -/

/-- R332: PS_STAGE_BYTES. -/
def psStageBytes (s : State) : Nat := regBits s (rPs 4) 6 0 * 2 ^ 28

/-- R263, R294: the variant area and the board cache. -/
def variantArea (s : State) : Nat := regBits s (rMem 0x18) 7 0 * 2 ^ 28
def boardCacheBytes (s : State) : Nat := regBits s (rMem 0x10) 6 0 * 2 ^ 28

/-- R256: the prefix table. R248, R249: the 8,192 block tables. -/
def prefixBytes : Nat := 2 ^ 28
def tablesBytes : Nat := 8192 * 8256

/-- R248, R427: one generator's pool with its tags, and its spill area, at BLOCK_BYTES_MAX. -/
def poolArea (s : State) (g : Nat) : Nat := if genSlotEn s g then poolBlocks s g * (blockBytesMax s + 512) else 0
def spillArea (s : State) (g : Nat) : Nat := if genSlotEn s g then spillBlocks s g * blockBytesMax s else 0

/-- Of all eight generator slots, or of those before one. -/
def poolBytes (s : State) (n : Nat) : Nat := sumN ((List.range n).map (poolArea s))
def spillBytes (s : State) (n : Nat) : Nat := sumN ((List.range n).map (spillArea s))

/-- R248: what set-up takes of HBM and of board memory. -/
def hbmTaken (s : State) : Nat := boardCacheBytes s + variantArea s + prefixBytes + tablesBytes + poolBytes s 8
def boardTaken (s : State) : Nat := spillBytes s 8 + psStageBytes s

/-- The areas lie at the top of their windows; the spec gives none of them an address (DESIGN CHOICE, assumption log 79). -/
def hbmFree (s : State) : Nat := hbmBase + hbmBytes s - hbmTaken s
def boardFree (s : State) : Nat := boardBase + boardBytes s - boardTaken s

/-- R246, R248: the address of a block of a pool or of a spill area. -/
def kvAddr (s : State) (spill : Bool) (g idx : Nat) : Nat :=
  (if spill then boardFree s + spillBytes s g else hbmFree s + poolBytes s g) + idx * blockBytesMax s

/-! ### Places the K4 takes afterwards (R43, R63, R173): the highest that is free (DESIGN CHOICE, assumption log 79) -/

/-- The highest 256-byte aligned place of `n` bytes between two addresses that meets none of the places listed by falling
address. -/
def fitBelow (n bottom top : Nat) : List Place → Option Nat
  | [] => if bottom + n ≤ (top / 256) * 256 then some ((top - n) / 256 * 256) else none
  | p :: r =>
    let a := (top - n) / 256 * 256
    if bottom + n ≤ top / 256 * 256 ∧ p.addr + p.len ≤ a then some a else fitBelow n bottom (min top p.addr) r

/-- A free place in HBM (tier 0) or board memory (tier 1). -/
def freePlace (s : State) (tier n : Nat) : Option Nat :=
  if tier = 0 then fitBelow n hbmBase (hbmFree s) s.obj.places else fitBelow n boardBase (boardFree s) s.obj.places

def placeFor (s : State) (w : PlaceOf) : Option Place := s.obj.places.find? fun p => p.of == w

def dropPlace (s : State) (w : PlaceOf) : State :=
  { s with obj := { s.obj with places := s.obj.places.filter fun p => p.of != w } }

/-- Take a place. -/
def takePlace (s : State) (p : Place) : State :=
  let s := dropPlace s p.of
  { s with obj := { s.obj with places := insertBy (fun a b => decide (b.addr < a.addr)) p s.obj.places } }

/-- The lines of `n` bytes that a range meets. -/
def linesIn (n a len : Nat) : List Nat :=
  if len = 0 then [] else (List.range ((a + len - 1) / n + 1 - a / n)).map fun i => a / n + i

/-- The 64-byte lines of a range. -/
def linesOf (a len : Nat) : List Nat := linesIn 64 a len

/-! ### Contexts and dirty words (R90, R92) -/

/-- The context an operation names, if it is an object (R92): loaded, or carried by a model or a codebook. -/
def ctxOf (s : State) (id : Nat) : Option ContextObj :=
  (s.obj.objs.find? fun o => o.kind == 10 && o.id == id).bind fun o =>
    match o.body with | .context c => some c | _ => none

/-- R90: the loaded context's ranges as (TS_OFF, LEN). -/
def loadedRanges (s : State) : List (Nat × Nat) :=
  match ctxOf s s.helm.ctx with
  | some c => c.ranges.map fun r => r.2
  | none => []

/-- R90: 64-byte words of a written range that lie inside the loaded context's ranges. -/
def dirtyWords (s : State) (a len : Nat) : List Nat :=
  (linesOf a len).filter fun w =>
      (loadedRanges s).any fun r => decide (r.1 ≤ 64 * w) && decide (64 * w + 64 ≤ r.1 + r.2)

/-! ### The board write-back cache (R294) -/

/-- R294: lines of 4 KiB, 16 to a set; a line's set is its number modulo the sets (DESIGN CHOICE, assumption log 80). -/
def cacheSets (s : State) : Nat := max 1 (boardCacheBytes s / 65536)

/-- The lines of a set, least recently written first. -/
def setLines (s : State) (set : Nat) (l : List (Nat × Option Nat)) : List (Nat × Option Nat) :=
  l.filter fun e => e.1 % cacheSets s == set

/-- R294: a line written: most recently written, dirty since it first became dirty; in a full set the line least recently
written leaves, written back if it is dirty. -/
def touchLine (s : State) (cache : List (Nat × Option Nat)) (line : Nat) : List (Nat × Option Nat) :=
  let since := match cache.lookup line with | some (some t) => t | _ => s.now
  let rest := cache.filter fun e => e.1 != line
  let mine := setLines s (line % cacheSets s) rest
  let rest := if mine.length < 16 then rest else rest.filter fun e => some e.1 != mine.head?.map (·.1)
  rest ++ [(line, some since)]

/-- The lines a range of board memory touches. -/
def boardLines (a len : Nat) : List Nat := linesIn 4096 (a - boardBase) len

def touchLines (s : State) (a len : Nat) : List (Nat × Option Nat) :=
  (boardLines a len).foldl (touchLine s) s.tiers.cache

/-! ### Reads and writes (R294, R297) -/

/-- R297: a poisoned unit stays poisoned until a write replaces it. -/
def unpoison (l : List (Nat × Nat)) (a len : Nat) : List (Nat × Nat) :=
  l.filter fun u => !(decide (a ≤ u.1) && decide (u.1 + u.2 ≤ a + len))

/-- R297: whether a range holds a poisoned unit. -/
def poisoned (s : State) (a len : Nat) : Bool :=
  len != 0 && s.tiers.poison.any fun u => decide (a < u.1 + u.2) && decide (u.1 < a + len)

/-- What a write of a range changes beside the bytes: poison, and in board memory the cache. -/
def wroteRange (s : State) (a len : Nat) : State :=
  { s with tiers := { s.tiers with
      poison := unpoison s.tiers.poison a len
      cache := if boardBase ≤ a then touchLines s a len else s.tiers.cache } }

/-- A write to device memory. -/
def devWrite (s : State) (a : Nat) (b : List Byte) : State :=
  let s' := { wroteRange s a b.length with mem := s.mem.write a b }
  if a < tileBytes then
    { s' with helm := { s.helm with dirty := (dirtyWords s a b.length).foldl (fun d w => insertNat w d) s.helm.dirty } }
  else s'

/-- A range of HBM or board memory is replaced whole. -/
def devPlace (s : State) (a n : Nat) (d : Mem) : State := { wroteRange s a n with mem := s.mem.place a n d }

/-- A range of HBM or board memory is copied to another. -/
def devCopy (s : State) (src dst n : Nat) : State := devPlace s dst n (s.mem.slice src n)

/-- R247: a range is set to zero. -/
def devClear (s : State) (a n : Nat) : State := devPlace s a n []

/-- R43, R297: whether bytes of a resident object's image are poisoned. -/
def objBad (s : State) (uid off len : Nat) : Bool :=
  match placeFor s (.image uid) with
  | some p => poisoned s (p.addr + off) len
  | none => false

/-- R93: the regulator of the tier an address lies in: HBM or board memory; the tile store has none. -/
def tierReg (a : Nat) : Option Nat := if a < tileBytes then none else if a < boardBase then some 0 else some 1

def memOpen (s : State) (p a n : Nat) : Bool := match tierReg a with | some r => regOpen s p r n | none => true
def memCharge (s : State) (p a n : Nat) : State := match tierReg a with | some r => charge s p r n | none => s

/-! ### Reads of resident objects (R93, R94, R297) -/

/-- A unit's read of an object: the object's number, the offset in its image, and the length. -/
structure ObjRead where
  uid : Nat
  off : Nat
  len : Nat
  deriving DecidableEq, Repr

/-- Where a read of an object goes. -/
def readAddr (s : State) (r : ObjRead) : Nat := ((placeFor s (.image r.uid)).map fun p => p.addr + r.off).getD 0

/-- R93: whether a partition's reads may be issued. -/
def readsOpen (s : State) (p : Nat) (l : List ObjRead) : Bool := l.all fun r => memOpen s p (readAddr s r) r.len

/-- R94: a unit's reads are charged. -/
def chargeReads (s : State) (p : Nat) (l : List ObjRead) : State := forEach s l fun s r => memCharge s p (readAddr s r) r.len

/-- R297: whether one of the reads meets poison. -/
def readsBad (s : State) (l : List ObjRead) : Bool := l.any fun r => objBad s r.uid r.off r.len

end Sys2Proof.Machine
end

