-- ==== Sys2Proof/Machine/GenOps.lean ====
section
/-! DEFINITION. Key/value blocks (R246-R253), the prefix table (R255-R261), block tables and reservations (R72, R249,
R250), and COMPASS_SEQ_MAX (R279): the operations that admission, prefill, decode and release share. -/

namespace Sys2Proof.Machine

/-! ### Models -/

/-- R246, R104: bytes of one element of a KV_FMT. -/
def kvEltBytes (fmt : Nat) : Nat := if fmt = 8 then 2 else 1

/-- R246: bytes of one layer of one block, and of a whole block. -/
def layerBytes (m : ModelObj) : Nat := 2 * m.kvHeads * m.headDim * 64 * kvEltBytes m.kvFmt
def blockBytes (m : ModelObj) : Nat := alignUp (m.layers * layerBytes m) 4096

/-- R128: bits of one element of a format of R104. -/
def fmtBits (f : Nat) : Nat :=
  if f = 5 ∨ f = 6 then 6 else if f = 7 then 4 else if f = 8 then 16 else 8

/-- R104: the MX formats. -/
def isMx (f : Nat) : Bool := 3 ≤ f && f ≤ 7

/-- The bytes of a model's weights: elements, and one E8M0 scale per 32 elements along K for the MX formats. -/
def weightBytes (m : ModelObj) : Nat :=
  sumN (m.weights.map fun w =>
    cdiv (w.1 * w.2.1 * fmtBits w.2.2) 8 + (if isMx w.2.2 then cdiv w.1 32 * w.2.1 else 0))

/-- A resident model of a ROLE. -/
def modelOf (o : Obj) : Option ModelObj := match o.body with | .model m => some m | _ => none
def residentModel (s : State) (id role : Nat) : Option (Obj × ModelObj) :=
  match resident s 1 id with
  | some o => (match modelOf o with | some m => if m.role = role then some (o, m) else none | none => none)
  | none => none

/-- R427: the enabled generator slot of a model. -/
def gslotOf (s : State) (model : Nat) : Option Nat :=
  (List.range 8).find? fun g => genSlotEn s g && genSlotModel s g == model

/-! ### Pools (R248, R250) -/

def pool (s : State) (g : Nat) : Pool := tget Pool.reset s.gen.pools g

def modPool (s : State) (g : Nat) (f : Pool → Pool) : State :=
  { s with gen := { s.gen with pools := tmod Pool.reset s.gen.pools g f } }

/-- The lowest number not in a rising list. -/
def firstFree (n : Nat) : List Nat → Nat
  | [] => n
  | x :: xs => if x = n then firstFree (n + 1) xs else n

/-- All valid entries of the prefix table, with their buckets. -/
def pfxAll (s : State) : List (Nat × PfxEntry) :=
  s.gen.pfx.flatMap fun b => (b.2.filter (·.valid)).map fun e => (b.1, e)

/-- R251: the registered unpinned blocks of a pool, which spill. -/
def spillables (s : State) (g : Nat) : List (Nat × PfxEntry) :=
  (pfxAll s).filter fun e => e.2.g == g && !e.2.spill && e.2.pin == 0

/-- R72, R251: unreserved blocks, registered unpinned blocks counted as free. -/
def unreserved (s : State) (g : Nat) : Nat :=
  poolBlocks s g + (spillables s g).length - (pool s g).used.length - (pool s g).reserved

/-- R251: highest AGE, then lowest block index. -/
def spillFirst (a b : Nat × PfxEntry) : Bool := b.2.age < a.2.age || (a.2.age == b.2.age && a.2.idx < b.2.idx)

/-- Change the entries of one bucket that hold a given block. -/
def modPfx (s : State) (bucket : Nat) (f : PfxEntry → PfxEntry) : State :=
  { s with gen := { s.gen with pfx := tmod [] s.gen.pfx bucket fun l => (l.map f).filter (·.valid) } }

def sameBlock (a b : PfxEntry) : Bool := a.hash == b.hash && a.g == b.g && a.spill == b.spill && a.idx == b.idx

/-- R248: the tag of a block. -/
def tagOf (s : State) (spill : Bool) (g idx : Nat) : Option Tag := s.gen.tags.lookup (spill, g, idx)

def dropTag (s : State) (spill : Bool) (g idx : Nat) : State :=
  { s with gen := { s.gen with tags := s.gen.tags.filter fun e => e.1 != (spill, g, idx) } }

def putTag (s : State) (spill : Bool) (g idx : Nat) (t : Tag) : State :=
  let s := dropTag s spill g idx
  { s with gen := { s.gen with tags := ((spill, g, idx), t) :: s.gen.tags } }

/-- A pool block goes back to the free ones. -/
def freeBlock (s : State) (g idx : Nat) : State :=
  dropTag (modPool s g fun p => { p with used := p.used.filter (· != idx) }) false g idx

def freeSpill (s : State) (g idx : Nat) : State :=
  dropTag (modPool s g fun p => { p with spill := p.spill.filter (· != idx) }) true g idx

/-- An entry of the prefix table is invalidated and what it names freed (R252, R259). -/
def dropEntry (s : State) (bucket : Nat) (e : PfxEntry) : State :=
  let s := modPfx s bucket fun x => if sameBlock x e then { x with valid := false } else x
  let s := if e.spill then freeSpill s e.g e.idx else freeBlock s e.g e.idx
  match e.copy with
  | some c => if e.spill then s else freeSpill s e.g c
  | none => s

/-- The spill block an entry holds: its own, or the board copy of a clean block in HBM. -/
def spillOf (e : PfxEntry) : Option Nat := if e.spill then some e.idx else e.copy

/-- R252: the entries whose spill block can be freed, as they would rank: one that names it, not pinned, or one in HBM of
which it is the board copy. -/
def spillHolders (s : State) (g : Nat) : List (Nat × PfxEntry) :=
  (pfxAll s).filter fun e => e.2.g == g && (spillOf e.2).isSome && (!e.2.spill || e.2.pin == 0)

def holderFirst (a b : Nat × PfxEntry) : Bool :=
  b.2.age < a.2.age || (a.2.age == b.2.age && (spillOf a.2).getD 0 < (spillOf b.2).getD 0)

/-- R252: a spill block is freed: an entry that names it is invalidated; one in HBM loses its board copy, and is DIRTY
again (assumption log 81). -/
def freeHolder (s : State) (bucket : Nat) (e : PfxEntry) : State :=
  match e.spill, e.copy with
  | false, some c => freeSpill (modPfx s bucket fun x => if sameBlock x e then { x with copy := none, dirty := true } else x) e.g c
  | _, _ => dropEntry s bucket e

/-- R252: a free spill block; with none, the spill block of highest AGE, lowest index among equals, is freed. -/
def takeSpill (s : State) (g : Nat) : Option (Nat × State) :=
  let free := fun (s : State) =>
    let i := firstFree 0 (pool s g).spill
    if i < spillBlocks s g then some (i, modPool s g fun p => { p with spill := insertNat i p.spill }) else none
  match free s with
  | some r => some r
  | none =>
    match leastBy holderFirst (spillHolders s g) with
    | some (b, e) => free (freeHolder s b e)
    | none => none

/-- R246: a block's keys and values are copied, from a pool or a spill area to a pool or a spill area. -/
def copyBlock (s : State) (g : Nat) (spill : Bool) (i : Nat) (spill' : Bool) (j : Nat) : State :=
  devCopy s (kvAddr s spill g i) (kvAddr s spill' g j) (blockBytesMax s)

/-- R247: positions not yet written hold zero. -/
def zeroBlock (s : State) (g i : Nat) : State := devClear s (kvAddr s false g i) (blockBytesMax s)

/-- A block leaves HBM: its entry names the spill copy from now on (R251). -/
def toSpill (s : State) (bucket : Nat) (e : PfxEntry) (c : Nat) : State :=
  let tag := tagOf s false e.g e.idx
  let s := modPfx s bucket fun x =>
    if sameBlock x e then { x with spill := true, idx := c, copy := none, dirty := false } else x
  let s := freeBlock s e.g e.idx
  match tag with
  | some t => putTag s true e.g c t
  | none => s

/-- R251: while free blocks are below KV_FREE_LOW, spill: a clean block is freed at once, a DIRTY one starts a
write-back (KV_SPILL ends it). -/
def startSpill (s : State) (g : Nat) : Nat → State
  | 0 => s
  | f + 1 =>
    if (pool s g).spilling.isSome || freeLow s g + (pool s g).used.length ≤ poolBlocks s g then s
    else
      match leastBy spillFirst (spillables s g) with
      | none => s
      | some (b, e) =>
        match e.copy with
        | some c => if e.dirty then s else startSpill (toSpill s b e c) g f
        | none =>
          match takeSpill s g with
          | some (c, s) => modPool s g fun p => { p with spilling := some (b, e.idx, c) }
          | none => s

/-- R251: end a write-back at once, for an allocation that waits on it. -/
def endSpill (s : State) (g : Nat) : State :=
  match (pool s g).spilling with
  | none => s
  | some (b, i, c) =>
    let s := modPool s g fun p => { p with spilling := none }
    match (tget [] s.gen.pfx b).find? fun e => e.valid && e.g == g && !e.spill && e.idx == i with
    | none => freeSpill s g c
    | some e =>
      let s := copyBlock s g false i true c
      if e.pin = 0 then toSpill s b e c
      else modPfx s b fun x => if sameBlock x e then { x with copy := some c, dirty := false } else x

/-- A free pool block, all zero, if there is one. -/
def freshBlock (s : State) (g : Nat) : Option (Nat × State) :=
  let i := firstFree 0 (pool s g).used
  if i < poolBlocks s g then some (i, zeroBlock (modPool s g fun p => { p with used := insertNat i p.used }) g i) else none

/-- R250, R251: allocate one pool block. With none free, the spill of the first block R251 names is brought to its end
first: an allocation waits and never fails. -/
def takeBlock (s : State) (g : Nat) : Option (Nat × State) :=
  match freshBlock s g with
  | some (i, s) => some (i, startSpill s g 64)
  | none =>
    match freshBlock (endSpill (startSpill s g 64) g) g with
    | some r => some r
    | none =>
      -- the write-back found no room in the spill area: the block's entry is dropped with its data
      match leastBy spillFirst (spillables s g) with
      | some (b, e) => freshBlock (dropEntry s b e) g
      | none => none

/-! ### Block tables and reservations (R72, R249, R250) -/

def tableOf (s : State) (h : Handle) : Option (Nat × BlockTable) := s.gen.tables.find? fun t => t.2.h == h

def modTable (s : State) (h : Handle) (f : BlockTable → BlockTable) : State :=
  { s with gen := { s.gen with tables := s.gen.tables.map fun t => if t.2.h = h then (t.1, f t.2) else t } }

def tableFree (s : State) : Bool := decide (s.gen.tables.length < 8192)

/-- R4, R279: HBM bandwidth of the assembly in bytes per µs. -/
def hbmBytesPerUs (s : State) : Nat := if s.ident.hbmStacks = 8 then 16400000 else 12300000

/-- R279: COMPASS_SEQ_MAX: each Compass domain on builds 500,000 masks/s; 0 while no generator is resident. -/
def compassSeqMax (s : State) : Nat :=
  let on := b2n (domIs s 31 .on) + b2n (domIs s 32 .on)
  let ws := s.obj.objs.filterMap fun o =>
    if o.evicted then none else (match modelOf o with | some m => if m.role = 2 then some (weightBytes m) else none | none => none)
  match leastBy (fun a b => decide (a < b)) ws with
  | none => 0
  | some w => 500000 * on * w / (2 * 1000000 * hbmBytesPerUs s)

/-- R279: room for another grammar-constrained reservation. -/
def compassRoom (s : State) : Bool := decide (s.compass.recs.length < compassSeqMax s)

/-- R72, R249: what a reservation on this device needs. -/
def canReserve (s : State) (g blocks : Nat) (grammar : Bool) : Bool :=
  decide (blocks ≤ unreserved s g) && tableFree s && (!grammar || compassRoom s)

/-- R91: the object a live request holds, evicted since or not; else the resident one. -/
def pickObj (s : State) (refs : List Nat) (kind id : Nat) : Option Obj :=
  match heldObj s refs kind id with
  | some o => some o
  | none => resident s kind id

/-- R275: the Compass record starts at START with an empty stack when the reservation is made. -/
def addCompass (s : State) (h : Handle) (refs : List Nat) (gid : Nat) : State :=
  match pickObj s refs 5 gid with
  | some o =>
    (match o.body with
     | .grammar gr => { s with compass := { s.compass with recs := s.compass.recs ++ [⟨h, gid, o.uid, gr.start, []⟩] } }
     | _ => s)
  | none => s

/-- R91: the objects a reservation is made for. -/
def genRefs (s : State) (refs : List Nat) (model variant : Nat) (grammar : Option Nat) : List Nat :=
  ([pickObj s refs 1 model, if variant = 0 then none else pickObj s refs 2 variant,
    grammar.bind (pickObj s refs 5)].filterMap id).map (·.uid)

/-- R72, R249: make the reservation: a block table of its own, in the first free slot. `refs`: objects the request is known
to hold. Answers the table's index. -/
def makeReservation (s : State) (h : Handle) (g model variant blocks : Nat) (grammar : Option Nat) (refs : List Nat) :
    Nat × State :=
  let i := firstFree 0 (sortBy (fun a b => decide (a < b)) (s.gen.tables.map (·.1)))
  let t : BlockTable := ⟨h, g, model, variant, 0, blocks, 0, [], genRefs s refs model variant grammar⟩
  let s := { s with gen := { s.gen with tables := (i, t) :: s.gen.tables } }
  let s := modPool s g fun p => { p with reserved := p.reserved + blocks }
  (i, match grammar with | some gid => addCompass s h refs gid | none => s)

/-- R261, R251: a request lets go of a shared block: its entry's PIN falls by one, and it may spill. -/
def unpin (s : State) (spill : Bool) (g idx : Nat) : State :=
  match (pfxAll s).find? fun e => e.2.g == g && e.2.spill == spill && e.2.idx == idx with
  | some (b, e) => startSpill (modPfx s b fun x => if sameBlock x e then { x with pin := x.pin - 1 } else x) g 64
  | none => s

/-- R249: ENTRY[b] of a block table. -/
def setBlock (s : State) (h : Handle) (b kind idx : Nat) : State :=
  modTable s h fun t => { t with entries := tset (0, 0) t.entries b (kind, idx) }

/-- R250: take a pool block for a request from its reservation. -/
def takeReserved (s : State) (h : Handle) : Option (Nat × State) :=
  match tableOf s h with
  | none => none
  | some (_, t) =>
    match takeBlock s t.gslot with
    | none => none
    | some (i, s) =>
      let s := modPool s t.gslot fun p => { p with reserved := p.reserved - (if t.resLeft = 0 then 0 else 1) }
      some (i, modTable s h fun t => { t with resLeft := t.resLeft - 1 })

/-- R250: allocate block b of a request from its reservation, private. -/
def allocFor (s : State) (h : Handle) (b : Nat) : Option (Nat × State) :=
  (takeReserved s h).map fun r => (r.1, setBlock r.2 h b 1 r.1)

/-- R270: the block that holds the next position: the open one, or the next from the reservation. -/
def openBlock (s : State) (h : Handle) : Option State :=
  match tableOf s h with
  | none => none
  | some (_, t) =>
    let b := t.length / 64
    if (tget (0, 0) t.entries b).1 ≠ 0 then some s else (allocFor s h b).map (·.2)

/-- R250, R261, R287: what a device holds of a request's key/value state and Compass record is released. -/
def releaseKv (s : State) (h : Handle) : State :=
  let s := match tableOf s h with
    | none => s
    | some (_, t) =>
      let s := forEach s t.entries fun s e =>
        if e.2.1 = 1 then freeBlock s t.gslot e.2.2
        else if e.2.1 = 2 then unpin s false t.gslot e.2.2
        else s
      let s := modPool s t.gslot fun p => { p with reserved := p.reserved - t.resLeft }
      { s with gen := { s.gen with tables := s.gen.tables.filter fun x => x.2.h != h } }
  { s with compass := { s.compass with
      recs := s.compass.recs.filter fun r => r.h != h
      masks := s.compass.masks.filter fun m => m.1 != h } }

/-- R26, R287: this device's prefill and decode work for a request ends, its masks with it; its block table and Compass
record go when the entry is FREE (R63). -/
def stopGen (s : State) (h : Handle) : State :=
  let s := forEach s (s.gen.jobs.filter fun j => j.o.h == h) fun s j =>
    forEach s j.scratch fun s i => freeBlock s j.gslot i
  let s := forEach s (s.gen.seqs.filter fun q => q.o.h == h) fun s q =>
    forEach s (q.filling.filter fun f => !q.entered.contains f.1) fun s f => freeBlock s q.gslot f.2
  { s with
    gen := { s.gen with
      jobs := s.gen.jobs.filter fun j => j.o.h != h
      seqs := s.gen.seqs.filter fun q => q.o.h != h }
    compass := { s.compass with masks := s.compass.masks.filter fun m => m.1 != h } }

/-- R268, R269: what this device holds of a request as a prefill member or as its decode device. -/
def releaseGen (s : State) (h : Handle) : State := releaseKv (stopGen s h) h

/-- Whether this device holds anything of a request's generation. -/
def holdsGen (s : State) (h : Handle) : Bool :=
  (tableOf s h).isSome || s.gen.jobs.any (fun j => j.o.h == h) || s.gen.seqs.any fun q => q.o.h == h

/-! ### Prefix look-up (R255-R259) -/

/-- R255: the hash of block b from that of block b − 1 and the block's 64 padded tokens. -/
def hashBlock (prev model variant : Nat) (toks : List Nat) : Nat :=
  toks.foldl (fun h t => mix (h ^^^ t)) (mix (prev ^^^ (model * 65536 + variant)))

/-- R255: the tokens of block b, padded with 0xFFFF_FFFF past the prompt's end. -/
def blockToks (toks : List Nat) (b : Nat) : List Nat :=
  let l := (toks.drop (64 * b)).take 64
  l ++ List.replicate (64 - l.length) 0xFFFFFFFF

/-- R255: the hashes of all blocks of a prompt. -/
def hashChain (model variant : Nat) (toks : List Nat) : Nat → Nat → Nat → List Nat
  | 0, _, _ => []
  | n + 1, b, prev =>
    let h := hashBlock prev model variant (blockToks toks b)
    h :: hashChain model variant toks n (b + 1) h

/-- R258: ⌈L / 64⌉. -/
def nBlocks (l : Nat) : Nat := cdiv l 64

def promptHashes (model variant : Nat) (toks : List Nat) : List Nat :=
  hashChain model variant toks (nBlocks toks.length) 0 0

/-- R257: FILLED of block b of a prompt of length L. -/
def filledOf (l b : Nat) : Nat := min 64 (l - 64 * b)

/-- R256: a hash selects a bucket by its bits [21:0]. -/
def bucketOf (h : Nat) : Nat := h % 2 ^ 22

/-- R257: whether an entry verifies for block b of the prompt: tag tokens, PARENT_HASH, MODEL_ID, VARIANT_ID, BLOCK_NO,
FILLED, SPLIT and, where PREFIX_SHARE is 0, OWNER_PART. -/
def verifies (s : State) (e : PfxEntry) (o : GenOrder) (b prev : Nat) : Bool :=
  match tagOf s e.spill e.g e.idx with
  | none => false
  | some t =>
    t.toks == blockToks o.toks b && t.parent == prev && t.model == o.model && t.variant == o.variant
      && t.block == b && t.filled == filledOf o.toks.length b && t.split == o.group.length
      && (prefixShare s o.h.part || t.owner == o.h.part)

/-- R257: look one block up: the entry that hits, and whether an equal HASH failed a check. -/
def lookUp (s : State) (o : GenOrder) (b : Nat) : Option PfxEntry × Bool :=
  let h := o.hashes.getD b 0
  let prev := if b = 0 then 0 else o.hashes.getD (b - 1) 0
  let same := (tget [] s.gen.pfx (bucketOf h)).filter fun e => e.valid && e.hash == h
  match same.find? fun e => verifies s e o b prev with
  | some e => (some e, false)
  | none => (none, !same.isEmpty)

end Sys2Proof.Machine
end

