-- ==== Sys2Proof/Machine/LoadChecks.lean ====
section
/-! DEFINITION. What the K4 checks of an object's image at its LAST piece, kind by kind (R436, R262, R164-R169, R173,
R146-R153, R272-R274, R224-R226, R235, R236, R209-R212, R92), and what the resident object then holds. -/

namespace Sys2Proof.Machine

/-- R43: the classes of a LAST piece's checks, each true where the image passes it. -/
structure Verdict where
  crc : Bool
  counts : Bool
  form : Bool
  refs : Bool
  space : Bool
  deriving DecidableEq, Repr

/-- R43: the first class that fails decides. -/
def Verdict.status (v : Verdict) : Option Status :=
  if !v.crc then some .dataError
  else if !v.counts then some .limitExceeded
  else if !v.form then some .dataError
  else if !v.refs then some .noResource
  else if !v.space then some .noResource
  else none

/-- R42, R43: what a check answers: a status of its own that precedes the classes (a TIER the image does not permit),
the classes, the object, and the context it carries. -/
structure Checked where
  tierOk : Bool
  v : Verdict
  body : ObjBody
  ctx : Option (Nat × ContextObj)
  deriving DecidableEq, Repr

/-- A count an image gives, cut to what its bytes could hold: an image shorter than its counts say fails its form. -/
def fitCount (b : List Byte) (count : Nat) : Nat := min count (b.length + 1)

/-- Records of `n` bytes from an offset, `count` of them. -/
def recs (b : List Byte) (o n count : Nat) : List (List Byte) :=
  (List.range (fitCount b count)).map fun i => slice b (o + n * i) n

/-- How many resident objects of a kind pass a test (R43 class 2). -/
def residentCount (s : State) (kind : Nat) (p : ObjBody → Bool) : Nat :=
  (s.obj.objs.filter fun o => o.kind == kind && !o.evicted && p o.body).length

/-! ### Contexts (R92) -/

def ctxObj (b : List Byte) : ContextObj :=
  let t := u8 b 2
  let p := u8 b 3
  let g := u16 b 4
  let ids := fun (o n : Nat) => (recs b o 2 n).map fun r => u16 r 0
  let ro := alignUp (64 + 2 * (t + p + g)) 16
  { tables := ids 64 t, programs := ids (64 + 2 * t) p, grammars := ids (64 + 2 * (t + p)) g,
    ranges := (recs b ro 16 (u16 b 6)).map fun r => (u64 r 0, u32 r 8, u32 r 12) }

/-- The length of a context image by its header. -/
def ctxLen (b : List Byte) : Nat :=
  alignUp (64 + 2 * (u8 b 2 + u8 b 3 + u16 b 4)) 16 + 16 * u16 b 6 + 4

def ctxCounts (b : List Byte) : Bool := u8 b 2 ≤ 32 && u8 b 3 ≤ 32 && u16 b 4 ≤ 256 && u16 b 6 ≤ 4096

/-- No two ranges of the tile store overlap. -/
def apart : List (Nat × Nat) → Bool
  | [] => true
  | (o, l) :: rs => rs.all (fun r => decide (o + l ≤ r.1 ∨ r.1 + r.2 ≤ o)) && apart rs

def ctxForm (s : State) (b : List Byte) : Bool :=
  let c := ctxObj b
  let n := 64 + 2 * (u8 b 2 + u8 b 3 + u16 b 4)
  b.length == ctxLen b && crcTailOk b && u8 b 0 == 1 && u8 b 1 == 1 && zeros b 8 64 && zeros b n (alignUp n 16)
    && distinct c.tables && distinct c.programs && distinct c.grammars && c.grammars.all (fun g => decide (g < 256))
    && c.ranges.all (fun r => r.1 % 64 == 0 && r.2.1 % 64 == 0 && r.2.2 % 64 == 0 && decide (hbmBase ≤ r.1)
        && decide (r.1 + r.2.2 ≤ hbmBase + hbmBytes s) && decide (r.2.1 + r.2.2 ≤ tileBytes))
    && apart (c.ranges.map fun r => r.2)

def isTable (o : Obj) : Bool := match o.body with | .arcTable _ => true | _ => false
def isProgram (o : Obj) : Bool := match o.body with | .arcProgram _ => true | _ => false

/-- R92: every list entry names a resident object of the kind its list needs. -/
def ctxRefsOk (s : State) (c : ContextObj) : Bool :=
  c.tables.all (fun i => (resident s 4 i).any isTable) && c.programs.all (fun i => (resident s 4 i).any isProgram)
    && c.grammars.all (fun i => (resident s 5 i).isSome)

/-- R90, R92: the tile-store set is at most 128 MiB. -/
def ctxSpace (c : ContextObj) : Bool := decide (sumN (c.ranges.map fun r => r.2.2) ≤ 2 ^ 27)

def checkContext (s : State) (_id _tier : Nat) (b : List Byte) : Checked :=
  let c := ctxObj b
  { tierOk := true, v := ⟨crcTailOk b, ctxCounts b, ctxForm s b, ctxRefsOk s c, ctxSpace c⟩, body := .context c, ctx := none }

/-! ### Model objects (R436, R246, R427) -/

/-- R128: bytes of one K × N matrix of a format of R104, rows packed. -/
def matrixBytes (k n f : Nat) : Nat := match Elt.ofCode f with | some t => k * t.bytes n | none => 0

def modelObj (b : List Byte) : ModelObj :=
  { role := u8 b 2, outDim := u16 b 4, ctxId := u16 b 6, layers := u16 b 16, kvHeads := u16 b 18, headDim := u16 b 20,
    kvFmt := u8 b 22, maxContext := u32 b 24,
    weights := (recs b (u64 b 32) 24 (u32 b 8)).map fun r => (u32 r 8, u32 r 12, u8 r 16),
    streams := (recs b (u64 b 40) 16 (u16 b 12)).map fun r => (u8 r 0, u8 r 1) }

/-- R436: counts above their range. A count that only a generator has and that another ROLE must hold at 0 is measured
against the generator's bound here: above it, LIMIT_EXCEEDED; otherwise non-zero, DATA_ERROR by `modelForm`. The rule does
not say which of the two such a field gives (DESIGN CHOICE, assumption log 29). -/
def modelCounts (b : List Byte) : Bool :=
  u32 b 8 ≤ 65536 && u16 b 12 ≤ 64 && u16 b 4 ≤ 4096 && u16 b 16 ≤ 1024 && u16 b 18 ≤ 256 && u16 b 20 ≤ 512
    && u32 b 24 ≤ 131072

/-- R104, R128: bytes of a matrix's block scales: a row of N for each 32 rows of K, at a stride of N rounded up to 64. -/
def scaleBytes (k n : Nat) : Nat := if k = 0 then 0 else (cdiv k 32 - 1) * alignUp n 64 + n

/-- R436: one weight-list record: its elements, and for an MX format its block scales, end within the image. -/
def weightForm (e : Nat) (r : List Byte) : Bool :=
  u64 r 0 % 256 == 0 && u8 r 16 ≤ 8 && zeros r 17 20 && u32 r 20 % 64 == 0 && (isMx (u8 r 16) || u32 r 20 == 0)
    && decide (u64 r 0 + matrixBytes (u32 r 8) (u32 r 12) (u8 r 16) ≤ e)
    && (!isMx (u8 r 16) || decide (u64 r 0 + u32 r 20 + scaleBytes (u32 r 8) (u32 r 12) ≤ e))

/-- R436: one stream-directory record. -/
def streamForm (e kvHeads : Nat) (r : List Byte) : Bool :=
  u8 r 0 ≤ 4 && zeros r 2 4 && u32 r 4 % 64 == 0 && u64 r 8 % 256 == 0 && decide (u64 r 8 + u32 r 4 ≤ e)
    && (if u8 r 0 = 3 then 1 ≤ u8 r 1 && u8 r 1 ≤ 8 && kvHeads % u8 r 1 == 0 else u8 r 1 == 0)

/-- R436: the streams a ROLE must carry, none twice. -/
def streamsOk (role : Nat) (l : List (Nat × Nat)) : Bool :=
  let keys := l.map fun x => x.1 * 256 + x.2
  let pre := (l.filter fun x => x.1 == 3).length
  distinct keys &&
    (if role = 0 then keys == [0]
     else if role = 1 then l.length == 2 && keys.contains 256 && keys.contains 512
     else keys.contains 1024 && 1 ≤ pre && pre ≤ 8 && l.length == pre + 1)

def modelForm (s : State) (b : List Byte) : Bool :=
  let m := modelObj b
  let e := b.length - 4
  let c := b.drop 64
  decide (64 ≤ e) && u8 b 0 == 1 && u8 b 1 == 1 && u8 b 2 ≤ 2 && u8 b 3 == 0 && zeros b 14 16 && u8 b 23 == 0
    && zeros b 28 32 && zeros b 48 64 && 1 ≤ u32 b 8 && 1 ≤ u16 b 12
    && (if m.role = 0 then 1 ≤ m.outDim else m.outDim == 0)
    && (if m.role = 2 then
          1 ≤ m.layers && 1 ≤ m.kvHeads && 16 ≤ m.headDim && m.headDim % 16 == 0 && 64 ≤ m.maxContext
            && m.maxContext % 64 == 0 && (m.kvFmt == 0 || m.kvFmt == 1 || m.kvFmt == 8)
        else m.layers == 0 && m.kvHeads == 0 && m.headDim == 0 && m.kvFmt == 0 && m.maxContext == 0)
    && u64 b 32 % 8 == 0 && u64 b 40 % 8 == 0 && decide (u64 b 32 + 24 * u32 b 8 ≤ e) && decide (u64 b 40 + 16 * u16 b 12 ≤ e)
    && (recs b (u64 b 32) 24 (u32 b 8)).all (weightForm e)
    && (recs b (u64 b 40) 16 (u16 b 12)).all (streamForm e m.kvHeads)
    && streamsOk m.role m.streams
    && (m.ctxId == 0 || (0x8000 ≤ m.ctxId && decide (64 + ctxLen c ≤ e) && ctxForm s (c.take (ctxLen c))))

/-- R427, R246: a generator needs an enabled GEN_SLOT and a BLOCK within BLOCK_BYTES_MAX. -/
def genFits (s : State) (id : Nat) (m : ModelObj) : Bool :=
  m.role != 2 || ((gslotOf s id).isSome && decide (blockBytes m ≤ blockBytesMax s))

def checkModel (s : State) (id _tier : Nat) (b : List Byte) : Checked :=
  let m := modelObj b
  let c := ctxObj (b.drop 64)
  let has := m.ctxId != 0
  { tierOk := true,
    v := ⟨crcTailOk b, modelCounts b && (!has || ctxCounts (b.drop 64)), modelForm s b,
          genFits s id m && (!has || ctxRefsOk s c), !has || ctxSpace c⟩,
    body := .model m, ctx := if has then some (m.ctxId, c) else none }

/-! ### Variants (R262) -/

def variantRecs (b : List Byte) : List (Nat × Nat × Nat) :=
  let mats := u16 b 4
  let o := 64 + 8 * mats
  let dir := (recs b 64 8 mats).map fun r => (u16 r 0, u32 r 4)
  (List.range (fitCount b (u32 b 8))).map fun i =>
    let m := match (dir.filter fun d => decide (d.2 ≤ i)).getLast? with | some d => d.1 | none => 0
    (m, u16 b (o + 1064 * i), u16 b (o + 1064 * i + 2))

/-- R262: ascending by (MATRIX, ROW_BLK, COL_BLK), no two equal. -/
def ascend3 : List (Nat × Nat × Nat) → Bool
  | [] => true
  | [_] => true
  | a :: b :: r =>
    decide (a.1 < b.1 ∨ (a.1 = b.1 ∧ (a.2.1 < b.2.1 ∨ (a.2.1 = b.2.1 ∧ a.2.2 < b.2.2)))) && ascend3 (b :: r)

def variantForm (b : List Byte) : Bool :=
  let mats := u16 b 4
  let dir := recs b 64 8 mats
  let o := 64 + 8 * mats
  u8 b 0 == 1 && u8 b 1 == 1 && zeros b 6 8 && zeros b 12 64 && 1 ≤ mats && b.length == o + 1064 * u32 b 8 + 4
    && dir.all (fun r => zeros r 2 4 && decide (u32 r 4 < u32 b 8)) && u32 (dir.headD []) 4 == 0
    && rising (dir.map fun r => u16 r 0) && rising (dir.map fun r => u32 r 4)
    && (recs b o 1064 (u32 b 8)).all (fun r => zeros r 4 8) && ascend3 (variantRecs b)

/-- R262: a record within the bounds of the base model's matrix. -/
def inBounds (m : ModelObj) (r : Nat × Nat × Nat) : Bool :=
  match m.weights[r.1]? with
  | some w => decide (r.2.1 * 32 < w.1) && decide (r.2.2 * 32 < w.2.1)
  | none => false

def checkVariant (s : State) (_id _tier : Nat) (b : List Byte) : Checked :=
  let base := (resident s 1 (u16 b 2)).bind fun o => (modelOf o).map fun m => (o, m)
  let rs := variantRecs b
  { tierOk := true,
    v := ⟨crcTailOk b, u16 b 4 ≤ 4096 && residentCount s 2 (fun _ => true) < 4096,
          variantForm b && (match base with | some x => rs.all (inBounds x.2) | none => true), base.isSome, true⟩,
    body := .variant { base := u16 b 2, baseUid := (match base with | some x => x.1.uid | none => 0), records := rs,
                       data := (recs b (64 + 8 * u16 b 4) 1064 (u32 b 8)).map fun r => r.drop 8 },
    ctx := none }

/-! ### Index sections (R164-R169, R173) -/

def secOf (o : Obj) : Option SectionObj := match o.body with | .index x => some x | _ => none

/-- R164: the resident header of an index. -/
def indexHeader (s : State) (id : Nat) : Option (Obj × IndexHeader) :=
  match resident s 3 id with
  | some o => (secOf o).bind fun x => if x.sec = 1 then x.header.map fun h => (o, h) else none
  | none => none

/-- R164: the tiers a section may be loaded to. -/
def secTier (sec tier : Nat) : Bool :=
  if sec = 2 then tier ≤ 1 else if sec = 6 then tier == 1 else if 1 ≤ sec ∧ sec ≤ 9 then tier == 0 else true

def headerObj (b : List Byte) : IndexHeader :=
  { itemCount := u32 b 12, dim := u16 b 20, metric := u8 b 22, pqBits := u8 b 23, pqS := u16 b 24, cbFmt := u8 b 26,
    degree := u8 b 27, vecFmt := u8 b 29, sketchBits := u16 b 30, attrBytes := u8 b 32, graphObj := u16 b 34,
    codebookObj := u16 b 36, codesObj := u16 b 38, sketchObj := u16 b 40, vectorsObj := u16 b 42, attrObj := u16 b 44,
    hashSeed := u32 b 48, ctxId := u16 b 52, entries := (recs b 64 4 (u8 b 28)).map fun r => u32 r 0 }

/-- R104: bytes of an element of CODEBOOK_FMT or VEC_FMT. -/
def fmtBytes (f : Nat) : Nat := if f = 8 then 2 else 1

/-- R163, R166: the fields and their combinations. R165: entry IDs are records of 4 bytes, packed. -/
def headerForm (id : Nat) (b : List Byte) : Bool :=
  let h := headerObj b
  u16 b 2 == id && 1 ≤ h.itemCount && (u32 b 16 == 0 || u32 b 16 == 4) && u8 b 33 == 0 && zeros b 46 48 && zeros b 54 60 && 1 ≤ h.dim && h.metric ≤ 2
    && (h.pqBits == 0 || h.pqBits == 4 || h.pqBits == 8) && (h.cbFmt == 0 || h.cbFmt == 8)
    && (h.vecFmt == 0 || h.vecFmt == 8 || h.vecFmt == 0xFF) && h.sketchBits % 256 == 0
    && (h.attrBytes == 0 || h.attrBytes == 4 || h.attrBytes == 8 || h.attrBytes == 16 || h.attrBytes == 32)
    && 0x8000 ≤ h.ctxId && (h.pqBits != 0) != (h.sketchBits != 0) && (h.degree != 0) == (u8 b 28 != 0)
    && (h.degree != 0) == (h.graphObj != 0) && h.codebookObj != 0 && (h.attrBytes != 0) == (h.attrObj != 0)
    && (if h.pqBits ≠ 0 then
          32 ≤ h.pqS && h.dim % h.pqS == 0 && h.degree != 0 && h.codesObj != 0
            && (h.dim ≤ 1024 || 1024 % (h.dim / h.pqS) == 0)
        else h.sketchObj != 0 && h.vectorsObj != 0 && h.vecFmt != 0xFF)
    && u64 b 4 == 4 * u8 b 28 && h.entries.all (fun v => decide (v < h.itemCount))

def headerCounts (b : List Byte) : Bool :=
  u16 b 20 ≤ 4096 && u16 b 24 ≤ 256 && u8 b 27 ≤ 128 && u8 b 28 ≤ 64 && u16 b 30 ≤ 2048 && u8 b 32 ≤ 32

/-- R167: the least power of two from 16 at or above `n` bytes. -/
def codeStride (n : Nat) : Nat := if n ≤ 16 then 16 else if n ≤ 32 then 32 else if n ≤ 64 then 64 else if n ≤ 128 then 128 else 256

/-- R166: PQ_S × 2^PQ_BITS. -/
def nCentroids (h : IndexHeader) : Nat := h.pqS * 2 ^ h.pqBits

/-- R167: STRIDE and body size of a section other than the header and the filter. -/
def secShape (h : IndexHeader) (sec count : Nat) : Nat × Nat :=
  match sec with
  | 2 => (alignUp (h.degree * 4) 64, count * alignUp (h.degree * 4) 64)
  | 3 => (0, if h.pqBits ≠ 0 then
               nCentroids h * (h.dim / h.pqS) * fmtBytes h.cbFmt + (if h.metric = 1 then 4 * nCentroids h else 0)
             else h.sketchBits * h.dim * fmtBytes h.cbFmt)
  | 4 => let n := codeStride (cdiv (h.pqS * h.pqBits) 8)
         (n, count * n)
  | 5 => (h.sketchBits / 8, count * (h.sketchBits / 8))
  | 6 => let n := alignUp (h.dim * fmtBytes h.vecFmt) 64
         (n, count * n)
  | 7 => (h.attrBytes, count * h.attrBytes)
  | _ => (0, cdiv count 8)

def clauseOf (r : List Byte) : Clause := ⟨u8 r 0, u8 r 1, u8 r 2, u64 r 8⟩

def clausesOf (b : List Byte) : List Clause := (recs b 64 16 (u8 b 22)).map clauseOf

/-- R173: rows of the expanded codebook or of the projection: the input vectors of a build. -/
def buildRows (h : IndexHeader) : Nat := if h.sketchBits ≠ 0 then h.sketchBits else nCentroids h

/-- R165, R167: records of a section: sub-vectors of a codebook or rows of a projection; else one for each item. -/
def secCount (h : IndexHeader) (sec : Nat) : Nat := if sec = 3 then buildRows h else h.itemCount

/-- R165, R167: the STRIDE of a section: a projection's packed rows may also give their length. -/
def strideOk (h : IndexHeader) (sec stride : Nat) : Bool :=
  stride == (secShape h sec 0).1 || (sec == 3 && h.sketchBits != 0 && stride == h.dim * fmtBytes h.cbFmt)

/-- R169 against the resident header: shapes, counts and clauses. Full vectors need a format (R166). -/
def secAgainst (h : IndexHeader) (b : List Byte) : Bool :=
  let sec := u8 b 0
  if sec = 9 then (clausesOf b).all fun c => decide (c.offset + c.width ≤ h.attrBytes)
  else
    strideOk h sec (u32 b 16) && u64 b 4 == (secShape h sec (u32 b 12)).2 && u32 b 12 == secCount h sec
      && (sec != 6 || h.vecFmt != 0xFF)

/-- R165, R168, R169: what can be judged of the section alone. -/
def secForm (id : Nat) (b : List Byte) : Bool :=
  let sec := u8 b 0
  1 ≤ sec && sec ≤ 9 && u8 b 1 == 1 && b.length == 64 + u64 b 4
    && (if sec = 1 then headerForm id b
        else if sec = 9 then
          zeros b 23 60 && (u32 b 16 == 0 || u32 b 16 == 16) && u32 b 12 == u8 b 22 && u64 b 4 == 16 * u8 b 22
            && (recs b 64 16 (u8 b 22)).all fun r =>
                zeros r 3 8 && (u8 r 1 == 1 || u8 r 1 == 2 || u8 r 1 == 4 || u8 r 1 == 8) && u8 r 2 ≤ 7
        else zeros b 20 60 && (u32 b 16 == 0 || u64 b 4 == u32 b 12 * u32 b 16))

/-! ### The table-build set (R172, R173, R187) -/

/-- R173, R187: operations of a build, and the rows it holds expanded: every centroid once, or every row of the projection
for each 1,024 dimensions. -/
def buildPieces (h : IndexHeader) : Nat := cdiv h.dim 1024
def setRows (h : IndexHeader) : Nat := if h.sketchBits ≠ 0 then buildPieces h * h.sketchBits else nCentroids h

/-- R173: X, its rows 1,024 elements apart. -/
def rowBytesX (h : IndexHeader) : Nat := 1024 * fmtBytes h.cbFmt
def setBytes (h : IndexHeader) : Nat := setRows h * rowBytesX h

/-- R172: B_max. -/
def batchMax (h : IndexHeader) : Nat := min 1024 ((2 ^ 27 - buildRows h * rowBytesX h) / (4 * buildRows h))

/-- R173: the whole set: X with the output buffer of a full batch (R172). -/
def buildSetBytes (h : IndexHeader) : Nat := setBytes h + 4 * buildRows h * batchMax h

/-- R90, R173: the set fits, with room for one query's table at least. -/
def codebookFits (h : IndexHeader) : Bool :=
  decide (setBytes h + 4 * buildRows h ≤ 2 ^ 27) && decide (buildSetBytes h ≤ 2 ^ 27)

/-- R173: the expanded centroids: each a row of 1,024 elements, the centroid on its sub-quantiser's dimensions and zero
elsewhere. R187: the projection's rows, cut into pieces of 1,024 dimensions. -/
def setImage (h : IndexHeader) (cb : List Byte) : List Byte :=
  let e := fmtBytes h.cbFmt
  let row := fun (o : Nat) (b : List Byte) => List.replicate o (0 : Byte) ++ b ++ List.replicate (rowBytesX h - o - b.length) 0
  if h.sketchBits ≠ 0 then
    (List.range (buildPieces h)).flatMap fun j => (List.range h.sketchBits).flatMap fun r =>
      row 0 (slice cb ((r * h.dim + 1024 * j) * e) (min 1024 (h.dim - 1024 * j) * e))
  else
    let w := h.dim / h.pqS
    (List.range (nCentroids h)).flatMap fun c => row (c / 2 ^ h.pqBits * w % 1024 * e) (slice cb (c * w * e) (w * e))

/-- R173: the context the codebook brings: the set, at the tile store's beginning, from its place in HBM. -/
def buildContext (h : IndexHeader) (place : Nat) : ContextObj := ⟨[], [], [], [(place, 0, buildSetBytes h)]⟩

/-- R164: the image of an index section. R169: only its header carries a CRC. The codebook its header names brings the
table-build context with it (R173), whose place in HBM is found when the image has passed its checks. -/
def checkIndex (s : State) (id tier : Nat) (b : List Byte) : Checked :=
  let sec := u8 b 0
  let hd := indexHeader s (u16 b 2)
  let cb := match hd with | some h => sec == 3 && h.2.codebookObj == id | none => false
  { tierOk := secTier sec tier,
    v := ⟨decide (64 ≤ b.length) && crc32c (b.take 60) == u32 b 60,
          (if sec = 1 then headerCounts b else if sec = 9 then u8 b 22 ≤ 8 else true),
          secForm id b && (sec == 1 || (match hd with | some h => secAgainst h.2 b | none => true)),
          sec == 1 || hd.isSome,
          !cb || (match hd with | some h => codebookFits h.2 | none => true)⟩,
    body := .index { sec := sec, indexId := u16 b 2, count := u32 b 12, stride := u32 b 16,
                     header := if sec = 1 then some (headerObj b) else none, bitmapObj := if sec = 9 then u16 b 20 else 0,
                     clauses := if sec = 9 then clausesOf b else [], body := b.drop 64 },
    ctx := match hd with
      | some h => if cb then some (h.2.ctxId, buildContext h.2 0) else none
      | none => none }

/-! ### Arc objects (R146-R153) -/

def sgn8 (v : Nat) : Int := s8 v

def tableHead (b : List Byte) : TableHead :=
  { mode := u8 b 2, pre := u8 b 3, expMin := sgn8 (u8 b 8), expMax := sgn8 (u8 b 9), mbits := u8 b 10,
    signMode := u8 b 11, lowAction := u8 b 12, highAction := u8 b 13, lowValue := u32 b 16, highValue := u32 b 20,
    pinf := u32 b 24, ninf := u32 b 28, negValue := u32 b 32, kPreHi := u32 b 36, kPreLo := u32 b 40,
    kPostHi := u32 b 44, kPostLo := u32 b 48 }

def segTable (b : List Byte) : SegTable :=
  let n := u16 b 4
  { head := tableHead b,
    segs := (recs b 64 16 n).map fun r => ⟨u32 r 0, u32 r 4, u32 r 8, u32 r 12⟩,
    excs := (recs b (64 + 16 * n) 8 (u16 b 6)).map fun r => (u8 r 2, u16 r 0, u16 r 4) }

/-- R147: ascending by (FMT, KEY), no two equal. -/
def excAscend : List (Nat × Nat × Nat) → Bool
  | [] => true
  | [_] => true
  | a :: b :: r => decide (a.1 < b.1 ∨ (a.1 = b.1 ∧ a.2.1 < b.2.1)) && excAscend (b :: r)

def tableForm (b : List Byte) : Bool :=
  let h := tableHead b
  let n := u16 b 4
  let x := recs b (64 + 16 * n) 8 (u16 b 6)
  u8 b 1 == 1 && zeros b 14 16 && zeros b 52 64 && h.mode ≤ 1 && h.pre ≤ 4 && 1 ≤ n && decide (h.expMin ≤ h.expMax)
    && h.mbits ≤ 9 && h.signMode ≤ 3 && h.lowAction ≤ 2 && h.highAction ≤ 2
    && ((h.lowAction != 1 && h.highAction != 1) || h.pre == 0)
    && n == (h.expMax - h.expMin + 1).toNat * 2 ^ h.mbits * (if h.signMode = 0 then 2 else 1)
    && b.length == 64 + 16 * n + 8 * u16 b 6 + 4
    && x.all (fun r => zeros r 3 4 && zeros r 6 8 && (u8 r 2 == 8 || u8 r 2 == 0 || u8 r 2 == 1)
        && (u8 r 2 == 8 || (u8 r 1 == 0 && u8 r 5 == 0)))
    && excAscend (segTable b).excs

/-- R152: fields of a step word. -/
def stepOp (w : Nat) : Nat := bits w 31 27
def stepDst (w : Nat) : Nat := bits w 26 23
def stepA (w : Nat) : Nat := bits w 22 18
def stepB (w : Nat) : Nat := bits w 17 13
def stepC (w : Nat) : Nat := bits w 12 8
def stepAux (w : Nat) : Nat := bits w 7 0

/-- R152: FUNC codes a LUT step may name. -/
def lutFunc (f : Nat) : Bool := (1 ≤ f && f ≤ 0x0A) || (0x20 ≤ f && f ≤ 0x3F)

/-- R152, R153: a valid step: a listed OP, and every field it does not use 0. -/
def stepOk (w : Nat) : Bool :=
  let b := stepB w == 0
  let c := stepC w == 0
  let x := stepAux w == 0
  match stepOp w with
  | 0 => w == 0
  | 1 => x
  | 2 => c && x
  | 3 => c && x
  | 4 => c && stepAux w ≤ 3
  | 5 => x
  | 6 => b && c && lutFunc (stepAux w)
  | 7 => b && c && x
  | 8 => c && x
  | 9 => b && c && stepAux w ≤ 2
  | _ => false

def program (b : List Byte) : Program :=
  { consts := (recs b 4 4 16).map fun r => u32 r 0, steps := (recs b 68 4 (u8 b 2)).map fun r => u32 r 0 }

def programForm (b : List Byte) : Bool :=
  let p := program b
  u8 b 1 == 1 && u8 b 3 == 0 && 1 ≤ u8 b 2 && b.length == 68 + 4 * u8 b 2 + 4 && p.steps.all stepOk
    && p.steps.getLast? == some 0 && (p.steps.filter fun w => stepOp w == 9).length ≤ 4

def checkArc (_s : State) (_id _tier : Nat) (b : List Byte) : Checked :=
  if u8 b 0 = 2 then
    { tierOk := true, v := ⟨crcTailOk b, u8 b 2 ≤ 64, programForm b, true, true⟩, body := .arcProgram (program b), ctx := none }
  else
    { tierOk := true, v := ⟨crcTailOk b, u16 b 4 ≤ 512 && u16 b 6 ≤ 128, u8 b 0 == 1 && tableForm b, true, true⟩,
      body := .arcTable (segTable b), ctx := none }

/-! ### Grammars (R272-R274) -/

/-- R225: a resident vocabulary. -/
def vocabOf (s : State) (id : Nat) : Option (Obj × VocabObj) :=
  (resident s 6 id).bind fun o => match o.body with | .vocab v => some (o, v) | _ => none

/-- R273: token t's bit. -/
def bitmapBit (m : List Byte) (t : Nat) : Bool := bit (u8 m (t / 8)) (t % 8)

/-- Where the sections of a grammar begin: bitmaps, context-dependent records, transitions, end. -/
def grammarOffs (b : List Byte) : Nat × Nat × Nat × Nat :=
  let o1 := 64 + 32 * u32 b 8
  let o2 := o1 + u32 b 16 * u32 b 32
  let o3 := o2 + 16 * u32 b 20
  (o1, o2, o3, o3 + 64 * u32 b 24)

def gTransOf (r : List Byte) : GTrans := ⟨u32 r 0, u32 r 4, u32 r 8, u8 r 12 == 1, u16 r 14⟩

def grammarObj (b : List Byte) : GrammarObj :=
  let (o1, o2, o3, _) := grammarOffs b
  { vocabId := u16 b 2, vocabSize := u32 b 4, start := u32 b 12,
    terminator := if u32 b 28 = 0xFFFFFFFF then none else some (u32 b 28),
    states := (recs b 64 32 (u32 b 8)).map fun r => ⟨u32 r 0, u32 r 4, u32 r 8, u32 r 12, u16 r 16⟩,
    bitmaps := recs b o1 (u32 b 32) (u32 b 16),
    cds := (recs b o2 16 (u32 b 20)).map fun r => ⟨u32 r 0, u16 r 4, u8 r 6, u16 r 8, u32 r 12⟩,
    trans := ((recs b o3 16 (4 * u32 b 24)).filter fun r => u32 r 0 != 0xFFFFFFFF).map gTransOf }

def powerOfTwo (n : Nat) : Bool := n != 0 && 2 ^ Nat.log2 n == n

/-- The context-dependent records of a state (R273). -/
def cdsOf (g : GrammarObj) (st : GState) : List GCd := (g.cds.drop st.cdFirst).take st.cdCount

def cdAscend : List GCd → Bool
  | [] => true
  | [_] => true
  | a :: b :: r => decide (a.token < b.token ∨ (a.token = b.token ∧ a.top < b.top)) && cdAscend (b :: r)

/-- R274: one state and its records. -/
def gStateOk (g : GrammarObj) (st : GState) : Bool :=
  decide (st.bitmap < g.bitmaps.length) && decide (st.full < g.bitmaps.length) && decide (st.dflt < g.states.length)
    && decide (st.cdFirst + st.cdCount ≤ g.cds.length) && cdAscend (cdsOf g st)
    && (cdsOf g st).all fun c =>
        !bitmapBit (g.bitmaps.getD st.bitmap []) c.token && !bitmapBit (g.bitmaps.getD st.full []) c.token

def gCdOk (g : GrammarObj) (c : GCd) : Bool :=
  decide (c.next < g.states.length) && c.action ≤ 2 && (c.top != 0xFFFF || c.action == 0) && decide (c.token < g.vocabSize)
    && (c.action != 2 || c.sym != 0xFFFF)

/-- R273, R274: a used transition entry, found in bucket k. -/
def gTransOk (g : GrammarObj) (nb k : Nat) (t : GTrans) : Bool :=
  decide (t.state < g.states.length) && decide (t.next < g.states.length) && decide (t.token < g.vocabSize)
    && mix (t.state * 2 ^ 32 + t.token) % nb == k && (!t.push || t.sym != 0xFFFF)
    && (!t.push ||
        match g.states[t.state]? with
        | some st => !bitmapBit (g.bitmaps.getD st.full []) t.token
        | none => false)

def grammarForm (b : List Byte) : Bool :=
  let g := grammarObj b
  let (_, o2, o3, o4) := grammarOffs b
  let nb := u32 b 24
  let all := recs b o3 16 (4 * nb)
  let used := all.zipIdx.filter fun r => u32 r.1 0 != 0xFFFFFFFF
  u8 b 0 == 1 && u8 b 1 == 1 && zeros b 36 64 && 1 ≤ u32 b 8 && decide (g.start < u32 b 8) && 1 ≤ u32 b 16
    && powerOfTwo nb && u32 b 32 == alignUp (cdiv g.vocabSize 8) 64 && b.length == o4 + 4
    && (match g.terminator with | some t => decide (t < g.vocabSize) | none => true)
    && (recs b 64 32 (u32 b 8)).all (fun r => zeros r 18 32)
    && (recs b o2 16 (u32 b 20)).all (fun r => zeros r 7 8 && zeros r 10 12)
    && g.states.all (gStateOk g) && g.cds.all (gCdOk g)
    && all.all (fun r => u8 r 13 == 0)
    && used.all (fun r => u8 r.1 12 ≤ 1 && gTransOk g nb (r.2 / 4) (gTransOf r.1))
    && distinct (g.trans.map fun t => t.state * 2 ^ 32 + t.token)

def grammarCounts (b : List Byte) : Bool :=
  u32 b 8 ≤ 2 ^ 24 && u32 b 16 ≤ 262144 && u32 b 24 ≤ 2 ^ 24 && b.length ≤ 2 ^ 32
    && (recs b 64 32 (u32 b 8)).all fun r => u16 r 16 ≤ 4096

def checkGrammar (s : State) (_id _tier : Nat) (b : List Byte) : Checked :=
  let v := vocabOf s (u16 b 2)
  { tierOk := true,
    v := ⟨crcTailOk b, grammarCounts b,
          grammarForm b && (match v with | some x => x.2.size == u32 b 4 | none => true), v.isSome, true⟩,
    body := .grammar (grammarObj b), ctx := none }

/-! ### Vocabularies (R224-R226) -/

/-- Where the sections of a vocabulary begin: byte tokens, merges, offsets, pool. -/
def vocabOffs (b : List Byte) : Nat × Nat × Nat × Nat :=
  let o1 := 64 + 8 * u32 b 12
  let o2 := o1 + 1024
  let o3 := o2 + 12 * u32 b 8
  (o1, o2, o3, o3 + 4 * (u32 b 4 + 1))

def vocabObj (b : List Byte) : VocabObj :=
  let (o1, o2, o3, o4) := vocabOffs b
  { size := u32 b 4, eos := u32 b 20, pad := u32 b 24, brk := slice b 32 32,
    ranges := (recs b 64 8 (u32 b 12)).map fun r => (u32 r 0, u8 r 4),
    byteToks := (recs b o1 4 256).map fun r => u32 r 0,
    merges := (recs b o2 12 (u32 b 8)).map fun r => (u32 r 0, u32 r 4, u32 r 8),
    texts := (List.range (fitCount b (u32 b 4))).map fun i =>
      let x := u32 b (o3 + 4 * i)
      slice b (o4 + x) (u32 b (o3 + 4 * i + 4) - x) }

def notFalling : List Nat → Bool
  | [] => true
  | [_] => true
  | x :: y :: r => x ≤ y && notFalling (y :: r)

def vocabForm (b : List Byte) : Bool :=
  let v := vocabObj b
  let (_, _, o3, o4) := vocabOffs b
  let offs := (recs b o3 4 (v.size + 1)).map fun r => u32 r 0
  let text := fun t => v.texts.getD t []
  u8 b 0 == 1 && u8 b 1 == 1 && zeros b 2 4 && zeros b 28 32 && 256 ≤ v.size && 1 ≤ v.ranges.length
    && b.length == o4 + u32 b 16 + 4
    && (recs b 64 8 (u32 b 12)).all (fun r => zeros r 5 8) && (v.ranges.map (·.1)).headD 1 == 0
    && rising (v.ranges.map (·.1)) && v.ranges.all (fun r => r.1 ≤ 0x10FFFF && r.2 ≤ 15)
    && decide (v.eos < v.size) && decide (v.pad < v.size) && v.byteToks.all (fun t => decide (t < v.size))
    && v.merges.all (fun m => decide (m.1 < v.size) && decide (m.2.1 < v.size) && decide (m.2.2 < v.size))
    && notFalling offs && offs.all (fun x => x ≤ u32 b 16) && v.texts.all (fun x => x.length ≤ 512)
    && (v.byteToks.zipIdx).all (fun x => text x.1 == [BitVec.ofNat 8 x.2])
    && distinct (v.byteToks ++ v.merges.map fun m => m.2.2)
    && v.merges.all fun m => text m.2.2 == text m.1 ++ text m.2.1

def checkVocab (_s : State) (_id _tier : Nat) (b : List Byte) : Checked :=
  { tierOk := true,
    v := ⟨crcTailOk b,
          u32 b 4 ≤ 1048576 && u32 b 8 ≤ 1048575 && decide (u32 b 8 + 256 ≤ max 256 (u32 b 4)) && u32 b 12 ≤ 65536,
          vocabForm b, true, true⟩,
    body := .vocab (vocabObj b), ctx := none }

/-! ### Templates (R235, R236) -/

/-- Where the token pool begins. -/
def poolOff (b : List Byte) : Nat := 64 + 8 * u8 b 4

/-- A run at a header or segment offset. -/
def runAt (b : List Byte) (o : Nat) : List Nat :=
  (recs b (poolOff b + 4 * u16 b o) 4 (u16 b (o + 2))).map fun r => u32 r 0

def runOk (b : List Byte) (o : Nat) : Bool := decide (u16 b o + u16 b (o + 2) ≤ u16 b 6)

def templateObj (b : List Byte) : TemplateObj :=
  { vocabId := u16 b 2,
    segs := (List.range (u8 b 4)).map fun i =>
      let o := 64 + 8 * i
      (u8 b o, if u8 b o = 0 then runAt b (o + 4) else []),
    psgHead := runAt b 8, psgTail := runAt b 12, pairHead := runAt b 16, pairSep := runAt b 20, pairTail := runAt b 24 }

def segForm (b : List Byte) (i : Nat) : Bool :=
  let o := 64 + 8 * i
  zeros b (o + 1) (o + 4) && (if u8 b o = 0 then runOk b (o + 4) else u8 b o ≤ 2 && zeros b (o + 4) (o + 8))

def templateForm (b : List Byte) : Bool :=
  let n := u8 b 4
  let kinds := (List.range n).map fun i => u8 b (64 + 8 * i)
  u8 b 0 == 1 && u8 b 1 == 1 && u8 b 5 == 0 && zeros b 28 64 && b.length == poolOff b + 4 * u16 b 6 + 4
    && (List.range n).all (segForm b) && [8, 12, 16, 20, 24].all (runOk b)
    && (n == 0 || ((kinds.filter (· == 1)).length == 1 && (kinds.filter (· == 2)).length ≤ 1))

def checkTemplate (s : State) (_id _tier : Nat) (b : List Byte) : Checked :=
  let v := vocabOf s (u16 b 2)
  let toks := (recs b (poolOff b) 4 (u16 b 6)).map fun r => u32 r 0
  { tierOk := true,
    v := ⟨crcTailOk b, u8 b 4 ≤ 32 && u16 b 6 ≤ 4096,
          templateForm b && (match v with | some x => toks.all (fun t => decide (t < x.2.size)) | none => true),
          v.isSome, true⟩,
    body := .template (templateObj b), ctx := none }

/-! ### Feature tables and sets (R209-R212) -/

def featTableObj (b : List Byte) : FeatTable :=
  let rb := u16 b 4
  { sharded := u8 b 2 == 1, elemFmt := u8 b 3, rowBytes := rb, shards := u8 b 6, thisShard := u8 b 7, rowCount := u32 b 8,
    updatable := bit (u8 b 16) 0, lr := u32 b 20, owners := (recs b 64 2 64).map fun r => u16 r 0,
    dflt := slice b 192 rb, rows := recs b (192 + rb) rb (u32 b 12) }

def featEltBytes (f : Nat) : Nat := if f = 9 then 4 else if f = 8 then 2 else 1

def featTableForm (b : List Byte) : Bool :=
  let t := featTableObj b
  let upd := u8 b 16
  u8 b 1 == 1 && u8 b 2 ≤ 1 && (t.elemFmt == 0 || t.elemFmt == 8 || t.elemFmt == 9) && 4 ≤ t.rowBytes
    && t.rowBytes % 4 == 0 && t.rowBytes % featEltBytes t.elemFmt == 0 && 1 ≤ t.shards && (t.sharded || t.shards == 1)
    && decide (t.thisShard < t.shards) && 1 ≤ t.rowCount
    && u32 b 12 == cdiv (t.rowCount - t.thisShard) t.shards && upd ≤ 1 && zeros b 17 20 && zeros b 24 64
    && (decide (t.lr < 0x7F800000) || t.lr == 0x80000000) && (t.updatable || t.lr == 0 || t.lr == 0x80000000) && (t.sharded || !t.updatable)
    && (t.owners.drop t.shards).all (· == 0xFFFF) && b.length == 192 + t.rowBytes * (u32 b 12 + 1) + 4

def lookupOf (r : List Byte) : Lookup := ⟨u16 r 0, u8 r 2 == 1, u8 r 3, u8 r 4, u8 r 5 == 1⟩

def featSetForm (b : List Byte) : Bool :=
  u8 b 1 == 1 && 1 ≤ u8 b 2 && zeros b 3 16 && b.length == 16 + 8 * u8 b 2 + 4
    && (recs b 16 8 (u8 b 2)).all fun r =>
        u8 r 2 ≤ 1 && u8 r 3 ≤ 15 && 1 ≤ u8 r 4 && u8 r 3 + u8 r 4 ≤ 16 && u8 r 5 ≤ 1 && zeros r 6 8
          && (u8 r 2 == 1 || (u8 r 3 == 0 && u8 r 4 == 1))

def isFeatTable (b : ObjBody) : Bool := match b with | .featTable _ => true | _ => false

def checkFeature (s : State) (_id tier : Nat) (b : List Byte) : Checked :=
  if u8 b 0 = 2 then
    { tierOk := tier == 0,
      v := ⟨crcTailOk b, u8 b 2 ≤ 64 && (recs b 16 8 (u8 b 2)).all (fun r => u8 r 4 ≤ 16), featSetForm b, true, true⟩,
      body := .featSet ((recs b 16 8 (u8 b 2)).map lookupOf), ctx := none }
  else
    { tierOk := true,
      v := ⟨crcTailOk b, u16 b 4 ≤ 1024 && u8 b 6 ≤ 64 && residentCount s 8 isFeatTable < 4096,
            u8 b 0 == 1 && featTableForm b, true, true⟩,
      body := .featTable (featTableObj b), ctx := none }

end Sys2Proof.Machine
end

