-- ==== Sys2Proof/Machine/Requests.lean ====
section
/-! DEFINITION. What every stage of a request shares on its home device: state changes (R64, R65) and their mirror
records (R392), the commit of a completion (R66, R47, R75), failure and success (R21, R22), the release of what other
units hold (R26, R63), and the writing of output (R40, R49). -/

namespace Sys2Proof.Machine

/-! ### Handles, ranks, mirroring -/

/-- R59: the handle of an entry of this device. -/
def handleOf (s : State) (p slot : Nat) : Handle := ⟨devno s, p, slot, (entry s slot).gen⟩

/-- R392: whether a request's records go to the twin. -/
def mirrored (s : State) (slot : Nat) : Bool := (entry s slot).mirrored

/-- R392: send a mirror record of a mirrored request. -/
def mirrorOut (s : State) (slot : Nat) (m : MirrorMsg) : State :=
  if mirrored s slot then sendTwin s (match work s slot with | some w => w.handle.part | none => 0) (.mirror m) else s

/-- R62, R392: the entry's image in a mirror record. -/
def entryImage (e : Entry) (w : Work) : EntryImage :=
  { handle := w.handle, cls := e.cls, origCls := e.origCls, yellow := e.yellow, lastStage := e.lastStage, sq := e.sq,
    tag := e.tag, arrival := e.arrival, ttftTarget := e.ttftTarget, ttftUs := e.ttftUs, lastTokenUs := e.lastTokenUs,
    profileId := e.profileId, outAddr := e.outAddr, outLen := e.outLen, desc := w.desc }

/-- R65: the transitions the Logbook makes. -/
def ReqSt.follows : ReqSt → ReqSt → Bool
  | .free, .admitted => true
  | .admitted, .front => true
  | .front, .waitPrefill => true
  | .front, .committing => true
  | .waitPrefill, .prefill => true
  | .prefill, .decode => true
  | .waitPrefill, .committing => true
  | .prefill, .committing => true
  | .decode, .committing => true
  | .admitted, .aborting => true
  | .front, .aborting => true
  | .waitPrefill, .aborting => true
  | .prefill, .aborting => true
  | .decode, .aborting => true
  | .aborting, .committing => true
  | .committing, .free => true
  | .free, .mirror => true
  | .mirror, _ => true
  | _, _ => false

/-- R73: an entry in WAIT_PREFILL or PREFILL makes the prefill queue of its partition not empty in this window. -/
def markPrefill (s : State) (p : Nat) (st : ReqSt) : State :=
  if st = .waitPrefill ∨ st = .prefill then modPart s p fun P => { P with winBusy := true } else s

/-- R65, R392: move an entry, only along a transition of R65, and mirror the change. -/
def setSt (s : State) (slot : Nat) (st : ReqSt) : State :=
  if (entry s slot).st.follows st then
    let s := modEntry s slot fun e => { e with st := st }
    match work s slot with
    | some w => markPrefill (mirrorOut s slot (.state w.handle st.toNum)) w.handle.part st
    | none => s
  else s

/-- R19, R65: a stage starts; the first one moves the entry to FRONT. -/
def startStage (s : State) (slot n : Nat) : State :=
  let s := modEntry s slot fun e => { e with stage := n }
  if (entry s slot).st = .admitted then setSt s slot .front else s

/-- R19, R29: whether the unit of a stage has a domain that is ON or POWERING_UP. -/
def stageUnitUp (s : State) (n : Nat) : Bool :=
  match n with
  | 2 => plotterUp s
  | 3 => arrayUp s && arcUp s
  | 4 => movesUp s
  | 5 => arrayUp s
  | 6 => bearingUp s
  | 7 => bearingUp s
  | 8 => sextantUp s
  | 10 => plotterUp s
  | 11 => arrayUp s && arcUp s && sextantUp s
  | 12 => plotterUp s
  | 14 => arrayUp s && arcUp s
  | 15 => movesUp s
  | 16 => arrayUp s && arcUp s && sextantUp s
  | _ => true

/-! ### Qualifiers and completion (R21, R22, R66) -/

/-- R22: the first qualifier that applies. -/
def qualStatus (q : Quals) : Status :=
  if q.resumed then .okResumed
  else if q.grammarEnd then .okGrammarEnd
  else if q.short then .okShort
  else if q.degraded then .okDegraded
  else if q.truncated then .okTruncated
  else .ok

def degrade (w : Work) : Work := { w with quals := { w.quals with degraded := true } }
def truncate (w : Work) : Work := { w with quals := { w.quals with truncated := true } }


/-- R73: an estimate moves by a sixteenth of its distance to the sample. -/
def ema (est sample : Nat) : Nat := (15 * est + sample) / 16

/-- R76: a gap closed by a token write. -/
def closeGap (s : State) (slot : Nat) (w : Work) (gap : Nat) : State :=
  let e := entry s slot
  let tgt := tbtTarget s w.handle.part e.cls * 1000 * (if w.gaps = 0 then 2 else 1)
  let miss := tgt != 0 && decide (tgt < gap)
  let s := modEntry s slot fun e => { e with
    tbtMax := min 0xFFFF (max e.tbtMax (cdiv gap 10000))
    tbtMisses := if miss then min 0xFFFF (e.tbtMisses + 1) else e.tbtMisses }
  let s := modWork s slot fun w => { w with gaps := w.gaps + 1, lastGap := some gap }
  countEv s 7 5 e.cls (some w.handle.part) (b2n miss)

/-- R75, R76, R73: the timers at a write of text. LAST_TOKEN_US beyond its field reads 0xFFFF_FFFF: the spec states
saturation for TBT_MAX and TBT_MISSES only (DESIGN CHOICE, assumption log 74). -/
def writeTimers (s : State) (slot : Nat) (w : Work) : State :=
  let s :=
    if (entry s slot).ttftUs = 0xFFFFFFFF then
      modPart (stopTtft s slot s.now) w.handle.part fun P => { P with
        handoff := ema P.handoff ((s.now - w.prefillEnd) * 65536 / 1000) }
    else closeGap s slot w (s.now - w.lastWrite)
  let s := modEntry s slot fun e => { e with lastTokenUs := min 0xFFFFFFFF (usUp (sinceArrival e s.now)) }
  modWork s slot fun w => { w with lastWrite := s.now }

/-- R49, R75-R77, R94: one write of output completes in host memory; of token text, with its timers. -/
def writeDone (s : State) (slot : Nat) (x : Nat × List Byte) : State :=
  match work s slot with
  | none => s
  | some w =>
    let s := charge (hostWrite s ((entry s slot).outAddr + x.1) x.2) w.handle.part 4 x.2.length
    let s := modEntry s slot fun e => { e with outBytes := x.1 + x.2.length }
    if (entry s slot).lastStage = 3 then writeTimers s slot w else s


/-- R50, R392: the completion slot of a request is used: its own descriptor's, or, after a takeover, the one its
MIRROR entry reserved. -/
def useSlot (s : State) (w : Work) (sq : Nat) : State :=
  if w.handle.dev = devno s then closeDesc s w.handle.part sq w.count
  else modPart s w.handle.part fun P => { P with mirrorSlots := P.mirrorSlots - 1 }

/-- R242: bytes still held back when generation ends are dropped and counted. -/
def dropHold (s : State) (slot : Nat) : State :=
  match work s slot with
  | none => s
  | some w => countEv (modWork s slot fun w => { w with hold := [] }) 5 5 0 (some w.handle.part) w.hold.length

/-- R66: commit a request's completion: the entry enters COMMITTING, and the record is written in commit order (R49),
after the twin's acknowledgement when it is mirrored (R393). Output comes first (R49): with writes outstanding, which the
regulator may hold (R93), the request ends when the last is done. R56: only a READY device commits; at the fault
`faultComplete` has committed what there was. -/
def commitReq (s : State) (slot : Nat) (st : Status) (detail : Nat) : State :=
  match work s slot with
  | none => s
  | some w =>
    if !w.writes.isEmpty then
      modWork s slot fun w => { w with ending := some (w.ending.getD (st, detail)) }
    else if isReady s && (entry s slot).st.follows .committing then
      let s := settleTtft (setSt (dropHold s slot) slot .committing) slot
      let e := entry s slot
      let s := modEntry s slot Entry.committed
      let p := w.handle.part
      let n := (part s p).cqTail.toNat
      let c : Commit := ⟨st, detail, e.outBytes, e.stage, n, phaseOf n (cqSize s p)⟩
      let s := mirrorOut s slot (.commit w.handle c)
      let s := modWork s slot fun w => { w with commit := some c, commitHeld := e.mirrored }
      let s := useSlot s w e.sq
      pushRecord s p (reqRecord e w.handle st detail) (if e.mirrored then some w.handle else none)
    else s

/-! ### Release on this device (R26, R63, R189, R206) -/

/-- R173, R86, R118: operations of batches that no query waits for any more leave Helm's queue. -/
def dropBuilds (s : State) : State :=
  { s with helm := { s.helm with queue := s.helm.queue.filter fun o => match o.src with
      | .build _ _ n _ => s.bearing.queries.any fun q => q.st = .building && q.batch == n
      | .step .. => true } }

/-- R26: a shard's query ends, with the operations nothing waits for. R189: its reads already asked for go on, and what
they bring is discarded. -/
def endQuery (s : State) (h : Handle) : State :=
  dropBuilds { s with
    bearing := { s.bearing with
      queries := s.bearing.queries.filter fun q => q.f.handle != h
      lines := s.bearing.lines.filter fun l => l.h != h } }

/-- A stream leaves, and its waits with it. -/
def dropStream (s : State) (sid : Nat) : State :=
  { s with
    streams := tset none s.streams sid none
    wp := { s.wp with waits := s.wp.waits.filter fun w => match w.who with | .step i _ => i != sid | .desc .. => true } }

/-- R26, R86, R105, R118: a request leaves the streams generated for it; one that serves no request any more runs no further
step, and goes once nothing of it is in the array. -/
def leaveStream (h : Handle) (s : State) (e : Nat × Option Stream) : State :=
  match e.2 with
  | none => s
  | some x =>
    match x.req with
    | none => s
    | some r =>
      if !r.hs.any (·.1 == h) then s
      else
        let hs := r.hs.filter fun y => y.1 != h
        let x' := { x with
          req := some { r with hs := hs }
          ended := if hs.isEmpty then some (x.ended.getD .cancelled) else x.ended }
        if hs.isEmpty && !inArray s e.1 then dropStream s e.1
        else { s with streams := tset none s.streams e.1 (some x') }

def leaveStreams (s : State) (h : Handle) : State := forEach s s.streams (leaveStream h)

/-- Messages that start or carry on work for a request. -/
def workMail (h : Handle) : Msg → Bool
  | .fanOut f => f.handle == h
  | .prefillCmd o | .prefixCopy o _ => o.h == h
  | .prefixSlices g .. | .slices g .. | .logits g .. | .partialRows g .. | .lookup g .. | .fetch g .. | .reserve g .. => g == h
  | _ => false

/-- R337: a message of which a frame has already been sent stays: the first to its receiver in its queue. -/
def keepMail (h : Handle) (P : Port) (q : Nat) : List Nat → List (Nat × Nat × Msg) → List (Nat × Nat × Msg)
  | _, [] => []
  | seen, m :: ms =>
    let begun := !seen.contains m.1 && tget 0 P.midMsg (q * 65536 + m.1) != 0
    let rest := keepMail h P q (m.1 :: seen) ms
    if workMail h m.2.2 && !begun then rest else m :: rest

/-- R26, R269: work for a request that has been sent and not started, or that stands in an egress queue, is not started;
a sender stops at its next message. -/
def dropMail (s : State) (h : Handle) : State :=
  let s := { s with links := { s.links with inbox := s.links.inbox.filter fun m => !workMail h m.2 } }
  forEach s s.links.ports fun s e => modPort s e.1 fun P => { P with
    queues := P.queues.foldl (fun t x => tset [] t x.1 (keepMail h P x.1 [] x.2)) [] }

/-- R194, R206: a list's Sextant domain (0 to 31: 23; 32 to 63: 24) is ON. -/
def listOn (s : State) (l : Nat) : Bool := domIs s (if l < 32 then 23 else 24) .on

/-- R194: the first free list of a domain that is ON. -/
def freeList (s : State) : Option Nat := (List.range 64).find? fun l => listOn s l && !s.lists.any fun x => x.1 == l

/-- R194: the merges that wait for a list, but for one that ends, in the order of R85. -/
def waitingMerges (s : State) (but : Option Handle) : List Work :=
  sortBy (fun a b => a.rank.lt b.rank) ((s.lb.work.filter fun e =>
    (entry s e.1).stage == 8 && (entry s e.1).st = .front && !(s.lists.any fun l => l.2 == e.2.handle)
      && but != some e.2.handle).map (·.2))

/-- R194: a merge takes its list, when one is free. -/
def seatMerge (s : State) (w : Work) : State :=
  match freeList s with
  | some l => { s with lists := s.lists ++ [(l, w.handle)] }
  | none => s

def seatMerges (s : State) (but : Option Handle) : State := forEach s (waitingMerges s but) seatMerge

/-- R194, R206: a merge gives up its list; those that wait start. -/
def dropList (s : State) (h : Handle) : State := seatMerges { s with lists := s.lists.filter fun l => l.2 != h } (some h)

/-- R26: the work for a request on this device ends: its search, its merge, its streams, and what has been sent for it and
not started. -/
def stopWork (s : State) (h : Handle) : State := dropList (leaveStreams (endQuery (dropMail s h) h) h) h

/-- R26, R82: the abort goes on Q0 to every other device that holds work. -/
def sendAborts (s : State) (w : Work) : State :=
  forEach s (w.sentTo.filter fun d => d != devno s) fun s d => sendMsg s d w.handle.part (.abort w.handle)

/-- R21: a stage fails: the request ends with its code, no later stage runs, and every device releases it. R26, R81: an abort
that has won stays the outcome. -/
def failReq (s : State) (slot : Nat) (st : Status) (detail : Nat) : State :=
  match work s slot with
  | none => s
  | some w =>
    if (entry s slot).st = .aborting then s
    else commitReq (sendAborts (stopGen (stopWork s w.handle) w.handle) w) slot st detail

/-- The device that writes a request's output, as the work held here says: its own, or after a takeover the survivor
(R27). -/
def homeOf (s : State) (h : Handle) : Nat :=
  match s.gen.seqs.find? fun q => q.o.h == h with
  | some q => q.o.home
  | none =>
    match s.gen.jobs.find? fun j => j.o.h == h with
    | some j => j.o.home
    | none =>
      match s.bearing.queries.find? fun q => q.f.handle == h with
      | some q => q.f.home
      | none => h.dev

/-- R21: a stage of a request fails on this device: at home the request ends; elsewhere its home device is told. -/
def failHandle (s : State) (h : Handle) (st : Status) : State :=
  match liveSlot s h with
  | some slot => failReq s slot st 0
  | none =>
    let home := homeOf s h
    if home = devno s then s else sendMsg (releaseGen (stopWork s h) h) home h.part (.genEnd h st 0)

/-- R17: the rank of the shard of an index that a device holds; an index with no shard configured is one of rank 0. -/
def rankOn (s : State) (index dev : Nat) : Nat :=
  match s.cell.shards.find? fun x => x.index == index && (x.active == dev || x.twin == dev) with
  | some x => x.rank
  | none => 0

/-- R17: the rank of this device's shard. -/
def shardRank (s : State) (index : Nat) : Nat := rankOn s index (devno s)

/-- R19: the stage a query stands in: table build, walk or scan, exact re-rank. -/
def QuerySt.stage : QuerySt → Nat
  | .gathering | .building => 5
  | .built | .walking | .scanning => 6
  | .rerank => 7

/-- R21: a stage of the search fails the request: its STAGE is the one that failed. -/
def failSearch (s : State) (h : Handle) (stage : Nat) (st : Status) : State :=
  match liveSlot s h with
  | some slot => failReq (modEntry s slot fun e => { e with stage := stage }) slot st 0
  | none => s

/-- R29, R200: a shard's search ends with a code. Another home device is told: DOMAIN_OFF or NOT_READY leaves the list
missing at its merge, any other code fails the stage (R21). On the home device itself every code fails the stage, which the
record's STAGE names: R29 ends a request whose own device has the stage's unit off (assumption log 32). -/
def refuseQuery (s : State) (q : Query) (st : Status) : State :=
  let h := q.f.handle
  let s := endQuery s h
  if q.f.home ≠ devno s then sendMsg s q.f.home h.part (.stageRefused h (shardRank s q.f.indexId) q.st.stage st)
  else failSearch s h q.st.stage st

/-- Send a message to a device; to this one, it is delivered at once. -/
def deliver (s : State) (dev pt : Nat) (m : Msg) : State :=
  if dev = devno s then { s with links := { s.links with inbox := (dev, m) :: s.links.inbox } } else sendMsg s dev pt m

/-- R20, R22: a request ends with success: the first qualifier that applies; DETAIL holds the missing shards for
OK_DEGRADED (R47). -/
def finishReq (s : State) (slot : Nat) : State :=
  match work s slot with
  | none => s
  | some w =>
    let st := qualStatus w.quals
    commitReq (stopWork s w.handle) slot st (if st = .okDegraded then w.missing else 0)

/-- R27: work that finishes after its request has ended is discarded and counted. -/
def lateResult (s : State) (cls : Nat) (p : Nat) : State := countEv s 7 6 cls (some p) 1

/-- R27: one for a slot: of its request if there is still one, else of no partition. -/
def lateFor (s : State) (slot : Nat) : State :=
  countEv s 7 6 (entry s slot).cls ((work s slot).map (·.handle.part)) 1

/-! ### Output of SEARCH, RERANK and PACK (R40, R49) -/

/-- R40: whole units that fit in OUTPUT_LEN. -/
def fitUnits (n len : Nat) (units : List (List Byte)) : List (List Byte) := units.take (len / n)

/-- R49, R93: output whose transfer may be issued is written at once; else it waits as a write of the request. -/
def putOutput (s : State) (slot : Nat) (b : List Byte) : State :=
  match work s slot with
  | none => s
  | some w =>
    if regOpen s w.handle.part 4 b.length then writeDone s slot (0, b)
    else modWork s slot fun w => { w with writes := [(0, b)] }

/-- R40: write the units of an output and end the request; what does not fit makes it OK_TRUNCATED. -/
def writeUnits (s : State) (slot n : Nat) (units : List (List Byte)) : State :=
  let fit := fitUnits n (entry s slot).outLen units
  let s := if fit.length < units.length then modWork s slot truncate else s
  finishReq (putOutput s slot fit.flatten) slot

/-- R40: a 16-byte record: ITEM_ID, shard rank, FLAGS, SCORE. -/
def outRecord (item rank flags score : Nat) : List Byte := le 4 item ++ le 2 rank ++ le 2 flags ++ le 4 score ++ le 4 0

/-- R40, R202: the SEARCH output: the merged list. -/
def searchUnits (w : Work) : List (List Byte) := w.cands.map fun c => outRecord c.item c.rank (c.flags % 4) c.score

/-- R40, R208: the RERANK output: scored candidates in re-rank order, then every other item in merged order with the
canonical NaN. Bit 9 says that an item has no text, an item beyond CE_CANDIDATES too: R40 names the bit for a passage skipped
and does not say whether it counts there (DESIGN CHOICE, assumption log 83). -/
def rerankUnits (w : Work) : List (List Byte) :=
  w.order.filterMap fun j =>
    (w.cands[j]?).map fun c =>
      match c.ce with
      | some sc => outRecord c.item c.rank (c.flags % 4 + 256) sc
      | none => outRecord c.item c.rank (c.flags % 4 + (if c.fetch = .absent then 512 else 0)) 0x7FC00000

/-! ### Fields of the request descriptor (R39) -/

def dLast (d : List Byte) : Nat := u8 d 2
def dClass (d : List Byte) : Nat := u8 d 3 % 4
def dQueryLen (d : List Byte) : Nat := u16 d 16
def dProfile (d : List Byte) : Nat := u16 d 18
def dVariant (d : List Byte) : Nat := u16 d 20
def dGrammar (d : List Byte) : Option Nat := if u16 d 22 = 0xFFFF then none else some (u16 d 22)
def dSearchK (d : List Byte) : Nat := u16 d 24
def dBudget (d : List Byte) : Nat := u16 d 26
def dMaxOut (d : List Byte) : Nat := u16 d 28
def dTemp (d : List Byte) : Nat := u16 d 30
def dTopP (d : List Byte) : Nat := u16 d 32
def dTopK (d : List Byte) : Nat := u16 d 34
def dTtft (d : List Byte) : Nat := u32 d 36
def dOutAddr (d : List Byte) : Nat := u64 d 40
def dOutLen (d : List Byte) : Nat := u32 d 48
def dFilter (d : List Byte) : Nat := u16 d 52
def dSeed (d : List Byte) : Nat := u32 d 56

/-- R232: GEN_VOCAB: 0 means RET_VOCAB. -/
def genVocabId (p : Profile) : Nat := if p.genVocab = 0 then p.retVocab else p.genVocab

/-- R223: the generation vocabulary is needed, and differs from the retrieval vocabulary. -/
def twoVocabs (w : Work) : Bool := 2 ≤ dLast w.desc && genVocabId w.prof != w.prof.retVocab

/-! ### The prompt record (R63) -/

/-- R63: the descriptor copy, the query token IDs (under a second vocabulary behind those under the first), the packed prompt. -/
def promptBytes (w : Work) : List Byte :=
  w.desc ++ ((w.retToks ++ (if twoVocabs w then w.genToks else []) ++ w.prompt).flatMap (le 4))

/-- R62: PROMPT_REF of a record's place, an offset in the HBM window in units of 256 bytes; all ones where no place is free
(DESIGN CHOICE, assumption log 67). -/
def promptRefOf (s : State) (slot : Nat) : Nat := ((placeFor s (.prompt slot)).map fun p => (p.addr - hbmBase) / 256).getD 0xFFFFFFFF

/-- The record as far as it stands is written. -/
def writePrompt (s : State) (slot : Nat) : State :=
  match work s slot, placeFor s (.prompt slot) with
  | some w, some p => devWrite s p.addr ((promptBytes w).take p.len)
  | _, _ => s

/-- R72: B: TOKEN_BUDGET, or the profile's when it is 0. -/
def budgetOf (d : List Byte) (p : Profile) : Nat := if dBudget d = 0 then p.budget else dBudget d

/-- R72: B of a request that is held. -/
def workBudget (w : Work) : Nat := budgetOf w.desc w.prof

/-- R63: a place for a request's record, as large as its query tokens and its prompt can grow. -/
def placePrompt (s : State) (slot : Nat) : State :=
  match work s slot with
  | none => s
  | some w =>
    let n := 64 + 4 * (2 * w.prof.queryMax + workBudget w)
    match freePlace s 0 n with
    | none => modEntry s slot fun e => { e with promptRef := 0xFFFFFFFF }
    | some a =>
      let s := takePlace s ⟨.prompt slot, a, n⟩
      writePrompt (modEntry s slot fun e => { e with promptRef := promptRefOf s slot }) slot

/-- R18: the members of the prefill group, ascending, this device included (R265). -/
def groupOf (s : State) : List Nat := insertNat (devno s) (sortBy (fun a b => decide (a < b)) (s.cell.group.filter (· != devno s)))

end Sys2Proof.Machine
end

