-- ==== Sys2Proof/Machine/Taking.lean ====
section
/-! DEFINITION. Taking descriptors from the submission rings (R32-R38, R50, R54, R97) and completing those that are
not requests. -/

namespace Sys2Proof.Machine

/-! ### Descriptor fields (R37) -/

def dType (d : List Byte) : Nat := u8 d 0
def dFlags (d : List Byte) : Nat := u8 d 1
def dFence (d : List Byte) : Bool := bit (dFlags d) 0
def dOp (d : List Byte) : Nat := u16 d 2
def dTag (d : List Byte) : Nat := u32 d 4

/-- R37, R38: a 64-byte descriptor whose CRC matches. -/
def descCrcOk (d : List Byte) : Bool := d.length == 64 && crcTailOk d

/-- R38, R41, R42, R44: a TYPE and OPCODE (or OBJECT_KIND) that some command starts; any other descriptor is
BAD_DESCRIPTOR at once. -/
def descKnown (d : List Byte) : Bool :=
  match dType d with
  | 1 => true
  | 2 => true
  | 3 => 1 ≤ dOp d && dOp d ≤ 10
  | 4 => 1 ≤ dOp d && dOp d ≤ 4
  | _ => false

/-! ### Rings and room (R34-R36, R50, R97) -/

/-- R50: completion slots that are neither promised nor unconsumed. -/
def cqRoom (s : State) (p : Nat) : Bool :=
  let P := part s p
  decide (P.open_.length + P.mirrorSlots + dist P.cqHead P.cqTail < cqSize s p)

/-- R41, R97: an operation descriptor with WAIT_EN. -/
def dWaitEn (d : List Byte) : Bool := dType d == 2 && bit (dFlags d) 1

/-- R97: descriptors of the list of 4,096: those that wait on a waypoint, and those with WAIT_EN taken and not started. -/
def waitingDescs (s : State) : Nat :=
  (s.wp.waits.filter fun w => match w.who with | .desc .. => true | .step .. => false).length
    + sumN (allParts.map fun p => ((part s p).taken.filter fun d => dWaitEn d.bytes).length)

def waitFull (s : State) : Bool := decide (4096 ≤ waitingDescs s)

/-- R35, R58: take one descriptor: its slot is no longer in the ring; one whose read failed, or which no command
starts, completes BAD_DESCRIPTOR at once. -/
def takeOne (s : State) (p i : Nat) (d : Option (List Byte)) : State :=
  let n := (ring s p i).head.toNat
  let s := modRing s p i fun r => { r with head := r.head + 1 }
  let s := countEv s 0xD 1 p (some p) 1
  let s := modPart s p fun P => { P with open_ := P.open_ ++ [⟨i, n, dTag (d.getD [])⟩] }
  match d with
  | none => completeDesc s p i n 0 0 .badDescriptor
  | some b =>
    if descKnown b then
      let k := s.host.takes
      modPart { s with host := { s.host with takes := k + 1 } } p fun P => { P with taken := P.taken ++ [⟨i, n, b, s.now, k⟩] }
    else completeDesc s p i n (dTag b) 0 .badDescriptor

/-- R35, R50, R97: take up to `k` descriptors of a ring in count order. -/
def takeFrom (s : State) (p i : Nat) (ds : List DescBytes) : Nat → State
  | 0 => s
  | k + 1 =>
    if !cqRoom s p then s
    else
      let n := (ring s p i).head.toNat
      let d := (ds.find? fun x => x.sq == i && x.count == n).map (·.bytes)
      if (match d with | some b => dWaitEn b | none => false) && waitFull s then s
      else takeFrom (takeOne s p i d) p i ds k

/-- R36: SQ_TAIL has run more than the ring's entry count past its head: the ring stops. The event's RESOURCE is the ring's
number and its DETAIL free: R51's table names neither for RING_STOPPED (DESIGN CHOICE, assumption log 56). -/
def stopRing (s : State) (p i : Nat) : State :=
  let s := modRing s p i fun r => { r with stopped := true }
  eventTo (drawn s) p 5 Status.badDescriptor.toCode i (draw s % 2 ^ 32)

/-- R35, R36, R54, R84: one submission ring at a doorbell read; a draining partition takes nothing more. -/
def serveRing (s : State) (p : Nat) (ds : List DescBytes) (i : Nat) : State :=
  let r := ring s p i
  let d := dist r.head r.tail
  if !sqEn s p i || r.stopped || r.restart || d = 0 then s
  else if sqSize s p i < d then stopRing s p i
  else if (part s p).st ≠ .ready then s
  else
    let want := min 8 d
    let h := r.head
    let s := takeFrom s p i ds want
    let got := dist h (ring s p i).head
    let miss := (List.range got).any fun k =>
      !ds.any fun x => x.sq == i && x.count == (h + BitVec.ofNat 32 k).toNat
    let s := if miss then countEv s 0xD 4 p (some p) 1 else s
    let s := if got < want then countEv s 0xD 2 p (some p) (want - got) else s
    if got = 0 then s else dsbHead s p i

/-- R36 steps 2 to 4: a ring restarts empty. -/
def restartRing (s : State) (p i : Nat) (tail : W32) : State :=
  dsbHead (modRing s p i fun r => { r with head := tail, tail := tail, stopped := false, restart := false }) p i

/-- R34: a descriptor of the partition is held back: published on a ring that takes descriptors, and not taken. -/
def heldBack (s : State) (p : Nat) : Bool :=
  ((part s p).st = .ready || (part s p).st = .draining) && (List.range 16).any fun i =>
    let r := ring s p i
    sqEn s p i && !r.stopped && !r.restart && r.head != r.tail

/-- R34: the next doorbell read: 200 ns after one that found work or leaves work, else twice the interval, up to
POLL_MAX. -/
def schedulePoll (s : State) (p : Nat) (changed : Bool) : State :=
  let busy := changed || heldBack s p || (part s p).lost != 0
  let iv := if busy then 200 else min (2 * (part s p).interval) (pollMaxNs s p)
  modPart s p fun P => { P with interval := iv, nextPoll := s.now + iv }

/-- R32, R34: what a doorbell block says is taken in. -/
def readBlock (s : State) (p : Nat) (b : Doorbell) : State :=
  let s := modPart s p fun P => { P with cqHead := b.cqHead, eqHead := b.eqHead }
  forEach s ((List.range 16).filter fun i => sqEn s p i) fun s i =>
    if (ring s p i).restart then restartRing s p i (b.tails.getD i 0)
    else modRing s p i fun r => { r with tail := b.tails.getD i 0 }

/-- R35: the rings in round-robin order from `start`. -/
def ringOrder (start : Nat) : List Nat := (List.range 16).map fun k => (start + k) % 16

/-- R34, R35: a doorbell read: take what is published, then schedule the next read. -/
def doorbell (s : State) (p : Nat) (blk : HostRead) (ds : List DescBytes) : State :=
  let s := countEv s 0xD 0 p (some p) 1
  match blk.map doorbellOf with
  | none => schedulePoll (countEv s 0xD 4 p (some p) 1) p false
  | some b =>
    let changed := (List.range 16).any fun i => sqEn s p i && (ring s p i).tail != b.tails.getD i 0
    let s := flushLost (readBlock s p b) p
    let start := (part s p).rrNext
    let s := modPart s p fun P => { P with rrNext := (start + 1) % 16 }
    schedulePoll (forEach s (ringOrder start) fun s i => serveRing s p ds i) p changed

/-! ### Starting what was taken -/

/-- R37: FENCE holds a descriptor until every earlier one of its ring has completed. -/
def fenceOk (s : State) (p : Nat) (d : Taken) : Bool :=
  !dFence d.bytes || !(part s p).open_.any fun o =>
    o.sq == d.sq && o.count != d.count &&
      decide (dist (BitVec.ofNat 32 o.count) (BitVec.ofNat 32 d.count) < 2 ^ 31)

/-- The partition's next taken descriptor of a kind, in the order taken, that may start: one that FENCE holds does not hold
those of other rings. (Requests: `nextRequest`.) -/
def nextTaken (s : State) (p : Nat) (is : List Byte → Bool) : Option Taken :=
  (part s p).taken.find? fun d => is d.bytes && fenceOk s p d

/-- It starts: it leaves the list of those waiting. -/
def dropTaken (s : State) (p : Nat) (d : Taken) : State :=
  modPart s p fun P => { P with taken := P.taken.filter fun x => !(x.sq == d.sq && x.count == d.count) }

/-- The completion of a started descriptor that is not a request. -/
def endTaken (s : State) (p : Nat) (d : Taken) (st : Status) : State :=
  completeDesc s p d.sq d.count (dTag d.bytes) 0 st

/-- R44: the common checks of an admin descriptor: CRC, FLAGS, reserved bytes. -/
def adminOk (d : List Byte) : Bool := descCrcOk d && dFlags d < 2 && zeros d 24 60

def isAdmin (op : Nat) (d : List Byte) : Bool := dType d == 4 && dOp d == op
def isLoad (kind : Nat) (d : List Byte) : Bool := dType d == 3 && dOp d == kind

/-- R422: a BAR0 write that is ignored is counted, and its offset kept. -/
def ignoreWrite (s : State) (off : Nat) : State :=
  { s with bar := { s.bar with ignored := min 0xFFFFFFFF (s.bar.ignored + 1), ignoredAt := off } }

/-- R359, R421: whether a BAR0 region answers. -/
def barOpen (s : State) (off : Nat) : Bool :=
  s.boot.fw || (s.host.cfgReady && (off < 0x20000 || (0x700000 ≤ off && off < 0x800000)))

/-- R36, R30, R426: a write to SQi_CFG that sets (`en`) or clears SQ_EN; the other bits change only while the partition's
EN is 0. R36's steps 1 to 4 need a doorbell read; where none is made at the write (the device is not READY, or the
partition neither READY nor DRAINING) they wait for the first later read that succeeds, and what is published before it is
abandoned as R36 says. SQ_EN written 0 keeps the head; a ring that is not stopped and is enabled again under EN restarts
empty like a stopped one (DESIGN CHOICE, assumption log 73). -/
def writeSqCfg (s : State) (p i : Nat) (v : Nat) (en : Bool) (blk : HostRead) : State :=
  let off := rPart p (pSQ_CFG i)
  let old := reg s off
  let was := bit old 8
  let log := if partEn s p then bits old 4 0 else bits v 4 0
  if en && partEn s p && !was && !(6 ≤ log && log ≤ 16) then ignoreWrite s off
  else
    let s := setReg s off (log + 256 * b2n en)
    if !en then modRing s p i fun r => { r with restart := false }
    else if was then s
    else if partEn s p then
      if isReady s && ((part s p).st = .ready || (part s p).st = .draining) then
        (match blk.map doorbellOf with
         | some b => restartRing s p i (b.tails.getD i 0)
         | none => modRing (countEv s 0xD 4 p (some p) 1) p i fun r => { r with restart := true })
      else modRing s p i fun r => { r with restart := true }
    else modRing s p i fun r => { r with restart := r.stopped }

end Sys2Proof.Machine
end

