-- ==== Sys2Proof/Machine/Loads.lean ====
section
/-! DEFINITION. Load descriptors (R42, R43): the pieces of an object, staged, and the object made resident at its LAST
piece. One command per kind; passage batches (kind 0x09) stand with the passage store. -/

namespace Sys2Proof.Machine

/-! ### Fields of a load descriptor (R42) -/

def lLast (d : List Byte) : Bool := bit (dFlags d) 1
def lLen (d : List Byte) : Nat := u32 d 16
def lId (d : List Byte) : Nat := u16 d 20
def lTier (d : List Byte) : Nat := u8 d 22
def lOff (d : List Byte) : Nat := u64 d 24

/-- R42: the tiers a kind's descriptor may name; what depends on the image is judged at the LAST piece. -/
def tierAllowed (kind tier : Nat) : Bool :=
  if kind = 9 then tier == 2
  else if kind = 1 ∨ kind = 2 ∨ kind = 3 ∨ kind = 8 then tier ≤ 1
  else tier == 0

/-- R436, R262, R272, R92: the OBJECT_IDs a kind takes. -/
def idAllowed (kind id : Nat) : Bool :=
  if kind = 1 then id != 0xFFFF
  else if kind = 2 then id != 0
  else if kind = 5 then id ≤ 255
  else if kind = 10 then 1 ≤ id && id ≤ 0x7FFF
  else true

/-- R38, R42: a load descriptor in order. -/
def loadOk (d : List Byte) : Bool :=
  descCrcOk d && dFlags d < 4 && 1 ≤ lLen d && u8 d 23 == 0 && zeros d 32 60 && tierAllowed (dOp d) (lTier d)
    && idAllowed (dOp d) (lId d)

/-! ### Space (R43, R248, R263, R294, R318) -/

/-- What a tier has for objects and their pieces. -/
def tierRoom (s : State) (tier : Nat) : Nat :=
  if tier = 0 then hbmBytes s - hbmTaken s
  else if tier = 1 then boardBytes s - boardTaken s
  else psStageBytes s

/-- The bytes that pieces have covered, from the ranges taken. -/
def coverBytes (c : List (Nat × Nat)) : Nat := sumN (c.map fun r => r.2 - r.1)

/-- Add a range to rising, separate ranges. -/
def addCover (lo hi : Nat) : List (Nat × Nat) → List (Nat × Nat)
  | [] => [(lo, hi)]
  | (a, b) :: r =>
    if b < lo then (a, b) :: addCover lo hi r
    else if hi < a then (lo, hi) :: (a, b) :: r
    else addCover (min a lo) (max b hi) r

/-- The places the K4 takes for itself. -/
def ownPlace (p : Place) : Bool := match p.of with | .image _ => false | _ => true

/-- What objects, loads and, in HBM, the places the K4 takes for itself have of a tier. -/
def tierUsed (s : State) (tier : Nat) : Nat :=
  sumN ((s.obj.objs.filter fun o => o.tier == tier).map (·.size))
    + sumN ((s.obj.loads.filter fun l => l.tier == tier).map fun l => coverBytes l.cover)
    + (if tier = 0 then sumN ((s.obj.places.filter ownPlace).map (·.len)) else 0)

/-! ### Pieces (R43) -/

def loadOf (s : State) (kind id : Nat) : Option Load := s.obj.loads.find? fun l => l.kind == kind && l.id == id

def dropLoad (s : State) (kind id : Nat) : State :=
  { s with obj := { s.obj with loads := s.obj.loads.filter fun l => !(l.kind == kind && l.id == id) } }

def putLoad (s : State) (l : Load) : State :=
  let s := dropLoad s l.kind l.id
  { s with obj := { s.obj with loads := s.obj.loads ++ [l] } }

/-- Whether a taken descriptor is a piece of an object. -/
def pieceOf (kind id : Nat) (d : Taken) : Bool := isLoad kind d.bytes && lId d.bytes == id

/-- The pieces of an object taken before one and not started. -/
def earlierPieces (s : State) (p : Nat) (d : Taken) : List Taken :=
  ((part s p).taken.takeWhile fun x => x != d).filter (pieceOf (dOp d.bytes) (lId d.bytes))

/-- R43, After LAST: a LAST piece of its object was taken before it and has not completed. -/
def afterLast (s : State) (p : Nat) (d : Taken) : Bool := (earlierPieces s p d).any fun x => lLast x.bytes && loadOk x.bytes

/-- R43: the next piece of a kind that may start. The pieces of one object start in the order taken, so that where they
overlap the one taken later stands, and a LAST piece comes after all of them; one taken after a LAST piece waits for
nothing. -/
def nextPiece (s : State) (p kind : Nat) : Option Taken :=
  (part s p).taken.find? fun d =>
    isLoad kind d.bytes && fenceOk s p d && (afterLast s p d || (earlierPieces s p d).isEmpty)

/-- R43, After LAST: pieces of the object taken by then and not started complete BAD_DESCRIPTOR. -/
def refuseLater (s : State) (kind id : Nat) : State :=
  forEach s allParts fun s p =>
    forEach s ((part s p).taken.filter (pieceOf kind id)) fun s d => endTaken (dropTaken s p d) p d .badDescriptor

/-- What staging one piece answers: a status that ends it, or the load with the piece in it. -/
inductive Staged where
  | ended (s : State) (st : Status)
  | kept (s : State) (l : Load)
  deriving DecidableEq, Repr

/-- The load a piece belongs to: the one in progress, or a new one of its partition and tier. -/
def loadFor (s : State) (p : Nat) (d : List Byte) : Load :=
  (loadOf s (dOp d) (lId d)).getD ⟨dOp d, lId d, p, lTier d, 0, [], []⟩

/-- R38, R43: what refuses a piece before its bytes are read: the descriptor's form, a LAST piece ahead of it, a resident
object, another partition's load, another tier. Nothing else happens. -/
def pieceBad (s : State) (p : Nat) (d : Taken) : Bool :=
  let b := d.bytes
  !loadOk b || afterLast s p d
    || ((loadOf s (dOp b) (lId b)).isNone && (dOp b != 9 && (resident s (dOp b) (lId b)).isSome))
    || (loadFor s p b).part != p || (loadFor s p b).tier != lTier b

/-- R43: piece count, space; then the piece's bytes stand. -/
def stagePiece (s : State) (p : Nat) (d : List Byte) (data : HostRead) (room : Load → Option Status) : Staged :=
  let kind := dOp d
  let id := lId d
  let l := loadFor s p d
  if 65536 ≤ l.pieces then .ended (dropLoad s kind id) .limitExceeded
  else
    match data with
    | none => .ended (if lLast d then dropLoad s kind id else s) .dataError
    | some b =>
      let l := { l with pieces := l.pieces + 1, cover := addCover (lOff d) (lOff d + lLen d) l.cover,
                        bytes := l.bytes.write (lOff d) ((b ++ List.replicate (lLen d - b.length) 0).take (lLen d)) }
      match room l with
      | some st => .ended (dropLoad s kind id) st
      | none => .kept (putLoad s l) l

/-- R43: the pieces cover exactly the size that the LAST piece ends. -/
def coverOk (l : Load) (size : Nat) : Bool := l.cover == [(0, size)]

/-- R43 Space: a piece that does not fit in what is left of its tier. -/
def tierSpace (s : State) (l : Load) : Option Status :=
  if tierRoom s l.tier < tierUsed (dropLoad s l.kind l.id) l.tier + coverBytes l.cover then some .noResource else none

/-- R92: whether a context of this ID is resident. -/
def ctxResident (s : State) (id : Nat) : Bool := id == 0 || (resident s 10 id).isSome

/-- R226: bytes an object takes of its tier beside its image: 16 B of merge index per merge of a vocabulary. -/
def besideBytes : ObjBody → Nat
  | .vocab v => 16 * v.merges.length
  | _ => 0

/-- R173: the header and the codebook of a section that brings a table-build context. -/
def buildOf (s : State) (c : Checked) : Option (IndexHeader × List Byte) :=
  match c.body with
  | .index x => if c.ctx.isSome then (indexHeader s x.indexId).map fun h => (h.2, x.body) else none
  | _ => none

/-- R43: the object's image takes its place and stands in it. -/
def placeImage (s : State) (l : Load) (size : Nat) (c : Checked) : Option State :=
  (freePlace s l.tier (size + besideBytes c.body)).map fun a =>
    devWrite (takePlace s ⟨.image (s.obj.nextUid + 1), a, size + besideBytes c.body⟩) a (l.bytes.image 0 size)

/-- R173: at a codebook's LAST piece its table-build set is built, at a place of its own. Answers the context. -/
def placeBuildSet (s : State) (c : Checked) : Option (State × Option (Nat × ContextObj)) :=
  match buildOf s c with
  | none => some (s, c.ctx)
  | some (h, cb) =>
    (freePlace s 0 (buildSetBytes h)).map fun a =>
      (devWrite (takePlace s ⟨.buildSet (s.obj.nextUid + 1), a, buildSetBytes h⟩) a (setImage h cb),
       c.ctx.map fun x => (x.1, buildContext h a))

/-- R43, R92: make an object resident, with the context it carries, if there is a place for it. -/
def addObj (s : State) (l : Load) (size : Nat) (c : Checked) : Option State :=
  ((placeImage s l size c).bind fun s => placeBuildSet s c).map fun x =>
    let s := x.1
    let uid := s.obj.nextUid + 1
    let o : Obj := ⟨l.kind, l.id, l.tier, size + besideBytes c.body, uid, false, false, c.body⟩
    let carried := match x.2 with | some y => [⟨10, y.1, 0, 0, uid, false, false, .context y.2⟩] | none => []
    { s with
      obj := { s.obj with objs := s.obj.objs ++ o :: carried, nextUid := uid }
      feat := { s.feat with stale := if l.kind = 8 then s.feat.stale.filter (· != l.id) else s.feat.stale } }

/-- R43: the checks at the LAST piece; on success the object is resident. -/
def finishLoad (s : State) (l : Load) (size : Nat) (check : State → Nat → Nat → List Byte → Checked) : State × Status :=
  let s := dropLoad s l.kind l.id
  if !coverOk l size then (s, .dataError)
  else
    let c := check s l.id l.tier (l.bytes.image 0 size)
    if !c.v.crc then (s, .dataError)
    else if !c.tierOk then (s, .badDescriptor)
    else
      match c.v.status with
      | some st => (s, st)
      | none =>
        if tierRoom s l.tier < tierUsed s l.tier + size + besideBytes c.body then (s, .noResource)
        else if (match c.ctx with | some x => ctxResident s x.1 | none => false) then (s, .badDescriptor)
        else match addObj s l size c with
             | some s => (s, .ok)
             | none => (s, .noResource)

/-- R42, R43: one piece of an object of a kind. -/
def loadPiece (s : State) (p kind : Nat) (data : HostRead) (check : State → Nat → Nat → List Byte → Checked) : State :=
  match nextPiece s p kind with
  | none => s
  | some d =>
    if !isReady s then s
    else if pieceBad s p d then endTaken (dropTaken s p d) p d .badDescriptor
    else if !regOpen s p 4 (lLen d.bytes) then s
    else
      let s := charge (dropTaken s p d) p 4 (lLen d.bytes)
      match stagePiece s p d.bytes data (tierSpace s) with
      | .ended s st => refuseIf (lLast d.bytes) (endTaken s p d st) kind (lId d.bytes)
      | .kept s l =>
        if lLast d.bytes then
          let (s, st) := finishLoad s l (lOff d.bytes + lLen d.bytes) check
          refuseLater (endTaken s p d st) kind (lId d.bytes)
        else endTaken s p d .ok
where
  /-- Pieces taken after a LAST piece and before its completion are refused whatever ended the load. -/
  refuseIf (b : Bool) (s : State) (kind id : Nat) : State := if b then refuseLater s kind id else s

/-! ### The commands -/

/-- LOAD_MODEL (R436). -/
def execLoadModel (p : Nat) (data : HostRead) (s : State) : Host.Outcome State Fault Refusal :=
  .next (loadPiece s p 1 data checkModel)

/-- LOAD_VARIANT (R262). -/
def execLoadVariant (p : Nat) (data : HostRead) (s : State) : Host.Outcome State Fault Refusal :=
  .next (loadPiece s p 2 data checkVariant)

/-- LOAD_INDEX_SECTION (R164). -/
def execLoadIndexSection (p : Nat) (data : HostRead) (s : State) : Host.Outcome State Fault Refusal :=
  .next (loadPiece s p 3 data checkIndex)

/-- LOAD_ARC_OBJECT (R149). -/
def execLoadArcObject (p : Nat) (data : HostRead) (s : State) : Host.Outcome State Fault Refusal :=
  .next (loadPiece s p 4 data checkArc)

/-- LOAD_GRAMMAR (R274). -/
def execLoadGrammar (p : Nat) (data : HostRead) (s : State) : Host.Outcome State Fault Refusal :=
  .next (loadPiece s p 5 data checkGrammar)

/-- LOAD_VOCABULARY (R226). -/
def execLoadVocabulary (p : Nat) (data : HostRead) (s : State) : Host.Outcome State Fault Refusal :=
  .next (loadPiece s p 6 data checkVocab)

/-- LOAD_TEMPLATE (R236). -/
def execLoadTemplate (p : Nat) (data : HostRead) (s : State) : Host.Outcome State Fault Refusal :=
  .next (loadPiece s p 7 data checkTemplate)

/-- LOAD_FEATURE_OBJECT (R211). -/
def execLoadFeatureObject (p : Nat) (data : HostRead) (s : State) : Host.Outcome State Fault Refusal :=
  .next (loadPiece s p 8 data checkFeature)

/-- LOAD_CONTEXT (R92). A context of an ID already resident, carried ones included, is refused at the piece. -/
def execLoadContext (p : Nat) (data : HostRead) (s : State) : Host.Outcome State Fault Refusal :=
  .next (loadPiece s p 10 data checkContext)

end Sys2Proof.Machine
end

