-- ==== Sys2Proof/Machine/Residency.lean ====
section
/-! DEFINITION. Admission check 2 (R67): the objects a request's stages use, and the request profile that names them
(R45, R170, R199, R208, R232, R254). -/

namespace Sys2Proof.Machine

/-! ### What is resident -/

/-- Every element, if none is missing. -/
def allSome {α : Type} : List (Option α) → Option (List α)
  | [] => some []
  | none :: _ => none
  | some x :: r => (allSome r).map fun l => x :: l

/-- R164: a resident section of a type and an index. -/
def sectionOf (s : State) (id sec index : Nat) : Option Obj :=
  match resident s 3 id with
  | some o =>
    (match secOf o with
     | some x => if x.sec = sec ∧ x.indexId = index then some o else none
     | none => none)
  | none => none

/-- R164: the sections an index header names, by type. -/
def namedSections (h : IndexHeader) : List (Nat × Nat) :=
  [(h.graphObj, 2), (h.codebookObj, 3), (h.codesObj, 4), (h.sketchObj, 5), (h.vectorsObj, 6), (h.attrObj, 7)].filter
    fun x => x.1 != 0

/-- R164: a resident index: its header and every section the header names. -/
def indexNeeds (s : State) (id : Nat) : Option (List Obj) :=
  match indexHeader s id with
  | none => none
  | some (o, h) => (allSome ((namedSections h).map fun x => sectionOf s x.1 x.2 id)).map fun l => o :: l

/-- R168: a filter of the index, and its bitmap section if it names one. -/
def filterNeeds (s : State) (id index : Nat) : Option (List Obj) :=
  if id = 0 then some []
  else
    match sectionOf s id 9 index with
    | none => none
    | some o =>
      match secOf o with
      | none => none
      | some x =>
        if x.bitmapObj = 0 then some [o] else (sectionOf s x.bitmapObj 8 index).map fun b => [o, b]

/-- R212: a feature set. -/
def featSetOf (s : State) (id : Nat) : Option (Obj × List Lookup) :=
  (resident s 8 id).bind fun o => match o.body with | .featSet l => some (o, l) | _ => none

/-- R209: a feature table. -/
def featTableOf (s : State) (id : Nat) : Option (Obj × FeatTable) :=
  (resident s 8 id).bind fun o => match o.body with | .featTable t => some (o, t) | _ => none

/-- R212: a feature set with every table it names. -/
def featNeeds (s : State) (id : Nat) : Option (List Obj) :=
  if id = 0 then some []
  else
    match featSetOf s id with
    | none => none
    | some (o, l) => (allSome (l.map fun k => (featTableOf s k.table).map (·.1))).map fun ts => o :: ts

/-- R235: a template. -/
def templateOf (s : State) (id : Nat) : Option (Obj × TemplateObj) :=
  if id = 0xFFFF then none
  else (resident s 7 id).bind fun o => match o.body with | .template t => some (o, t) | _ => none

/-- R262: a variant. -/
def variantOf (s : State) (id : Nat) : Option (Obj × VariantObj) :=
  (resident s 2 id).bind fun o => match o.body with | .variant v => some (o, v) | _ => none

/-- R272: a grammar. -/
def grammarOf (s : State) (id : Nat) : Option (Obj × GrammarObj) :=
  (resident s 5 id).bind fun o => match o.body with | .grammar g => some (o, g) | _ => none

/-- R265: a generator with a prefill stream for this device's group size. -/
def generatorNeeds (s : State) (id : Nat) : Option Obj :=
  if id = 0xFFFF then none
  else
    match residentModel s id 2 with
    | some (o, m) => if m.streams.contains (3, (groupOf s).length) then some o else none
    | none => none

/-- R262: a variant bound to the model object that is resident now. -/
def variantBound (s : State) (id model : Nat) : Option Obj :=
  match variantOf s id, resident s 1 model with
  | some (o, v), some m => if v.base = model ∧ v.baseUid = m.uid then some o else none
  | _, _ => none

/-- R263: a variant in HBM. -/
def variantNeeds (s : State) (id model : Nat) : Option (List Obj) :=
  if id = 0 then some []
  else (variantBound s id model).bind fun o => if o.tier = 0 ∨ o.hbmCopy then some [o] else none

/-- R274: a grammar of the profile's generation vocabulary. -/
def grammarNeeds (s : State) (g : Option Nat) (vocab : Nat) : Option (List Obj) :=
  match g with
  | none => some []
  | some id => (grammarOf s id).bind fun x => if x.2.vocabId = vocab then some [x.1] else none

def one (o : Option Obj) : Option (List Obj) := o.map fun x => [x]

/-- R67 check 2: the numbers of every object the stages up to LAST_STAGE use, if all are resident. -/
def requestNeeds (s : State) (d : List Byte) (p : Profile) : Option (List Nat) :=
  let last := dLast d
  let search := [one ((residentModel s p.embModel 0).map (·.1)), indexNeeds s p.indexId, filterNeeds s (dFilter d) p.indexId,
                 one ((vocabOf s p.retVocab).map (·.1))]
  let rerank := [one (if p.ceModel = 0xFFFF then none else (residentModel s p.ceModel 1).map (·.1)),
                 one ((templateOf s p.pairTemplate).map (·.1)), featNeeds s p.featSet]
  let pack := [one ((vocabOf s (genVocabId p)).map (·.1)), one ((templateOf s p.promptTemplate).map (·.1))]
  let gen := [one (generatorNeeds s p.genModel), variantNeeds s (dVariant d) p.genModel,
              grammarNeeds s (dGrammar d) (genVocabId p)]
  (allSome (search ++ (if 1 ≤ last then rerank else []) ++ (if 2 ≤ last then pack else [])
      ++ (if 3 ≤ last then gen else []))).map fun l => l.flatten.map (·.uid)

/-! ### Copies of variants into the HBM variant area (R263) -/

/-- Whether a live request, of this device or one it works for, names an object. -/
def liveNames (s : State) (uid : Nat) : Bool :=
  (s.lb.work.any fun w => w.2.refs.contains uid) || (s.gen.seqs.any fun q => q.refs.contains uid)
    || s.gen.jobs.any fun j => j.refs.contains uid

/-- Bytes of the variant area in use: copies made and copies in progress. -/
def areaUsed (s : State) : Nat :=
  sumN ((s.obj.objs.filter fun o => o.kind == 2 && (o.hbmCopy || s.gen.copies.contains o.uid)).map (·.size))

/-- The least recently used HBM copy that no live request names loses its place. -/
def dropCopies (s : State) (need : Nat) : List Nat → State
  | [] => s
  | u :: us =>
    if areaUsed s + need ≤ variantArea s then s
    else if liveNames s u then dropCopies s need us
    else
      dropCopies { s with
        obj := { s.obj with objs := s.obj.objs.map fun o => if o.uid = u then { o with hbmCopy := false } else o }
        gen := { s.gen with lru := s.gen.lru.filter (· != u) } } need us

/-- R263: a request that names a variant resident only in board memory starts its copy, once. -/
def startCopy (s : State) (o : Obj) : State :=
  if s.gen.copies.contains o.uid then s
  else
    let s' := dropCopies s o.size s.gen.lru
    if areaUsed s' + o.size ≤ variantArea s' then { s' with gen := { s'.gen with copies := s'.gen.copies ++ [o.uid] } }
    else countEv s 7 10 0 none 1

/-- R263: what check 2 does besides: the copy it starts. -/
def wantVariant (s : State) (d : List Byte) (p : Profile) : State :=
  if dLast d = 3 ∧ dVariant d ≠ 0 then
    match variantBound s (dVariant d) p.genModel with
    | some o => if o.tier = 0 ∨ o.hbmCopy then s else startCopy s o
    | none => s
  else s

/-- R263: an admitted request makes its variant the most recently used. -/
def touchVariant (s : State) (uids : List Nat) : State :=
  let hit := s.gen.lru.filter fun u => uids.contains u
  { s with gen := { s.gen with lru := s.gen.lru.filter (fun u => !uids.contains u) ++ hit } }

/-- VARIANT_HBM_COPY (R263): the copy of a variant is complete. -/
def execVariantHbmCopy (id : Nat) (s : State) : Host.Outcome State Fault Refusal :=
  match s.obj.objs.find? fun o => o.kind == 2 && o.id == id && s.gen.copies.contains o.uid with
  | none => .next s
  | some o =>
    .next { s with
      obj := { s.obj with objs := s.obj.objs.map fun x => if x.uid = o.uid then { x with hbmCopy := true } else x }
      gen := { s.gen with copies := s.gen.copies.filter (· != o.uid), lru := s.gen.lru ++ [o.uid] } }

/-! ### SET_PROFILE (R45) -/

/-- The profile a record spells. -/
def profileOf (b : List Byte) : Profile :=
  { id := u16 b 0, embModel := u16 b 4, indexId := u16 b 0x40, shardK := u16 b 0x42, ef := u16 b 0x44,
    evalMax := u16 b 0x46, pfDepth := u8 b 0x48, rerankN := u16 b 0x4A, rerankUs := u32 b 0x4C, tableWaitUs := u32 b 0x50,
    mergeUs := u32 b 0x60, minShards := u8 b 0x64, ceModel := u16 b 0x70, ceCands := u16 b 0x72, cePairLen := u16 b 0x74,
    featSet := u16 b 0x76, featUs := u16 b 0x78, featStride := u16 b 0x7A, featAddr := u32 b 0x7C,
    retVocab := u16 b 0x80, genVocab := u16 b 0x82, promptTemplate := u16 b 0x84, pairTemplate := u16 b 0x86,
    budget := u16 b 0x88, queryMax := u16 b 0x8A, minFragment := u16 b 0x8C, packFill := u8 b 0x8E == 1,
    packMax := u16 b 0x90, passageMax := u16 b 0x92, fetchUs := u32 b 0x94, genModel := u16 b 0xA0,
    prefixMode := u8 b 0xA2, prefixUs := u32 b 0xA4 }

def inRange (a b v : Nat) : Bool := decide (a ≤ v) && decide (v ≤ b)

/-- R208, R288: FEAT_OUT_ADDR lies in the tile store, and with a feature head so do the rows of every candidate. -/
def featRows (p : Profile) : Bool :=
  decide (p.featAddr < tileBytes) && (p.featSet == 0 || decide (p.featAddr + p.ceCands * p.featStride ≤ tileBytes))

/-- R45, R170, R199, R208, R232, R254: bytes and ranges. -/
def profileForm (b : List Byte) : Bool :=
  let p := profileOf b
  b.length == 256 && crcTailOk b && p.id ≤ 1023 && u8 b 2 == 1 && u8 b 3 == 0 && zeros b 0x06 0x40 && u8 b 0x49 == 0
    && zeros b 0x54 0x60 && zeros b 0x65 0x70 && u8 b 0x8F == 0 && zeros b 0x98 0xA0 && u8 b 0xA3 == 0 && zeros b 0xA8 0xFC
    && inRange 1 1024 p.shardK && inRange 16 1024 p.ef && 64 ≤ p.evalMax && inRange 1 16 p.pfDepth
    && (p.rerankN == 0 || inRange p.shardK 1024 p.rerankN) && inRange 1 10000 p.rerankUs && p.tableWaitUs ≤ 1000
    && inRange 100 100000 p.mergeUs && p.minShards ≤ 64
    && inRange 1 1024 p.ceCands && inRange 16 512 p.cePairLen && inRange 1 10000 p.featUs
    && inRange 64 16384 p.featStride && p.featStride % 64 == 0 && featRows p
    && 64 ≤ p.budget && inRange 1 8192 p.queryMax && 1 ≤ p.minFragment && u8 b 0x8E ≤ 1 && inRange 1 1024 p.packMax
    && inRange 256 32768 p.passageMax && inRange 1 100000 p.fetchUs && p.prefixMode ≤ 2 && inRange 1 10000 p.prefixUs

/-- R237: F: the tokens a pair template adds. -/
def pairF (t : TemplateObj) : Nat := t.pairHead.length + t.pairSep.length + t.pairTail.length

/-- R45: every object a field names is resident, and consistent wherever a rule says so. -/
def profileRefs (s : State) (p : Profile) : Bool :=
  (match residentModel s p.embModel 0, indexHeader s p.indexId, indexNeeds s p.indexId with
   | some (_, m), some (_, h), some _ => m.outDim == h.dim && (h.sketchBits == 0 || decide (p.shardK ≤ p.rerankN))
   | _, _, _ => false)
    && (p.ceModel == 0xFFFF || (residentModel s p.ceModel 1).isSome)
    && (p.featSet == 0 || (featSetOf s p.featSet).isSome)
    && (vocabOf s p.retVocab).isSome && (p.genVocab == 0 || (vocabOf s p.genVocab).isSome)
    && (p.promptTemplate == 0xFFFF ||
        match templateOf s p.promptTemplate with
        | some (_, t) => t.vocabId == genVocabId p && !t.segs.isEmpty
        | none => false)
    && (p.pairTemplate == 0xFFFF ||
        match templateOf s p.pairTemplate with
        | some (_, t) => t.vocabId == p.retVocab && decide (pairF t + 2 ≤ p.cePairLen)
        | none => false)
    && (p.genModel == 0xFFFF || (residentModel s p.genModel 2).isSome)

/-- SET_PROFILE (R45): a valid record defines its profile. R58: a failed read of the record completes DATA_ERROR. -/
def execSetProfile (p : Nat) (rec : HostRead) (s : State) : Host.Outcome State Fault Refusal :=
  match nextTaken s p (isAdmin 3) with
  | none => .next s
  | some d =>
    if !isReady s then .next s
    else
      let s := dropTaken s p d
      if !(adminOk d.bytes && zeros d.bytes 8 16) then .next (endTaken s p d .badDescriptor)
      else
        match rec with
        | none => .next (endTaken s p d .dataError)
        | some b =>
          let q := profileOf b
          if profileForm b && profileRefs s q then
            .next (endTaken { s with obj := { s.obj with profiles := tset none s.obj.profiles q.id (some q) } } p d .ok)
          else .next (endTaken s p d .badDescriptor)

end Sys2Proof.Machine
end

