-- ==== Sys2Proof/Machine/HostRings.lean ====
section
/-! DEFINITION. The commands of the host port: doorbell reads and submission rings, NOP, EVICT, the heartbeat and the
end of a completion's write (R30-R58, R60, R65, R91). -/

namespace Sys2Proof.Machine

/-- DOORBELL_READ (R34, R35): due at the end of the partition's interval, on a READY device, while the partition reads
READY or DRAINING (R55, R84). -/
def execDoorbellRead (p t : Nat) (blk : HostRead) (ds : List DescBytes) (s : State) :
    Host.Outcome State Fault Refusal :=
  let s' := tick s t
  if isReady s' && ((part s' p).st = .ready || (part s' p).st = .draining) && decide ((part s' p).nextPoll ≤ s'.now)
  then .next (doorbell s' p blk ds)
  else .next s

/-- SQ_ENABLE (R36): a write that sets SQ_EN. -/
def execSqEnable (p i : Nat) (v : W32) (t : Nat) (blk : HostRead) (s : State) :
    Host.Outcome State Fault Refusal :=
  let s := tick s t
  if s.boot.fw then .next (writeSqCfg s p i v.toNat true blk) else .next s

/-- SQ_DISABLE (R36): a write that clears SQ_EN: the ring is no longer read, with no event. -/
def execSqDisable (p i : Nat) (v : W32) (s : State) : Host.Outcome State Fault Refusal :=
  if s.boot.fw then .next (writeSqCfg s p i v.toNat false none) else .next s

/-- NOP (R44): completes without other effect. -/
def execNop (p : Nat) (s : State) : Host.Outcome State Fault Refusal :=
  match nextTaken s p (isAdmin 4) with
  | none => .next s
  | some d =>
    if !isReady s then .next s
    else .next (endTaken (dropTaken s p d) p d (if adminOk d.bytes && zeros d.bytes 8 24 then .ok else .badDescriptor))

/-- R91: the object is unusable to new requests from now on, and with it the context it carries (R92), which has its
number. -/
def evictObj (s : State) (kind id : Nat) : State :=
  let uids := (s.obj.objs.filter fun o => o.kind == kind && o.id == id).map (·.uid)
  { s with obj := { s.obj with
      objs := s.obj.objs.map fun o => if uids.contains o.uid then { o with evicted := true } else o } }

/-- R43: a load in progress is discarded and its staged bytes freed. -/
def discardLoad (s : State) (kind id : Nat) : State :=
  { s with obj := { s.obj with loads := s.obj.loads.filter fun l => !(l.kind == kind && l.id == id) } }

/-- EVICT (R44, R91): of an object neither resident nor loading, the spec names no status: a free one. -/
def execEvict (p : Nat) (s : State) : Host.Outcome State Fault Refusal :=
  match nextTaken s p (isAdmin 2) with
  | none => .next s
  | some d =>
    if !isReady s then .next s
    else
      let b := d.bytes
      let kind := u16 b 8
      let id := u16 b 10
      let s := dropTaken s p d
      if !(adminOk b && u32 b 12 == 0 && u64 b 16 == 0 && 1 ≤ kind && kind ≤ 10) then .next (endTaken s p d .badDescriptor)
      else if (resident s kind id).isSome || s.obj.loads.any fun l => l.kind == kind && l.id == id then
        .next (endTaken (discardLoad (evictObj s kind id) kind id) p d .ok)
      else .next (endTaken (drawn s) p d (freeStatus (draw s)))

/-- R91: what still refers to an object: live requests, queries and sequences by its number, and operations queued or
issued whose context is the object, or names it (R92). -/
def contextNames (c : ContextObj) (o : Obj) : Bool :=
  (o.kind == 4 && (c.tables.contains o.id || c.programs.contains o.id)) || (o.kind == 5 && c.grammars.contains o.id)

def opRefs (s : State) (o : Obj) (ctx : Nat) : Bool :=
  (o.kind == 10 && o.id == ctx) || (match ctxOf s ctx with | some c => contextNames c o | none => false)

/-- R104, R218: a step not yet complete names an object: the context of any step (bytes 54-55), a feature update's
table. -/
def stepRefs (s : State) (o : Obj) (b : List Byte) : Bool :=
  opRefs s o (u16 b 54) || (u8 b 0 == 4 && o.kind == 8 && o.id == u16 b 4)

/-- How many requests, reservations, queries, sequences and operations refer to an object. -/
def refCount (s : State) (o : Obj) : Nat :=
  (s.lb.work.filter fun w => w.2.refs.contains o.uid).length
    + (s.gen.tables.filter fun t => t.2.refs.contains o.uid).length
    + (s.compass.recs.filter fun r => r.uid == o.uid).length
    + (s.bearing.queries.filter fun q => q.refs.contains o.uid).length
    + (s.gen.seqs.filter fun q => q.refs.contains o.uid).length
    + (s.gen.jobs.filter fun j => j.refs.contains o.uid).length
    + ((s.helm.queue ++ helmOps s).filter fun a => opRefs s o a.ctx).length
    + sumN (s.streams.map fun e => match e.2 with
        | some x => if x.ended.isNone then ((x.steps.drop x.next).filter (stepRefs s o)).length else 0
        | none => 0)

def referred (s : State) (o : Obj) : Bool := refCount s o != 0

/-- OBJECT_MEMORY_FREE (R91): once nothing live or queued refers to an evicted object, or to the context it carries. -/
def execObjectMemoryFree (kind id : Nat) (s : State) : Host.Outcome State Fault Refusal :=
  let gone := fun u => s.obj.objs.all fun o => o.uid != u || (o.evicted && !referred s o)
  let uids := ((s.obj.objs.filter fun o => o.kind == kind && o.id == id).map (·.uid)).filter gone
  .next { s with obj := { s.obj with
    objs := s.obj.objs.filter fun o => !uids.contains o.uid
    places := s.obj.places.filter fun p => match p.of with
      | .image u | .buildSet u => !uids.contains u
      | .prompt _ => true } }

/-- R60: the generation after the last wraps to 1. -/
def nextGen (g : Nat) : Nat := if g = 2 ^ 26 - 1 then 1 else g + 1

/-- R60, R63: the entry returns to FREE: generation incremented, the slot freed after those freed before it, and the
request's record, block table, reservation and pins released (R250, R261). -/
def freeSlot (s : State) (slot : Nat) (h : Handle) : State :=
  let s := match work s slot with
    | some w => forEach s w.pins fun s x => unpin s x.1 x.2.1 x.2.2
    | none => s
  let kv := (entry s slot).kvDev
  let s := if (entry s slot).lastStage = 3 ∧ kv ≠ devno s then sendMsg s kv h.part (.released h) else s
  let s := dropPlace (releaseGen (stopWork s h) h) (.prompt slot)
  { s with lb := { s.lb with
      entries := tset Entry.freeEntry s.lb.entries slot { Entry.freeEntry with gen := nextGen (entry s slot).gen }
      work := s.lb.work.filter fun e => e.1 != slot
      freed := s.lb.freed ++ [slot] } }

/-- COMPLETION_RECORD_WRITTEN (R65): the record is in host memory; the entry returns to FREE, and ABORTs that waited on
the request complete after it (R46, R81). -/
def execCompletionRecordWritten (slot : Nat) (s : State) : Host.Outcome State Fault Refusal :=
  match work s slot with
  | none => .next s
  | some w =>
    match w.commit with
    | none => .next s
    | some c =>
      if (entry s slot).st ≠ .committing ∨ w.commitHeld then .next s
      else if (part s w.handle.part).cqWait.any fun r => r.n == c.slot then .next s
      else
        let s := freeSlot (setSt s slot .free) slot w.handle
        .next (forEach s w.aborts fun s a =>
          completeDesc s w.handle.part a.sq a.count a.tag 0 (if a.ok then .ok else .alreadyComplete))

/-- DSB_HEARTBEAT (R53, R54): every 1 ms while Astrolabe runs, in every STATE; R388: not written for 3 ms, FAULTED. -/
def execDsbHeartbeat (t : Nat) (written : Bool) (s : State) : Host.Outcome State Fault Refusal :=
  let s := tick s t
  if !s.boot.fw || s.now < s.host.hbTime + 1000000 then .next s
  else
    let s1 := { s with host := { s.host with heartbeat := (s.host.heartbeat + 1) % 2 ^ 64, hbTime := s.now } }
    if !dsbOn s then .next { s1 with host := { s1.host with hbLastOk := s.now } }
    else if written then
      .next (dsbHeart { s1 with host := { s1.host with hbLastOk := s.now } })
    else if s.host.hbLastOk + 3000000 ≤ s.now then .next (enterFaulted s1 1 2)
    else .next s1

end Sys2Proof.Machine
end

