-- ==== Sys2Proof/Machine/DevMem.lean ====
section
/-! DEFINITION. Device memory (R288): reads and writes with the board write-back cache (R294), the dirty words of the
loaded context (R90), and the context swap itself (R90, R92, R285). -/

namespace Sys2Proof.Machine

/-- FP32 codes from an address. -/
def readF32 (s : State) (a n : Nat) : List Nat := (List.range n).map fun i => u32 (s.mem.read (a + 4 * i) 4) 0

/-- FP32 codes as bytes. -/
def f32Bytes (l : List Nat) : List Byte := l.flatMap (le 4)

/-! ### The grammar cache (R285) -/

/-- R272: BITMAP_BYTES. -/
def bitmapBytes (g : GrammarObj) : Nat := alignUp (cdiv g.vocabSize 8) 64

/-- R273: the image lines of a state record, of a bitmap, and of a state's context-dependent records. -/
def stateLine (st : Nat) : Nat := (64 + 32 * st) / 64
def bitmapLines (g : GrammarObj) (b : Nat) : List Nat :=
  linesOf (64 + 32 * g.states.length + b * bitmapBytes g) (bitmapBytes g)
def cdLines (g : GrammarObj) (st : GState) : List Nat :=
  linesOf (64 + 32 * g.states.length + g.bitmaps.length * bitmapBytes g + 16 * st.cdFirst) (16 * st.cdCount)

/-- R285: a look-up: a line held is the most recently used; one that is not fills, over the least recently used when all 8
MiB are held. Which line goes, and when a line ages, the spec does not say (DESIGN CHOICE, assumption log 85). -/
def touchGLine (c : List (Nat × Nat)) (x : Nat × Nat) : List (Nat × Nat) :=
  let rest := c.filter fun y => y != x
  (if rest.length < 131072 then rest else rest.drop 1) ++ [x]

/-- R285: what a swap preloads for a grammar: the START record and its bitmaps. -/
def startLines (g : GrammarObj) : List Nat :=
  let st := g.states.getD g.start ⟨0, 0, 0, 0, 0⟩
  [stateLine g.start] ++ bitmapLines g st.bitmap ++ bitmapLines g st.full

/-- R285: the cache after a swap to a context that names these grammars. -/
def preloaded (s : State) (ids : List Nat) : List (Nat × Nat) :=
  (ids.flatMap fun id => match resident s 5 id with
    | some o => (match o.body with | .grammar g => (startLines g).map fun l => (o.uid, l) | _ => [])
    | none => []).foldl touchGLine []

/-! ### Context swap (R90, R92, R285) -/

/-- The HBM address of a 64-byte word of a context. -/
def wordHome (c : ContextObj) (w : Nat) : Option Nat :=
  (c.ranges.find? fun r => decide (r.2.1 ≤ 64 * w) && decide (64 * w < r.2.1 + r.2.2)).map fun r => r.1 + (64 * w - r.2.1)

/-- R90: every dirty word of the loaded context goes back to its HBM address. -/
def writeBackDirty (s : State) : State :=
  match ctxOf s s.helm.ctx with
  | none => s
  | some c => forEach s s.helm.dirty fun s w => match wordHome c w with | some a => devCopy s (64 * w) a 64 | none => s

/-- R92: the incoming context's ranges are read from HBM. -/
def readRanges (s : State) (c : ContextObj) : State := forEach s c.ranges fun s r => devCopy s r.1 r.2.1 r.2.2

/-- R297: whether a context's set cannot be read. -/
def ctxBad (s : State) (ctx : Nat) : Bool :=
  match ctxOf s ctx with
  | some c => c.ranges.any fun r => poisoned s r.1 r.2.2
  | none => false

/-- R208, R213: a request's feature rows are written to its head's context once that is loaded. -/
def flushFeatRows (s : State) : State :=
  forEach s s.lb.work fun s e =>
    if e.2.featRows.isEmpty || e.2.featCtx != s.helm.ctx then s
    else modWork (forEach s e.2.featRows fun s r => devWrite s r.1 r.2) e.1 fun w => { w with featRows := [] }

/-- R90, R285: swap to a context: dirty words back, ranges in, the grammar cache invalidated and preloaded. -/
def swapTo (s : State) (ctx : Nat) : State :=
  let s := writeBackDirty s
  let c := (ctxOf s ctx).getD ⟨[], [], [], []⟩
  let s := readRanges s c
  flushFeatRows { s with
    helm := { s.helm with ctx := ctx, dirty := [] }
    compass := { s.compass with cache := preloaded s c.grammars } }

/-- R90, R297: a swap to a context whose set cannot be read: the words of the outgoing one go back, and the empty context is
loaded (assumption log 86). -/
def swapOut (s : State) : State := swapTo s 0

end Sys2Proof.Machine
end

