-- ==== Sys2Proof/Machine/Streams.lean ====
section
/-! DEFINITION. Operation streams (R41, R105, R109), waypoints (R95-R99, R438) and what every step kind shares: its
place at the head of the stream, its checks, its end. -/

namespace Sys2Proof.Machine

/-! ### Fields of an operation descriptor (R41) -/

def oAddr (d : List Byte) : Nat := u64 d 8
def oLen (d : List Byte) : Nat := u32 d 16
def oWaitEn (d : List Byte) : Bool := bit (dFlags d) 1
def oSignalEn (d : List Byte) : Bool := bit (dFlags d) 2
def oWaitWp (d : List Byte) : Nat := u16 d 20
def oSignalWp (d : List Byte) : Nat := u16 d 22
def oWaitVal (d : List Byte) : Nat := u32 d 24
def oSignalInc (d : List Byte) : Nat := u32 d 28
def oArgLen (d : List Byte) : Nat := u32 d 40

/-- R95: a waypoint in the partition's range. -/
def wpOwned (s : State) (p w : Nat) : Bool := decide (wpBase s p ≤ w) && decide (w < wpBase s p + wpCount s p)

/-- R38, R41, R95, R288: an operation descriptor in order. -/
def streamOk (s : State) (p : Nat) (d : List Byte) : Bool :=
  descCrcOk d && dFlags d < 8 && dOp d == 1 && oAddr d % 256 == 0 && oLen d % 64 == 0 && oLen d ≤ 2 ^ 24
    && inWindow s (oAddr d) (oLen d) && (!oWaitEn d || wpOwned s p (oWaitWp d)) && (!oSignalEn d || wpOwned s p (oSignalWp d))
    && oArgLen d ≤ 65536 && u8 d 44 < 4 && zeros d 45 60

/-! ### Counters and waits (R96, R97) -/

def wpVal (s : State) (w : Nat) : W32 := tget 0 s.wp.count w

/-- R96: the wait for v is satisfied. -/
def wpMet (s : State) (w v : Nat) : Bool := decide (0 ≤ ((wpVal s w) - BitVec.ofNat 32 v).toInt)

/-- R96: a signal adds its increment modulo 2^32. -/
def wpAdd (s : State) (w inc : Nat) : State :=
  { s with wp := { s.wp with count := tmod 0 s.wp.count w fun c => c + BitVec.ofNat 32 inc } }

def addWait (s : State) (w : Wait) : State :=
  countEv { s with wp := { s.wp with waits := s.wp.waits ++ [w] } } 0xB 2 w.part (some w.part) 1

/-! ### Streams -/

def stream (s : State) (sid : Nat) : Option Stream := tget none s.streams sid

def modStream (s : State) (sid : Nat) (f : Stream → Stream) : State :=
  { s with streams := tmod none s.streams sid fun x => x.map f }

def stepKind (b : List Byte) : Nat := u8 b 0
def waitBack (b : List Byte) : Nat := u8 b 3

/-- R109: how many steps from the stream's start must be complete before step i starts. -/
def waitLimit (i d : Nat) : Nat := if d = 0 then 0 else if i < d then i else i + 1 - d

/-- R109: the WAIT_BACK condition of step i. -/
def waitMet (st : Stream) (i : Nat) : Bool :=
  (List.range (waitLimit i (waitBack (st.steps.getD i [])))).all fun j => st.done.contains j

/-- R104: the six step kinds. -/
def kindOk (b : List Byte) : Bool := 1 ≤ stepKind b && stepKind b ≤ 6

/-- R41, R37: a stream has completed. A descriptor's completes its descriptor, and a success signals its waypoint; one that
was generated for requests ends them with its code where that is an error (R105, R118). -/
def endStream (s : State) (sid : Nat) (x : Stream) (st : Status) : State :=
  let s := dropStream s sid
  match x.req with
  | some r => if st.isSuccess then s else forEach s r.hs fun s h => failHandle s h.1 st
  | none =>
    let s := completeDesc s x.part x.sq x.count x.tag 0 st
    match x.signal with
    | some (w, inc) => if st.isSuccess then wpAdd s w inc else s
    | none => s

/-- R105, R118: whether a stream has come to its end, and with which code: all steps complete, an error with nothing of
it left in the array, or a step of no known kind at its head. -/
def tryEnd (s : State) (sid : Nat) : State :=
  match stream s sid with
  | none => s
  | some x =>
    if inArray s sid then s
    else
      match x.ended with
      | some st => endStream s sid x st
      | none =>
        if x.next = x.steps.length then (if x.done.length = x.steps.length then endStream s sid x .ok else s)
        else if kindOk (x.steps.getD x.next []) then s
        else endStream s sid x .badDescriptor

/-- R105: the stream ends with a code; operations already issued stand, and none after it runs. The requests of a stream
generated for them end at once (R21), and leave it. -/
def failStream (s : State) (sid : Nat) (st : Status) : State :=
  let s := modStream s sid fun x => { x with ended := some (x.ended.getD st) }
  match (stream s sid).bind (·.req) with
  | some r => tryEnd (forEach s r.hs fun s h => failHandle s h.1 st) sid
  | none => tryEnd s sid

/-- Start a stream: its steps as they stand in device memory. R41: an empty stream reads nothing and completes at once. -/
def startStream (s : State) (p sq count tag : Nat) (d arg : List Byte) (rank : Rank) : State :=
  let sid := s.nextSid
  let steps := chunks 64 (oLen d / 64) (s.mem.read (oAddr d) (oLen d))
  let x : Stream :=
    { req := none, part := p, sq := sq, count := count, tag := tag, rank := rank,
      signal := if oSignalEn d then some (oSignalWp d, oSignalInc d) else none,
      steps := steps, next := 0, done := [], ended := none, arg := arg }
  let s := { s with nextSid := sid + 1, streams := tset none s.streams sid (some x) }
  if poisoned s (oAddr d) (oLen d) then failStream s sid .dataError else tryEnd s sid

/-- Steps 0 to n−1 have started; step i is complete. -/
def stepDone (s : State) (sid i : Nat) : State := tryEnd (modStream s sid fun x => { x with done := insertNat i x.done }) sid

/-- A wait whose condition holds: its descriptor's stream starts, or its step completes. -/
def releaseWait (s : State) (w : Wait) : State :=
  let s := { s with wp := { s.wp with waits := s.wp.waits.erase w } }
  match w.who with
  | .desc sq count tag d arg rank => startStream s w.part sq count tag d arg rank
  | .step sid i => stepDone s sid i

/-- R96, R97: every wait that now holds is satisfied; what it starts may signal again. -/
def settle (s : State) : Nat → State
  | 0 => s
  | n + 1 =>
    match s.wp.waits.find? fun w => wpMet s w.wp w.value with
    | none => s
    | some w => settle (releaseWait s w) n

/-- Apply what signals of this step have made true. -/
def settled (s : State) : State := settle s s.wp.waits.length

/-! ### The step at the head of a stream -/

/-- The stream's head step, if it is of this kind. -/
def headOf (s : State) (sid kind : Nat) : Option (Stream × List Byte) :=
  match stream s sid with
  | none => none
  | some x =>
    if x.ended.isSome then none
    else
      match x.steps[x.next]? with
      | none => none
      | some b => if stepKind b = kind then some (x, b) else none

/-- R109: the stream's head step, if it is of this kind and its WAIT_BACK holds. -/
def headStep (s : State) (sid kind : Nat) : Option (Stream × List Byte) :=
  (headOf s sid kind).bind fun x => if waitMet x.1 x.1.next then some x else none

/-- The head step has started. -/
def passHead (s : State) (sid : Nat) : State := modStream s sid fun x => { x with next := x.next + 1 }

/-- The head step started and completed. -/
def headDone (s : State) (sid : Nat) (x : Stream) : State := stepDone (passHead s sid) sid x.next

/-- R90, R92, R155: whether a context can be used: resident, and every object it names resident. -/
def ctxUsable (s : State) (ctx : Nat) : Bool :=
  ctx == 0 ||
    match resident s 10 ctx with
    | some o => (match o.body with | .context c => ctxRefsOk s c | _ => false)
    | none => false

/-- R155: a step whose context is not loaded waits for a swap, which runs only while the array has nothing issued. -/
def withCtx (s : State) (sid ctx : Nat) (run : State → State) : State :=
  if s.helm.ctx = ctx then run s
  else if s.helm.issued.isEmpty && s.helm.swap.isNone then
    (if ctxBad s ctx then failStream (swapOut s) sid .dataError else run (swapTo s ctx))
  else s

/-- R29: run on a unit: DOMAIN_OFF where none of its domains is ON or POWERING_UP, and a wait while none is ON yet. -/
def onUnit (s : State) (sid lo hi : Nat) (run : State → State) : State :=
  if !unitUp s lo hi then failStream s sid .domainOff
  else if (List.range (hi + 1 - lo)).any fun k => domIs s (lo + k) .on then run s
  else s

/-- One step command: the head step of a kind whose operation code is `op`. A step of that kind with a code outside
`ops`, or malformed, ends the stream BAD_DESCRIPTOR at Helm's check (R155). -/
def stepCmd (s : State) (sid kind op : Nat) (ops : List Nat) (ok : State → List Byte → Bool)
    (run : State → Stream → List Byte → State) : State :=
  if !isReady s then s
  else
    match headStep s sid kind with
    | none => s
    | some (x, b) =>
      if !ops.contains (u8 b 1) then settled (failStream s sid .badDescriptor)
      else if u8 b 1 ≠ op then s
      else if !ok s b then settled (failStream s sid .badDescriptor)
      else settled (run s x b)

/-! ### RUN_STREAM (R41) -/

/-- RUN_STREAM (R41, R97): the next operation descriptor; with WAIT_EN it waits on its waypoint. R58: a failed read of
the argument block completes DATA_ERROR; an empty stream reads none. -/
def execRunStream (p t : Nat) (arg : HostRead) (s : State) : Host.Outcome State Fault Refusal :=
  let s' := tick s t
  match nextTaken s' p fun b => dType b == 2 with
  | none => .next s
  | some d =>
    let b := d.bytes
    if !isReady s' || !regOpen s' p 4 (oArgLen b) then .next s
    else
      let s := dropTaken s' p d
      if !streamOk s p b then .next (endTaken s p d .badDescriptor)
      else
        let reads := oLen b != 0 && oArgLen b != 0
        if reads && arg.isNone then .next (endTaken s p d .dataError)
        else
          let s := if reads then charge s p 4 (oArgLen b) else s
          let order := s.lb.order + 1
          let s := { s with lb := { s.lb with order := order } }
          let rank : Rank := ⟨u8 b 44 % 4, false, order⟩
          let a := if reads then arg.getD [] else []
          if oWaitEn b && !wpMet s (oWaitWp b) (oWaitVal b) then
            .next (addWait s ⟨p, oWaitWp b, oWaitVal b, s.now, .desc d.sq d.count (dTag b) b a rank⟩)
          else .next (settled (startStream s p d.sq d.count (dTag b) b a rank))

/-! ### Waypoint steps (R438) -/

/-- R438: the device a waypoint or move step names; its own. -/
def ownDev (s : State) (dev : Nat) : Bool := dev == 0xFFFF || dev == devno s

/-- R438, R95, R339: a waypoint step in order. A SIGNAL to another device names one of the route table; the receiver
judges the waypoint. -/
def wpStepOk (s : State) (p : Nat) (b : List Byte) : Bool :=
  u8 b 2 == 0 && zeros b 12 64
    && (if ownDev s (u16 b 6) then wpOwned s p (u16 b 4) else u8 b 1 == 2 && (routeOf s (u16 b 6)).isSome)

def partOf (s : State) (sid : Nat) : Nat := match stream s sid with | some x => x.part | none => 0

/-- WAYPOINT_WAIT (R438, R96): a step that waits on its partition's own waypoint. -/
def execWaypointWait (sid t : Nat) (s : State) : Host.Outcome State Fault Refusal :=
  let s := tick s t
  .next (stepCmd s sid 5 1 [1, 2] (fun s b => wpStepOk s (partOf s sid) b) fun s x b =>
    if wpMet s (u16 b 4) (u32 b 8) then headDone s sid x
    else addWait (passHead s sid) ⟨x.part, u16 b 4, u32 b 8, s.now, .step sid x.next⟩)

/-- WAYPOINT_SIGNAL (R438, R96, R98): a step that signals a waypoint, here or on another device. -/
def execWaypointSignal (sid t : Nat) (s : State) : Host.Outcome State Fault Refusal :=
  let s := tick s t
  .next (stepCmd s sid 5 2 [1, 2] (fun s b => wpStepOk s (partOf s sid) b) fun s x b =>
    if ownDev s (u16 b 6) then headDone (wpAdd s (u16 b 4) (u32 b 8)) sid x
    else sendMsg (passHead s sid) (u16 b 6) x.part (.wpSignal x.part sid x.next (u16 b 4) (u32 b 8)))

/-- Take a delivered message out of the inbox, if it stands there (assumption log 18). -/
def takeMsg (s : State) (src : Nat) (m : Msg) : State :=
  { s with links := { s.links with inbox := s.links.inbox.erase (src, m) } }

/-- REMOTE_WAYPOINT_SIGNAL (R98): a signal from another device, applied only within the range of the partition of the
sender's number, and only on a READY device; acknowledged either way. -/
def execRemoteWaypointSignal (src part sid step idx inc t : Nat) (s : State) : Host.Outcome State Fault Refusal :=
  let s := takeMsg (tick s t) src (.wpSignal part sid step idx inc)
  if !isReady s then .next (sendMsg s src part (.wpAck sid step .notReady))
  else if !wpOwned s part idx then .next (sendMsg s src part (.wpAck sid step .badDescriptor))
  else .next (settled (sendMsg (wpAdd s idx inc) src part (.wpAck sid step .ok)))

/-- WAYPOINT_SIGNAL_ACK (R98): the signalling step completes, or its stream ends with the receiver's code. -/
def execWaypointSignalAck (sid step : Nat) (st : Status) (s : State) : Host.Outcome State Fault Refusal :=
  let s := { s with links := { s.links with inbox := s.links.inbox.filter fun m => m.2 != .wpAck sid step st } }
  match stream s sid with
  | none => .next s
  | some x =>
    if !decide (step < x.next) || x.done.contains step || stepKind (x.steps.getD step []) != 5 then .next s
    else .next (settled (if st = .ok then stepDone s sid step else failStream s sid st))

/-- R97: a wait past its partition's WP_WAIT_TIMEOUT. -/
def waitExpired (s : State) (w : Wait) : Bool :=
  wpTimeoutMs s w.part != 0 && decide (w.since + wpTimeoutMs s w.part * 1000000 ≤ s.now)

/-- End a wait with a code: its descriptor completes, or its step's stream ends. -/
def dropWait (s : State) (st : Status) (w : Wait) : State :=
  let s := { s with wp := { s.wp with waits := s.wp.waits.erase w } }
  match w.who with
  | .desc sq count tag .. => completeDesc s w.part sq count tag 0 st
  | .step sid _ => failStream s sid st

/-- WAYPOINT_WAIT_TIMEOUT (R97): waits still unsatisfied at their timeout end LIMIT_EXCEEDED; a signal of the same
moment comes first. -/
def execWaypointWaitTimeout (t : Nat) (s : State) : Host.Outcome State Fault Refusal :=
  let s := settled (tick s t)
  .next (settled (forEach s (s.wp.waits.filter (waitExpired s)) fun s w => dropWait s .limitExceeded w))

end Sys2Proof.Machine
end

