-- ==== Sys2Proof/Machine/Admission.lean ====
section
/-! DEFINITION. Admission (R67-R74), the prediction and prefill share (R73, R78, R79), abort (R80-R82, R46, R26) and the
reports of prefill-group members (R18, R72). -/

namespace Sys2Proof.Machine

/-! ### Check 1 (R38, R39, R138) -/

def bf16Ok (c : Nat) : Bool := (bf16Field c).isSome

/-- R39: TOP_P: greater than 0 and at most 1; 0 means off. -/
def topPOk (c : Nat) : Bool := match bf16Field c with | some v => v ≤ 0x3F80 | none => false

/-- R38, R39: every field within its range whatever LAST_STAGE is. -/
def requestOk (d : List Byte) : Bool :=
  descCrcOk d && dFlags d < 2 && dLast d ≤ 3 && u8 d 3 < 4 && 1 ≤ dQueryLen d && dProfile d ≤ 1023
    && (u16 d 22 == 0xFFFF || u16 d 22 ≤ 255) && inRange 1 1024 (dSearchK d) && 1 ≤ dMaxOut d && bf16Ok (dTemp d)
    && topPOk (dTopP d) && dTopK d ≤ 1024 && zeros d 54 56

/-! ### Check 3: meters (R69, R70) -/

/-- R69: one bucket after a fill: level in 2^-16 of a request, and the fraction left over, in 10^-11 of a unit. -/
def fillBucket (level frac rate dt cap : Nat) : Nat × Nat :=
  let n := rate * 65536 * dt + frac
  let v := level + n / 100000000000
  if cap * 65536 ≤ v then (cap * 65536, 0) else (v, n % 100000000000)

/-- R69, R70: the meter of a class as a request reaches check 3. It fills from its last fill on, and first from READY on:
before READY network time may be set and stepped (R351), so that no elapsed time is known (DEDUCED, assumption log 30). -/
def fillMeter (s : State) (p c : Nat) : Meter :=
  let m := tget Meter.reset (part s p).meters c
  let dt := s.now - max m.last s.boot.readyAt
  let a := fillBucket m.commit m.commitFrac (commitRate s p c) dt (meterBurst s p c)
  let b := fillBucket m.excess m.excessFrac (excessRate s p c) dt (meterBurst s p c)
  ⟨a.1, b.1, a.2, b.2, s.now⟩

def setMeter (s : State) (p c : Nat) (m : Meter) : State :=
  modPart s p fun P => { P with meters := tset Meter.reset P.meters c m }

/-- R69: green, yellow or red. -/
inductive Colour where
  | green | yellow | red
  deriving DecidableEq, Repr

def Meter.colour (m : Meter) : Colour := if 65536 ≤ m.commit then .green else if 65536 ≤ m.excess then .yellow else .red

/-- R68: the credit an admission takes. -/
def Meter.take (m : Meter) : Colour → Meter
  | .green => { m with commit := m.commit - 65536 }
  | .yellow => { m with excess := m.excess - 65536 }
  | .red => m

/-- R67 check 3: a yellow request needs occupancy below YELLOW_OCC of LB_QUOTA. -/
def colourPasses (s : State) (p : Nat) : Colour → Bool
  | .green => true
  | .yellow => decide (inUse s p * 256 < yellowOcc s p * lbQuota s p)
  | .red => false

/-! ### Check 5: reservation and prediction (R72, R73) -/

/-- A fraction of µs: numerator and denominator; denominator 0 is unbounded. -/
abbrev Frac := Int × Nat

/-- R73: 64 × DRAIN[c], in 1/65,536 tokens per ms. -/
def drain64 (s : State) (p c : Nat) : Nat :=
  let P := part s p
  let above := sumN ((List.range c).map fun k => tget 0 P.admitRate k)
  max (64 * (P.pfRate - above)) P.pfRate




/-- R73: B over the partition's WAIT_PREFILL requests of class c and above. -/
def backlog (s : State) (p c : Nat) : Nat :=
  sumN ((s.lb.work.filter fun e =>
    e.2.handle.part == p && (entry s e.1).st = .waitPrefill && (entry s e.1).cls ≤ c).map fun e => workBudget e.2)

/-- R73: whether t_pred exceeds a target in µs. -/
def predMisses (s : State) (p c b target : Nat) : Bool :=
  let d := drain64 s p c
  let front := tget 0 (part s p).frontEst c + (part s p).handoff
  target != 0 && (d == 0 ||
    decide (target * 65536 * d < front * d + (backlog s p c + b) * 1000 * 65536 * 64 * 65536))

/-- R72: key/value blocks a GENERATE request reserves. -/
def needBlocks (b maxOut : Nat) : Nat := cdiv (b + maxOut) 64

/-- R18, R72: the members' reports in descending order of a number, ascending DEVNO among equals. -/
def reportOrder (key : Report → Nat) (l : List Report) : List Report :=
  sortBy (fun a b => decide (key b < key a ∨ (key a = key b ∧ a.dev < b.dev))) l

/-- R18, R72: free and unreserved blocks that a report gives for a generator. -/
def Report.free (r : Report) (model : Nat) : Nat := ((r.pools.find? (·.1 == model)).map (·.2.1)).getD 0
def Report.unres (r : Report) (model : Nat) : Nat := ((r.pools.find? (·.1 == model)).map (·.2.2)).getD 0

/-- R72: the device that takes the reservation. -/
def reserveOn (s : State) (model g blocks : Nat) (grammar : Bool) : Option Nat :=
  if canReserve s g blocks grammar then some (devno s)
  else
    ((reportOrder (·.unres model) (s.gen.reports.filter fun r => (groupOf s).contains r.dev && r.dev != devno s)).find? fun r =>
      decide (blocks ≤ r.unres model) && r.slot && (!grammar || r.room)).map (·.dev)

/-! ### Step 6 -/

/-- R60: the slot handed out: those unused since reset first, ascending, then those freed, oldest first. -/
def nextSlot (s : State) : Option (Nat × State) :=
  if s.lb.fresh < 262144 then some (s.lb.fresh, { s with lb := { s.lb with fresh := s.lb.fresh + 1 } })
  else
    match s.lb.freed with
    | f :: fs => some (f, { s with lb := { s.lb with freed := fs } })
    | [] => none

def newWork (h : Handle) (rank : Rank) (d : Taken) (refs : List Nat) (prof : Profile) : Work :=
  { handle := h, rank := rank, desc := d.bytes, refs := refs, sentTo := [], count := d.count, prof := prof,
    retToks := [], genToks := [], vec := [], quals := Quals.none, fanoutAt := 0, wanted := [], got := [], merge := [],
    missing := 0, cands := [], order := [], fetchAt := 0, pairs := [], featRows := [], featCtx := 0, featAt := 0, featWait := [], featGot := [], prompt := [],
    hashes := [], reuse := 0, pins := [], late := [], readBacks := [], prefixAt := 0, admittedBy := [], prefillEnd := 0, early := [],
    held := [], out := [], hold := [], writes := [], lastWrite := 0, gaps := 0, lastGap := none, genEnd := none,
    aborts := [], releases := [], abortBy := 0, commit := none, commitHeld := false, ending := none, waitKv := false }

/-- R400: mirroring covers new requests while the twin is active. -/
def mirrorsNew (s : State) : Bool := twinEn s && s.twin.active

/-- R67 step 6, R71: the entry written in ADMITTED, the reservation made, the admission mirrored (R392). R73's "prompt tokens
admitted" are the budget B of a GENERATE request; a PACK request's prompt meets no prefill and is not counted (DESIGN
CHOICE, assumption log 30). -/
def admitRequest (s : State) (p : Nat) (d : Taken) (prof : Profile) (refs : List Nat) (yellow : Bool) (cls target : Nat)
    (kv : Option (Nat × Nat × Nat)) : State :=
  match nextSlot s with
  | none => s
  | some (slot, s) =>
    let e0 := entry s slot
    let b := d.bytes
    let h : Handle := ⟨devno s, p, slot, e0.gen⟩
    let order := s.lb.order + 1
    let rank : Rank := ⟨cls, yellow && cls == 3, order⟩
    let (kvtRef, kvDev, s) :=
      match kv with
      | none => (0xFFFFFFFF, 0, s)
      | some (dev, g, n) =>
        if dev = devno s then
          let (i, s) := makeReservation s h g prof.genModel (dVariant b) n (dGrammar b) refs
          (i, dev, s)
        else (0xFFFFFFFF, dev, sendMsg s dev p (.reserve h prof.genModel (dVariant b) n (dGrammar b)))
    let e : Entry :=
      { e0 with st := .admitted, yellow := yellow, mirrored := mirrorsNew s, cls := cls, origCls := dClass b,
                lastStage := dLast b, stage := 1, sq := d.sq, tag := dTag b, arrival := d.at_ % 2 ^ 48, kvDev := kvDev,
                ttftTarget := target, ttftUs := 0xFFFFFFFF, lastTokenUs := 0, tbtMax := 0, tbtMisses := 0, tokens := 0,
                profileId := dProfile b, promptRef := 0xFFFFFFFF, kvtRef := kvtRef, outAddr := dOutAddr b,
                outBytes := 0, outLen := dOutLen b }
    let w := newWork h rank d refs prof
    let s := placePrompt { s with lb := { s.lb with
      entries := tput s.lb.entries slot e, work := s.lb.work ++ [(slot, w)], order := order } } slot
    let s := touchVariant s refs
    let s := modPart s p fun P => { P with winAdmit := tmod 0 P.winAdmit cls fun n =>
      n + (if dLast b = 3 then budgetOf b prof else 0) }
    mirrorOut (countEv s 7 0 cls (some p) 1) slot (.admission (entryImage e w))

/-- R67: a request that fails a check completes at once: HANDLE 0, STAGE 1. -/
def rejectReq (s : State) (p : Nat) (d : Taken) (st : Status) : State :=
  completeDesc s p d.sq d.count (dTag d.bytes) 1 st

/-- R71: the class in force. -/
def demoted (c : Nat) (yellow : Bool) : Nat := if yellow then min 3 (c + 1) else c

/-- R67 checks 3 to 6, for a request whose objects are resident. -/
def admitChecks (s : State) (p : Nat) (d : Taken) (prof : Profile) (refs : List Nat) : State :=
  let b := d.bytes
  let c := dClass b
  let m := fillMeter s p c
  let col := m.colour
  let s := setMeter s p c m
  let owner := some p
  if !colourPasses s p col then countEv (rejectReq s p d .rejectedRate) 7 1 c owner 1
  else if !decide (inUse s p < lbQuota s p) then countEv (rejectReq s p d .rejectedFull) 7 2 c owner 1
  else
    let yellow := col = .yellow
    let cls := demoted c yellow
    let taken := fun s => setMeter s p c (m.take col)
    if dLast b ≠ 3 then admitRequest (taken s) p d prof refs yellow cls 0 none
    else
      let target := if dTtft b ≠ 0 then dTtft b else ttftDefault s p cls
      let bud := budgetOf b prof
      let n := needBlocks bud (dMaxOut b)
      match (gslotOf s prof.genModel).bind fun g => (reserveOn s prof.genModel g n (dGrammar b).isSome).map fun dev => (dev, g, n) with
      | none => countEv (rejectReq s p d .rejectedSlo) 7 3 c owner 1
      | some kv =>
        if predMisses s p cls bud target then countEv (rejectReq s p d .rejectedSlo) 7 3 c owner 1
        else admitRequest (taken s) p d prof refs yellow cls target (some kv)

def isRequest (d : Taken) : Bool := dType d.bytes == 1

/-- R67: requests are admitted in the order the device takes them: the partition's first, when no request that any
partition's ring gave earlier waits. One that FENCE holds (R37) holds every later one: the rule makes no exception for it
(DEDUCED, assumption log 75). -/
def nextRequest (s : State) (p : Nat) : Option Taken :=
  match (part s p).taken.find? isRequest with
  | none => none
  | some d =>
    if fenceOk s p d && allParts.all fun q => (part s q).taken.all fun x => !isRequest x || decide (d.ord ≤ x.ord)
    then some d else none

/-- ADMISSION (R67): the partition's next request descriptor in the order taken. -/
def execAdmission (p t : Nat) (s : State) : Host.Outcome State Fault Refusal :=
  let s' := tick s t
  match nextRequest s' p with
  | none => .next s
  | some d =>
    if !isReady s' then .next s
    else
      let s := dropTaken s' p d
      if !requestOk d.bytes then .next (rejectReq s p d .badDescriptor)
      else
        match tget none s.obj.profiles (dProfile d.bytes) with
        | none => .next (rejectReq s p d .noResource)
        | some prof =>
          match requestNeeds s d.bytes prof with
          | none => .next (rejectReq (wantVariant s d.bytes prof) p d .noResource)
          | some refs => .next (admitChecks s p d prof refs)

/-! ### Abort (R26, R46, R80-R82, R399) -/

/-- R82: ABORTING ends once every device has reported its release and the text of every committed token is written. -/
def finishAbort (s : State) (slot : Nat) : State :=
  match work s slot with
  | none => s
  | some w =>
    if (entry s slot).st = .aborting ∧ w.releases = [] ∧ w.writes = [] then commitReq s slot .aborted (entry s slot).tokens
    else s

/-- R80: the abort takes effect. -/
def startAbort (s : State) (slot : Nat) (w : Work) : State :=
  let s := setSt s slot .aborting
  let s := stopGen (stopWork s w.handle) w.handle
  let others := w.sentTo.filter fun d => d != devno s
  let s := modWork (sendAborts s w) slot fun w =>
    { w with releases := others, abortBy := s.now + abortTimeoutMs s * 1000000, held := [], early := [], ending := none }
  finishAbort s slot

/-- R81, R46: the ABORT completes after the request it names. -/
def awaitAbort (s : State) (p slot : Nat) (d : Taken) (ok : Bool) : State :=
  let _ := p
  modWork s slot fun w => { w with aborts := w.aborts ++ [⟨d.sq, d.count, dTag d.bytes, ok⟩] }

/-- ABORT (R46, R80, R81): the partition's next ABORT descriptor. -/
def execAbort (p t : Nat) (s : State) : Host.Outcome State Fault Refusal :=
  let s' := tick s t
  match nextTaken s' p (isAdmin 1) with
  | none => .next s
  | some d =>
    if !isReady s' then .next s
    else
      let s := dropTaken s' p d
      let h := Handle.ofNum (u64 d.bytes 8)
      if !(adminOk d.bytes && zeros d.bytes 16 24) then .next (endTaken s p d .badDescriptor)
      else
        match (if h.part = p then liveSlot s h else none) with
        | none => .next (endTaken s p d .alreadyComplete)
        | some slot =>
          match work s slot with
          | none => .next (endTaken s p d .alreadyComplete)
          | some w =>
            match (entry s slot).st with
            | .committing => .next (awaitAbort s p slot d false)
            | .aborting => .next (awaitAbort s p slot d true)
            | _ => .next (startAbort (awaitAbort s p slot d true) slot w)

/-- ABORT_TIMEOUT (R82): ABORTING ends when it expires. -/
def execAbortTimeout (slot t : Nat) (s : State) : Host.Outcome State Fault Refusal :=
  let s' := tick s t
  match work s' slot with
  | none => .next s
  | some w =>
    if isReady s' ∧ (entry s' slot).st = .aborting ∧ w.abortBy ≤ s'.now then
      .next (commitReq (modWork s' slot fun w => { w with releases := [] }) slot .aborted (entry s' slot).tokens)
    else .next s

/-- R26: a device has released what it held of a request; on a device that holds the request's blocks for another home,
the home device has (R250: its entry is FREE). -/
def released (s : State) (h : Handle) (dev : Nat) : State :=
  match liveSlot s h with
  | none => if holdsGen s h then releaseGen s h else lateResult s (entry s h.slot).cls h.part
  | some slot =>
    if (entry s slot).st = .aborting then
      finishAbort (modWork s slot fun w => { w with releases := w.releases.filter (· != dev) }) slot
    else lateResult s (entry s slot).cls h.part

/-- RELEASE_REPORT (R82): a device reports its release on Q0; after the timeout it is a late result (R27). -/
def execReleaseReport (h : Handle) (dev : Nat) (s : State) : Host.Outcome State Fault Refusal :=
  if isReady s then .next (released (takeMsg s dev (.released h)) h dev) else .next s

/-- ABORT_MESSAGE (R26): this device stops another home's request and reports its release on Q0. -/
def execAbortMessage (h : Handle) (s : State) : Host.Outcome State Fault Refusal :=
  if !isReady s then .next s else
  let home := homeOf s h
  let s := takeMsg s home (.abort h)
  .next (sendMsg (releaseGen (stopWork s h) h) home h.part (.released h))

/-! ### Estimates and the prefill share (R73, R78, R79) -/

/-- R73: one partition's 1 ms window ends. -/
def predWindow (s : State) (p : Nat) : State :=
  let busy := s.lb.work.any fun e =>
    e.2.handle.part == p && ((entry s e.1).st = .waitPrefill || (entry s e.1).st = .prefill)
  modPart s p fun P => { P with
    pfRate := if P.winBusy || P.winPf != 0 then ema P.pfRate (P.winPf * 65536) else P.pfRate
    admitRate := (List.range 4).foldl (fun t k => tset 0 t k (ema (tget 0 P.admitRate k) (tget 0 P.winAdmit k * 65536))) []
    winPf := 0, winAdmit := [], winBusy := busy }

/-- PRED_WINDOW (R73): every 1 ms. -/
def execPredWindow (t : Nat) (s : State) : Host.Outcome State Fault Refusal :=
  .next (forEach (tick s t) (allParts.filter fun p => (part s p).st != .off) predWindow)

/-- A slack in ns as a fraction, with its target in µs. -/
structure Slack where
  num : Int
  den : Nat
  target : Nat
  deriving DecidableEq, Repr

/-- R79: the smaller slack. -/
def Slack.less (a b : Slack) : Bool := decide (a.num * b.den < b.num * a.den)

/-- R79: below a band of 10 % of its target. -/
def Slack.short (a : Slack) : Bool := decide (10 * a.num < (a.target * 1000 * a.den : Nat))

/-- R79: slack of a DECODE entry: TBT_TARGET_US minus its most recent gap. An entry with no target or no gap has none. -/
def decodeSlack (s : State) (p : Nat) (e : Nat × Work) : Option Slack :=
  let n := entry s e.1
  let tgt := tbtTarget s p n.cls
  if e.2.handle.part = p ∧ n.st = .decode ∧ tgt ≠ 0 then e.2.lastGap.map fun g => ⟨(tgt * 1000 : Nat) - (g : Int), 1, tgt⟩
  else none

/-- R79: slack of a WAIT_PREFILL entry with a target: target minus t_pred re-evaluated. -/
def firstSlack (s : State) (p : Nat) (e : Nat × Work) : Option Slack :=
  let n := entry s e.1
  if e.2.handle.part = p ∧ n.st = .waitPrefill ∧ n.ttftTarget ≠ 0 then
    let ahead := sumN ((s.lb.work.filter fun x =>
      x.2.handle.part == p && (entry s x.1).st = .waitPrefill && (entry s x.1).cls ≤ n.cls && x.2.rank.lt e.2.rank).map
        fun x => workBudget x.2)
    let d := drain64 s p n.cls
    if d = 0 then some ⟨-1, 0, n.ttftTarget⟩
    else
      let den := 65536 * d
      let used := sinceArrival n s.now * den + (ahead + workBudget e.2) * 1000000 * 65536 * 64 * 65536
        + (part s p).handoff * 1000 * d
      some ⟨(n.ttftTarget * 1000 * den : Nat) - (used : Int), den, n.ttftTarget⟩
  else none

def anyShort (l : List Slack) : Bool := match leastBy Slack.less l with | some x => x.short | none => false

/-- R79: the share after one comparison. -/
def adjustShare (share lo hi : Nat) (dec first : Bool) : Nat :=
  if dec then max lo (share - 2) else if first then min hi (share + 2) else share

def pfAdjust (s : State) (p : Nat) : State :=
  let dec := anyShort (s.lb.work.filterMap (decodeSlack s p))
  let first := anyShort (s.lb.work.filterMap (firstSlack s p))
  modPart s p fun P => { P with pfShare := adjustShare P.pfShare (pfMin s p) (pfMax s p) dec first }

/-- PF_SHARE_ADJUST (R79): every 1 ms. -/
def execPfShareAdjust (t : Nat) (s : State) : Host.Outcome State Fault Refusal :=
  .next (forEach (tick s t) (allParts.filter fun p => (part s p).st != .off) pfAdjust)

/-- R72: the reservation of a GENERATE request on a device: here, or by a message to the member chosen. -/
def reserveFor (s : State) (slot : Nat) (w : Work) (dev g n : Nat) : State :=
  let d := w.desc
  let h := w.handle
  if dev = devno s then
    let (i, s) := makeReservation s h g w.prof.genModel (dVariant d) n (dGrammar d) w.refs
    modEntry s slot fun e => { e with kvtRef := i, kvDev := dev }
  else
    modEntry (sendMsg s dev h.part (.reserve h w.prof.genModel (dVariant d) n (dGrammar d))) slot fun e => { e with kvDev := dev }

/-- R397: requests taken over that still wait for a reservation, in class order. -/
def resumedWaiting (s : State) : List (Nat × Work) :=
  sortBy (fun a b => a.2.rank.lt b.2.rank) (s.lb.work.filter fun e =>
    e.2.waitKv && ((entry s e.1).st = .front || (entry s e.1).st = .waitPrefill))

/-- R397: resumed entries get their reservations in class order; the first that cannot be met holds those after it. A
resumed entry then goes on, from stage 13 or from stage 2. -/
def reserveResumed (s : State) : List (Nat × Work) → State
  | [] => s
  | (slot, w) :: es =>
    let n := needBlocks (workBudget w) (dMaxOut w.desc)
    match (gslotOf s w.prof.genModel).bind fun g => (reserveOn s w.prof.genModel g n (dGrammar w.desc).isSome).map fun dev => (dev, g) with
    | none => s
    | some (dev, g) =>
      reserveResumed (modWork (reserveFor s slot w dev g n) slot fun w => { w with waitKv := false }) es

/-- R18, R72: what this device reports: free and unreserved blocks of each of its generators, whether a block-table slot is
free (R249), and whether COMPASS_SEQ_MAX leaves room (R279). -/
def ownReport (s : State) : Msg :=
  .freeBlocks (((List.range 8).filter (genSlotEn s)).map fun g =>
    (genSlotModel s g, poolBlocks s g - (pool s g).used.length, unreserved s g)) (tableFree s) (compassRoom s)

/-- FREE_BLOCK_REPORT (R18, R72): a member's last control message; this device's own report goes to the group. Resumed
entries that wait for a reservation are tried again (R397). -/
def execFreeBlockReport (dev : Nat) (pools : List (Nat × Nat × Nat)) (slot room : Bool) (s : State) :
    Host.Outcome State Fault Refusal :=
  if dev = devno s then
    let m := ownReport s
    let s := forEach s ((groupOf s).filter (· != dev)) fun s d => sendMsg s d 0 m
    .next (reserveResumed s (resumedWaiting s))
  else
    let s := takeMsg s dev (.freeBlocks pools slot room)
    if !(groupOf s).contains dev then .next s
    else
    let s := { s with gen := { s.gen with
      reports := s.gen.reports.filter (fun r => r.dev != dev) ++ [⟨dev, pools, slot, room⟩] } }
    .next (reserveResumed s (resumedWaiting s))

end Sys2Proof.Machine
end

