-- ==== Sys2Proof/Machine/Builtin.lean ====
section
/-! DEFINITION. The built-in functions of the Arc unit (07_arc_unit R143-R145). Each function's exact value is held as
a pair of fractions that bracket it far more narrowly than any output format's spacing; the FP32 result is one of
the two FP32 neighbours of the exact value (R145: faithful), which one being open (`Config.roundUp`), and the exact
value itself where it is representable; the results in BF16, E4M3 and E5M2 are the exact value converted (R144). -/

namespace Sys2Proof.Machine

/-- Built-in functions by FUNC 0x01 to 0x0A (R143). -/
inductive Builtin where
  | exp | exp2 | log | recip | rsqrt | sigmoid | tanh | gelu | silu | softplus
  deriving DecidableEq, Repr

def Builtin.ofCode : Nat → Option Builtin
  | 1 => some .exp | 2 => some .exp2 | 3 => some .log | 4 => some .recip | 5 => some .rsqrt
  | 6 => some .sigmoid | 7 => some .tanh | 8 => some .gelu | 9 => some .silu | 10 => some .softplus
  | _ => none

def Builtin.code : Builtin → Nat
  | .exp => 1 | .exp2 => 2 | .log => 3 | .recip => 4 | .rsqrt => 5
  | .sigmoid => 6 | .tanh => 7 | .gelu => 8 | .silu => 9 | .softplus => 10

/-! ### Fixed point: an integer v stands for v / 2^400 -/

def fxS : Nat := 400
def fxTop : Nat := 1 <<< 400
def fxOne : Int := fxTop
/-- ln 2 and √(2/π), truncated to 400 bits. -/
def fxLn2 : Int :=
  0xb17217f7d1cf79abc9e3b39803f2f6af40f343267298b62d8a0d175b8baafa2be7b876206debac98559552fb4afa1b10ed2e
def fxSqrt2OverPi : Int :=
  0xcc42299ea1b284687e59e2805d5c717fa7053e60a24e0db1808e369004c73a5d3bf158aa88fa7b6e47eba75766e9d11bd628

def fxMul (a b : Int) : Int := a * b / fxOne

/-- The fixed-point number ±m × 2^e; exact for every FP32 value. -/
def fxOf (n : Bool) (m : Nat) (e : Int) : Int :=
  let k := e + 400
  let v : Int := if 0 ≤ k then (m * 2 ^ k.toNat : Nat) else (m / 2 ^ (-k).toNat : Nat)
  if n then -v else v

/-- e^r for |r| < 1 by its series. -/
def fxExpSeries (r : Int) : Int :=
  ((List.range 110).foldl (fun (p : Int × Int) (k : Nat) => (p.1 + p.2, fxMul p.2 r / ((k : Int) + 1))) (0, fxOne)).1

/-- A positive real as v × 2^(n − 400). -/
structure FxExp where
  v : Int
  n : Int

/-- e^x for a fixed-point x. -/
def fxExp (x : Int) : FxExp :=
  let n := (x + fxLn2 / 2) / fxLn2
  ⟨fxExpSeries (x - n * fxLn2), n⟩

/-- ln of v × 2^(−400), for v > 0: v = 2^k · m with 2/3 ≤ m < 4/3, and ln m = 2 artanh ((m − 1) / (m + 1)). -/
def fxLn (v : Nat) : Int :=
  let l : Int := (Nat.log2 v : Int) - 400
  let m0 : Int := if 0 ≤ l then (v / 2 ^ l.toNat : Nat) else (v * 2 ^ (-l).toNat : Nat)
  let (k, m) := if 3 * m0 < 4 * fxOne then (l, m0) else (l + 1, m0 / 2)
  let z := (m - fxOne) * fxOne / (m + fxOne)
  let z2 := fxMul z z
  let s := ((List.range 90).foldl
    (fun (p : Int × Int) (i : Nat) => (p.1 + p.2 / (2 * (i : Int) + 1), fxMul p.2 z2)) ((0 : Int), z)).1
  k * fxLn2 + 2 * s

/-- x √(2/π) Σ (−1)^n (x²/2)^n / (n! (2n + 1)) = erf (x / √2). -/
def fxErfOver (x : Int) : Int :=
  let h := fxMul x x / 2
  let s := ((List.range 1200).foldl
    (fun (p : Int × Int) (n : Nat) => (p.1 + p.2 / (2 * (n : Int) + 1), -(fxMul p.2 h) / ((n : Int) + 1))) ((0 : Int), fxOne)).1
  fxMul (fxMul x fxSqrt2OverPi) s

/-- A real number given by a bracket: sign, and two fractions lo ≤ |value| ≤ hi, equal when the value is exact. -/
structure Bracket where
  neg : Bool
  loN : Nat
  loD : Nat
  hiN : Nat
  hiD : Nat
  deriving DecidableEq, Repr

def Bracket.exact (neg : Bool) (n d : Nat) : Bracket := ⟨neg, n, d, n, d⟩

/-- A fixed-point approximation a × 2^(n − 400) with an error below 2^(n − 360). -/
def Bracket.fx (a n : Int) : Bracket :=
  let m := a.natAbs
  let (p, q) := if 0 ≤ n then (2 ^ n.toNat, 1) else (1, 2 ^ (-n).toNat)
  ⟨decide (a < 0), (m - 2 ^ 40) * p, fxTop * q, (m + 2 ^ 40) * p, fxTop * q⟩

/-- Just above / just below a finite magnitude m × 2^e, closer than any format's spacing. -/
def Bracket.near (neg : Bool) (m : Nat) (e : Int) (above : Bool) : Bracket :=
  let (a, b) := dyadic m e
  let k := fxTop
  if above then ⟨neg, a * k, b * k, a * k + 1, b * k⟩ else ⟨neg, a * k - 1, b * k, a * k, b * k⟩

/-- A positive value below every format's smallest subnormal. -/
def Bracket.tiny (neg : Bool) : Bracket := ⟨neg, 1, 2 ^ 600, 1, 2 ^ 599⟩

/-- A value beyond every format's largest finite value. -/
def Bracket.huge (neg : Bool) : Bracket := ⟨neg, 2 ^ 300, 1, 2 ^ 301, 1⟩

/-- n/d with n, d fixed-point positive numbers of relative error below 2^-200. -/
def Bracket.ratio (neg : Bool) (n d : Nat) : Bracket :=
  ⟨neg, n * (2 ^ 200 - 1), d * 2 ^ 200, n * (2 ^ 200 + 1), d * 2 ^ 200⟩

/-- v × 2^n as a pair numerator, denominator over 2^400. -/
def FxExp.frac (x : FxExp) : Nat × Nat :=
  let m := x.v.toNat
  if 0 ≤ x.n then (m * 2 ^ x.n.toNat, fxTop) else (m, fxTop * 2 ^ (-x.n).toNat)

/-- Integer square root by Newton's method from above; `fuel` steps. -/
def isqrtLoop (n : Nat) : Nat → Nat → Nat
  | 0, x => x
  | f + 1, x => let y := (x + n / x) / 2; if y < x then isqrtLoop n f y else x

def isqrt (n : Nat) : Nat := if n = 0 then 0 else isqrtLoop n 700 (2 ^ (Nat.log2 n / 2 + 1))

/-- The exact value of a built-in function at a finite non-zero argument ±m × 2^e with FP32 range, as a bracket;
none where the function gives NaN. -/
def builtinBracket (f : Builtin) (n : Bool) (m : Nat) (e : Int) : Option Bracket :=
  let big := 7 ≤ (Nat.log2 m : Int) + e      -- |x| ≥ 128
  let x := fxOf n m e
  match f with
  | .exp => some <| if big then (if n then .tiny false else .huge false) else
      let r := fxExp x; Bracket.fx r.v r.n
  | .exp2 => some <| if 9 ≤ (Nat.log2 m : Int) + e then (if n then .tiny false else .huge false) else
      let k := x / fxOne
      let r := x - k * fxOne
      if r = 0 then (if 0 ≤ k then .exact false (2 ^ k.toNat) 1 else .exact false 1 (2 ^ (-k).toNat))
      else Bracket.fx (fxExpSeries (fxMul r fxLn2)) k
  | .log => if n then none else
      let (a, b) := dyadic m e
      if a = b then some (.exact false 0 1)
      else
        let k : Int := Nat.log2 m
        -- ln (m 2^e) = ln (m 2^-k) + (k + e) ln 2
        some (Bracket.fx (fxLn ((fxOf false m (-k)).toNat) + (k + e) * fxLn2) 0)
  | .recip => let (a, b) := dyadic m e; some (.exact n b a)
  | .rsqrt => if n then none else
      let (a, b) := dyadic m e
      -- 1/√(a/b) = √(b/a); scaled by 2^300 after squaring by 2^600
      let q := b * 2 ^ 600 / a
      let s := isqrt q
      if q * a = b * 2 ^ 600 && s * s = q then some (.exact false s (2 ^ 300))
      else some ⟨false, s, 2 ^ 300, s + 1, 2 ^ 300⟩
  | .sigmoid => some <| if big then (if n then .tiny false else .near false 1 0 false) else
      let (a, b) := (fxExp (-x)).frac
      .ratio false b (a + b)
  | .tanh => some <| if 5 ≤ (Nat.log2 m : Int) + e then .near n 1 0 false else
      let (a, b) := (fxExp (2 * x.natAbs)).frac
      .ratio n (a - b) (a + b)
  | .gelu => some <| if 4 ≤ (Nat.log2 m : Int) + e then (if n then .tiny true else .near false m e false) else
      Bracket.fx (fxMul x (fxOne + fxErfOver x) / 2) 0
  | .silu => some <| if big then (if n then .tiny true else .near false m e false) else
      let (a, b) := (fxExp (-x)).frac
      let (p, q) := dyadic m e
      .ratio n (p * b) (q * (a + b))
  | .softplus => some <| if big then (if n then .tiny false else .near false m e true) else
      let (a, b) := (fxExp x).frac
      Bracket.fx (fxLn (((a + b) * fxTop) / b)) 0

/-- The special values of R143: NaN, the infinities and the zeros. `none` for a finite non-zero argument. -/
def builtinSpecial (f : Builtin) (v : FV) : Option Nat :=
  match v with
  | .nan => some nan32
  | .inf true => some (match f with
      | .exp | .exp2 | .sigmoid | .softplus => 0
      | .log | .rsqrt => nan32
      | .recip | .gelu | .silu => 0x80000000
      | .tanh => 0xBF800000)
  | .inf false => some (match f with
      | .recip | .rsqrt => 0
      | .sigmoid | .tanh => one32
      | _ => pinf32)
  | .fin n 0 _ => (match f with
      | .exp | .exp2 => some one32
      | .log => some ninf32
      | .recip | .rsqrt => some (if n then ninf32 else pinf32)
      | .sigmoid => some 0x3F000000
      | .tanh | .gelu | .silu => some (if n then 0x80000000 else 0)
      | .softplus => none)
  | .fin _ _ _ => none

/-- R143: softplus at ±0 is ln 2. -/
def ln2Bracket : Bracket := Bracket.fx fxLn2 0

/-- R145: a faithful FP32 result from the bracket of the exact value. -/
def faithful32 (f : Builtin) (x : Nat) (b : Bracket) : Nat :=
  let lo := min (truncMag fmtFp32 b.loN b.loD) (pinf32 - 1)
  let q := match fpDecode fmtFp32 lo with
    | .fin _ m e => dyadic m e
    | _ => (0, 1)
  let exact := b.loN * b.hiD == b.hiN * b.loD && q.1 * b.loD == b.loN * q.2
  let up := if exact then lo else if Config.roundUp f.code x then lo + 1 else lo
  signCode fmtFp32 b.neg + min up pinf32

/-- R145: a built-in function in FP32. -/
def builtin32 (f : Builtin) (x : Nat) : Nat :=
  match builtinSpecial f (dec32 x) with
  | some r => r
  | none => match dec32 x with
    | .fin n m e =>
      (match (if m = 0 then some ln2Bracket else builtinBracket f n m e) with
        | some b => faithful32 f x b
        | none => nan32)
    | _ => nan32

/-- R144: the exact value of a built-in function converted to a narrow format by R136, as code and count. -/
def builtinNarrow (f : Builtin) (t : Elt) (x : Nat) : Nat × Nat :=
  match builtinSpecial f (dec32 x) with
  | some r => convertElt t (dec32 r)
  | none => match dec32 x with
    | .fin n m e =>
      (match (if m = 0 then some ln2Bracket else builtinBracket f n m e), t.fp with
        | some b, some fm =>
          let k := roundMag fm b.loN b.loD
          if fpMaxCode fm < k then (signCode fm b.neg + fpMaxCode fm, 1) else (signCode fm b.neg + k, 0)
        | none, some _ => convertElt t .nan
        | _, none => convertElt t .nan)
    | _ => convertElt t .nan

/-- The built-in reciprocal, exponential and reciprocal square root that other units call. -/
def recip32 (x : Nat) : Nat := builtin32 .recip x
def exp32 (x : Nat) : Nat := builtin32 .exp x
def rsqrt32 (x : Nat) : Nat := builtin32 .rsqrt x

end Sys2Proof.Machine
end

