-- ==== Sys2Proof/Machine/ArcEval.lean ====
section
/-! DEFINITION. What the Arc unit computes: segment tables (R148), micro-programs (R152, R153), the epilogue's element
pipeline (R140-R145) and output conversion (R135-R137), the soft maximum (R156-R159) and RMS normalisation (R160). -/

namespace Sys2Proof.Machine

/-! ### Segment tables (R148) -/

/-- An integer as an FP32 code. -/
def intCode (e : Int) : Nat := round32 (.fin (decide (e < 0)) e.natAbs 0)

/-- ⌊v⌋ of a finite value. -/
def FV.floor : FV → Int
  | .fin n m e =>
    let x : Int := if n then -(m : Int) else m
    if 0 ≤ e then x * 2 ^ e.toNat else Int.fdiv x (2 ^ (-e).toNat)
  | _ => 0

/-- The top `b` mantissa bits of a finite value. -/
def topBits (v : FV) (b : Nat) : Nat :=
  match v with
  | .fin _ m _ => let l := Nat.log2 m
                  (m - 2 ^ l) * 2 ^ b / 2 ^ l
  | _ => 0

/-- A segment at the actual argument. -/
def segAt (t : SegTable) (i a : Nat) : Nat :=
  match t.segs[i]? with
  | some g => let d := sub32 a g.x0
              fma32 (fma32 g.c2 d g.c1) d g.c0
  | none => nan32

/-- R148: the segment, or the LOW or HIGH action, at the reduced argument `a`. -/
def segLookup (t : SegTable) (a : Nat) : Nat :=
  let v := dec32 a
  let n := t.segs.length
  let half := if t.head.signMode = 0 ∧ !v.lt (.fin false 0 0) then n / 2 else 0
  let last := half + (if t.head.signMode = 0 then n / 2 else n) - 1
  let act := fun (k value i : Nat) => if k = 0 then value else if k = 1 then a else segAt t i a
  if v.isZero || decide (v.ilog2 < t.head.expMin) then act t.head.lowAction t.head.lowValue half
  else if t.head.expMax < v.ilog2 then act t.head.highAction t.head.highValue last
  else segAt t (half + (v.ilog2 - t.head.expMin).toNat * 2 ^ t.head.mbits + topBits v t.head.mbits) a

/-- The exponent and argument of the LOG, RECIP and RSQRT reductions of a non-zero value; zero stands for itself. -/
def reduceExp (pre : Nat) (v : FV) : Int × FV :=
  match v with
  | .fin n m e =>
    if m = 0 then (0, v)
    else
      let k := v.ilog2
      let norm := FV.fin false m e
      if pre = 2 then
        -- 0.75 ≤ m < 1.5
        let k := if (FV.fin false 3 (k - 1)).le norm then k + 1 else k
        (k, (FV.fin n m e).scale (-k))
      else if pre = 4 then
        let k := if k % 2 = 0 then k else k - 1
        (k, norm.scale (-k))
      else (k, norm.scale (-k))
  | _ => (0, v)

/-- R148 after SIGN_MODE. LOG and RSQRT of a negative number under SIGN_MODE 0: the rule states no result. -/
def tableCore (t : SegTable) (x : Nat) : Nat :=
  let v := dec32 x
  let neg := v.lt (.fin false 0 0)
  match t.head.pre with
  | 0 => segLookup t x
  | 1 =>
    let tt := v.mul ((dec32 t.head.kPreHi).add (dec32 t.head.kPreLo))
    if !tt.isFin then nan32
    else
      let n := tt.floor
      let a := round32 (tt.add (.fin (decide (0 < n)) n.natAbs 0))
      round32 ((dec32 (segLookup t a)).scale n)
  | 2 =>
    if neg then Config.openResult 2 x % 2 ^ 32
    else
      let r := reduceExp 2 v
      fma32 (intCode r.1) t.head.kPostHi (fma32 (intCode r.1) t.head.kPostLo (segLookup t (round32 r.2)))
  | 3 =>
    let r := reduceExp 3 v
    let q := (dec32 (segLookup t (round32 r.2.abs))).scale (-r.1)
    round32 (if bit x 31 then q.neg else q)
  | _ =>
    if neg then Config.openResult 4 x % 2 ^ 32
    else
      let r := reduceExp 4 v
      round32 ((dec32 (segLookup t (round32 r.2))).scale (-(r.1 / 2)))

/-- R148: a table at an FP32 input. -/
def evalTable (t : SegTable) (x : Nat) : Nat :=
  let v := dec32 x
  if v.isNan then nan32
  else if v.isInf then (if bit x 31 then t.head.ninf else t.head.pinf)
  else
    match t.head.signMode with
    | 1 => let y := tableCore t (x % 2 ^ 31)
           if bit x 31 then round32 (dec32 y).neg else y
    | 2 => tableCore t (x % 2 ^ 31)
    | 3 => if v.lt (.fin false 0 0) then t.head.negValue else tableCore t x
    | _ => tableCore t x

/-! ### Micro-programs (R151-R153) -/

/-- The larger (or smaller) of two codes; which of +0 and −0 a row's extreme is, the rule does not say. -/
def pick32 (least : Bool) (a b : Nat) : Nat :=
  let x := dec32 a
  let y := dec32 b
  if x.isNan || y.isNan then nan32
  else if x.lt y then (if least then a else b)
  else if y.lt x then (if least then b else a)
  else if a = b then a
  else if Config.openResult 9 (b2n least) % 2 = 0 then a else b

/-- R153: RED over a row. -/
def redRow (aux : Nat) (l : List Nat) : Nat :=
  match aux, l with
  | 0, l => sum32 l
  | _, [] => 0
  | k, x :: xs => xs.foldl (pick32 (k == 2)) (if (dec32 x).isNan then nan32 else x)

/-- R152: EXPX. -/
def expx (a : Nat) : Nat :=
  match dec32 a with
  | .fin _ m _ => if m = 0 then intCode (-150) else intCode (dec32 a).ilog2
  | _ => nan32

/-- Truncation of a finite value toward zero, clamped to ±300; infinities clamp. -/
def truncClamp (v : FV) : Int :=
  match v with
  | .inf n => if n then -300 else 300
  | .fin n _ _ =>
    let m := v.abs.floor
    let m := if 300 < m then 300 else m
    if n then -m else m
  | .nan => 0

/-- R152: SCL. -/
def scl (a b : Nat) : Nat := if (dec32 b).isNan then nan32 else round32 ((dec32 a).scale (truncClamp (dec32 b)))

def cmp32 (aux a b : Nat) : Nat :=
  let x := dec32 a
  let y := dec32 b
  let r := match aux with
    | 0 => x.lt y
    | 1 => x.le y
    | 2 => x.eqv y
    | _ => !x.eqv y
  if r then one32 else 0

/-- One step in one lane, RED apart. -/
def laneStep (lut : Nat → Nat → Nat) (consts : List Nat) (w : Nat) (regs : List Nat) : List Nat :=
  let src := fun c => if c < 16 then regs.getD c 0 else consts.getD (c - 16) 0
  let a := src (stepA w)
  let b := src (stepB w)
  let c := src (stepC w)
  let r := match stepOp w with
    | 1 => fma32 a b c
    | 2 => add32 a b
    | 3 => mul32 a b
    | 4 => cmp32 (stepAux w) a b
    | 5 => if (dec32 c).isZero || (dec32 c).isNan then b else a
    | 6 => lut (stepAux w) a
    | 7 => expx a
    | _ => scl a b
  regs.set (stepDst w) r

/-- R153: the steps of a program over a whole row, up to its first END. -/
def runSteps (lut : Nat → Nat → Nat) (consts : List Nat) : List Nat → List (List Nat) → List (List Nat)
  | [], lanes => lanes
  | w :: ws, lanes =>
    if stepOp w = 0 then lanes
    else if stepOp w = 9 then
      let src := fun (regs : List Nat) => if stepA w < 16 then regs.getD (stepA w) 0 else consts.getD (stepA w - 16) 0
      let r := redRow (stepAux w) (lanes.map src)
      runSteps lut consts ws (lanes.map fun regs => regs.set (stepDst w) r)
    else runSteps lut consts ws (lanes.map (laneStep lut consts w))

/-- R151: v0 the element, v1 round_fp32(1 / row length), v2 the index. -/
def runProgram (lut : Nat → Nat → Nat) (p : Program) (row : List Nat) : List Nat :=
  let inv := round32Rat false 1 row.length
  let lanes := row.zipIdx.map fun x => x.1 :: inv :: intCode x.2 :: List.replicate 13 0
  (runSteps lut p.consts p.steps lanes).map fun regs => regs.getD 0 0

/-! ### FUNC (R140, R143) -/

/-- A function as the operation's context resolves it. -/
inductive ArcFn where
  | ident
  | builtin (f : Builtin)
  | table (t : SegTable)
  | program (p : Program)

/-- R140: the table or program in a slot of a context. -/
def ctxTable (s : State) (ctx slot : Nat) : Option SegTable :=
  (ctxOf s ctx).bind fun c => c.tables[slot]?.bind fun id => (resident s 4 id).bind fun o =>
    match o.body with | .arcTable t => some t | _ => none

def ctxProgram (s : State) (ctx slot : Nat) : Option Program :=
  (ctxOf s ctx).bind fun c => c.programs[slot]?.bind fun id => (resident s 4 id).bind fun o =>
    match o.body with | .arcProgram p => some p | _ => none

/-- R140: valid FUNC codes. -/
def funcCodeOk (f : Nat) : Bool := f ≤ 0x0A || (0x20 ≤ f && f ≤ 0x5F)

/-- What a valid FUNC names in a context; none where the slot is empty. -/
def arcFn (s : State) (ctx f : Nat) : Option ArcFn :=
  if f = 0 then some .ident
  else if f ≤ 0x0A then (Builtin.ofCode f).map .builtin
  else if f < 0x40 then (ctxTable s ctx (f - 0x20)).map .table
  else (ctxProgram s ctx (f - 0x40)).map .program

/-- R152: LUT: a built-in function, or a table of the context. The spec states no result where the context leaves the
slot empty. -/
def lutOf (s : State) (ctx f x : Nat) : Nat :=
  match arcFn s ctx f with
  | some (.builtin b) => builtin32 b x
  | some (.table t) => evalTable t x
  | _ => Config.openResult (0x100 + f) x % 2 ^ 32

/-- Step 3 of R141 over a row. -/
def applyFn (s : State) (ctx : Nat) (f : ArcFn) (us : List Nat) : List Nat :=
  match f with
  | .ident => us
  | .builtin b => us.map (builtin32 b)
  | .table t => us.map (evalTable t)
  | .program p => runProgram (lutOf s ctx) p us

/-! ### Output (R135-R137, R140, R142, R144) -/

/-- R140: OUT_FMT. -/
def outElt : Nat → Option Elt
  | 0 => some .fp32 | 1 => some .bf16 | 2 => some .e4m3 | 3 => some .e5m2 | 4 => some .int8 | 5 => some .mxE4m3
  | 6 => some .mxE2m1
  | _ => none

/-- A row as written: element bytes, block scales, saturations and NaN-to-zeros, MX blocks with scale 0xFF. -/
structure OutRow where
  bytes : List Byte
  scales : List Byte
  sat : Nat
  nanBlocks : Nat
  deriving DecidableEq, Repr

/-- Split a list into blocks of 32. -/
def blocks32 {α : Type} : Nat → List α → List (List α)
  | 0, _ => []
  | n + 1, l => if l.isEmpty then [] else l.take 32 :: blocks32 n (l.drop 32)

/-- R135-R137: FP32 results as a row of a format; a partial last MX block has zero elements past N. -/
def convertRow (t : Elt) (ws : List Nat) : OutRow :=
  if t.isMx then
    let bs := (blocks32 (ws.length + 1) (ws.map dec32)).map (mxBlock t)
    ⟨t.pack (bs.flatMap fun b => b.2.1 ++ List.replicate (32 - b.2.1.length) 0), bs.map fun b => BitVec.ofNat 8 b.1, sumN (bs.map fun b => b.2.2.1),
     (bs.filter fun b => b.2.2.2).length⟩
  else
    let cs := ws.map fun w => convertElt t (dec32 w)
    ⟨t.pack (cs.map (·.1)), [], sumN (cs.map (·.2)), 0⟩

/-- R142: the output code that replaces steps 3 to 5, where a table's entry or a built-in's exact rounding gives one. -/
def exactCode (f : ArcFn) (t : Elt) (u : Nat) : Option (Nat × Nat) :=
  if t ≠ .bf16 ∧ t ≠ .e4m3 ∧ t ≠ .e5m2 then none
  else if (dec32 u).isNan then none
  else
    let c := (convertElt t (dec32 u)).1
    if !(t.val c).eqv (dec32 u) then none
    else
      match f with
      | .builtin b => some (builtinNarrow b t u)
      | .table g =>
        let fmt := if t = .bf16 then 8 else if t = .e4m3 then 0 else 1
        (g.excs.find? fun e => e.1 == fmt && e.2.1 == c).map fun e => (e.2.2, 0)
      | _ => none

/-- Steps 3 to 5 of R141 over a row, R142 applied where s is exactly 1.0. -/
def finishRow (s : State) (ctx : Nat) (f : ArcFn) (t : Elt) (scale : Nat) (us : List Nat) : OutRow :=
  let ws := (applyFn s ctx f us).map (mul32 scale)
  if scale = one32 ∧ !t.isMx then
    let cs := (us.zip ws).map fun x => match exactCode f t x.1 with | some r => r | none => convertElt t (dec32 x.2)
    ⟨t.pack (cs.map (·.1)), [], sumN (cs.map (·.2)), 0⟩
  else convertRow t ws

/-! ### Soft maximum (R156-R159) -/

def maxCode (l : List Nat) : Nat :=
  match l with
  | [] => ninf32
  | x :: xs => xs.foldl (fun a b => if (dec32 a).lt (dec32 b) then b else a) x

/-- R157: a NaN or +∞ among the z. -/
def badRow (zs : List Nat) : Bool := zs.any fun z => (dec32 z).isNan || z == pinf32

/-- What one row gives: output codes, the two row states, the column factor, and which count it adds to. -/
structure RowOut where
  ys : List Nat
  m : Nat
  l : Nat
  c : Nat
  nan : Bool
  empty : Bool
  deriving DecidableEq, Repr

/-- R156, R157: one row of SOFTMAX, before conversion. -/
def softmaxRow (scale : Nat) (xs : List Nat) : RowOut :=
  let zs := xs.map (mul32 scale)
  if badRow zs then ⟨xs.map fun _ => nan32, 0, 0, 0, true, false⟩
  else
    let mx := maxCode zs
    if mx = ninf32 then ⟨xs.map fun _ => 0, 0, 0, 0, false, true⟩
    else
      let es := zs.map fun z => if z = ninf32 then 0 else exp32 (sub32 z mx)
      let r := recip32 (sum32 es)
      ⟨es.map fun e => mul32 e r, 0, 0, 0, false, false⟩

/-- The FP32 values of a row as it is written in a format. -/
def writtenVals (t : Elt) (ws : List Nat) : List Nat :=
  if t.isMx then
    ((blocks32 (ws.length + 1) (ws.map dec32)).map (mxBlock t)).flatMap fun b =>
      b.2.1.map fun c => if b.1 = 0xFF then nan32 else round32 ((t.val c).scale ((b.1 : Int) - 127))
  else ws.map fun w => round32 (t.val (convertElt t (dec32 w)).1)

/-- R158: one row of SOFTMAX_PART: p before conversion, (m', l') and c. `conv` gives the output elements' values as
written, which l' sums. -/
def softmaxPartRow (scale : Nat) (conv : List Nat → List Nat) (m l : Nat) (xs : List Nat) : RowOut :=
  let zs := xs.map (mul32 scale)
  if badRow zs then ⟨xs.map fun _ => nan32, nan32, nan32, nan32, true, false⟩
  else
    let mx := maxCode zs
    let m' := if (dec32 m).lt (dec32 mx) then mx else m
    if (dec32 m').isNan then ⟨xs.map fun _ => nan32, nan32, nan32, nan32, false, false⟩
    else
      let c := if m = ninf32 then 0 else exp32 (sub32 m m')
      let ps := zs.map fun z => if m' = ninf32 then 0 else exp32 (sub32 z m')
      ⟨ps, m', add32 (mul32 c l) (sum32 (conv ps)), c, false, mx == ninf32⟩

/-- R159: one row of ROWSCALE. -/
def rowScale (c : Nat) (xs : List Nat) : List Nat := xs.map fun x => if (dec32 c).isZero && !bit c 31 then 0 else mul32 x c

/-! ### RMS normalisation (R160): 64-bit significands -/

/-- Round a positive rational to 64 bits. -/
def round64 (a b : Nat) : FV :=
  if a = 0 then .fin false 0 0
  else
    let k := ilog2Rat a b
    let e := k - 63
    if 0 ≤ e then .fin false (rneDiv a (b * 2 ^ e.toNat)) e else .fin false (rneDiv (a * 2 ^ (-e).toNat) b) e

/-- A non-negative value as a fraction. -/
def FV.frac : FV → Nat × Nat
  | .fin _ m e => dyadic m e
  | _ => (0, 1)

def FV.r64 (v : FV) : FV := round64 v.frac.1 v.frac.2

/-- √v to 64 bits. -/
def sqrt64 (v : FV) : FV :=
  match v with
  | .fin _ m e =>
    if m = 0 then v
    else
      let k : Nat := 2 * 80 + (if e % 2 = 0 then 0 else 1)
      let m' := m * 2 ^ k
      let r := isqrt m'
      let sticky := if r * r = m' then 0 else 1
      (FV.fin false (2 * r + sticky) ((e - k) / 2 - 1)).r64
  | _ => v

/-- 1 / v to 64 bits. -/
def inv64 (v : FV) : FV := round64 v.frac.2 v.frac.1

/-- R160: one row, before conversion; true where the row is counted. -/
def rmsRow (eps : Nat) (gain : Option (List Nat)) (xs : List Nat) : List Nat × Bool :=
  let vs := xs.map dec32
  if vs.any fun v => !v.isFin then (xs.map fun _ => nan32, true)
  else
    match vs.filter fun v => !v.isZero with
    | [] => (xs.map fun _ => 0, false)
    | v :: r =>
      let e := r.foldl (fun a x => max a x.ilog2) v.ilog2
      let ts := vs.map fun x => x.scale (-e)
      let q : FV := ts.foldl (fun (a x : FV) => (a.add (x.mul x)).r64) (FV.fin false 0 0)
      let ms := ((round64 q.frac.1 (q.frac.2 * xs.length)).add ((dec32 eps).scale (-2 * e))).r64
      let rr := inv64 (sqrt64 ms)
      (ts.zipIdx.map fun x =>
        let g := match gain with | some l => dec32 (l.getD x.2 0) | none => .fin false 1 0
        round32 ((x.1.mul rr).mul g), false)

end Sys2Proof.Machine
end

