-- ==== Sys2Proof/Machine/Steps.lean ====
section
/-! DEFINITION. The stream steps other than array operations and waypoints: Arc steps (R154-R160), Sextant steps
(R195-R197), feature updates (R218, R219) and moves (R439). -/

namespace Sys2Proof.Machine

/-! ### What the checks share -/

def stepCtx (b : List Byte) : Nat := u16 b 54

/-- A range of the tile store. -/
def inTile (a len : Nat) : Bool := decide (a + len ≤ tileBytes)

/-- The outer span of `n` rows of `len` bytes at a stride (R105). -/
def rowSpan (n len stride : Nat) : Nat := (n - 1) * stride + len

/-- An element format an Arc step or an update reads. -/
def arcInFmt (c : Nat) : Option Elt :=
  if c = 0 ∨ c = 1 ∨ c = 8 ∨ c = 9 then Elt.ofCode c else none

/-- R90, R91, R155, R29, R297: what every checked step meets before it runs: a usable context, its unit, and inputs
that can be read. -/
def stepRun (s : State) (sid lo hi : Nat) (b : List Byte) (ins : List (Nat × Nat)) (run : State → State) : State :=
  if !ctxUsable s (stepCtx b) then failStream s sid .noResource
  else onUnit s sid lo hi fun s => withCtx s sid (stepCtx b) fun s =>
    if ins.any fun r => poisoned s r.1 r.2 then failStream s sid .dataError else run s

/-! ### Arc steps (R154, R155) -/

def aIn (b : List Byte) : Option Elt := if u8 b 2 < 16 then arcInFmt (u8 b 2) else none
def aFunc (b : List Byte) : Nat := u8 b 4
def aOut (b : List Byte) : Option Elt := outElt (u8 b 5)
def aRows (b : List Byte) : Nat := u32 b 8
def aLen (b : List Byte) : Nat := u32 b 12
def aInAddr (b : List Byte) : Nat := u32 b 16
def aInStride (b : List Byte) : Nat := u32 b 20
def aOutAddr (b : List Byte) : Nat := u32 b 24
def aOutStride (b : List Byte) : Nat := u32 b 28
def aState (b : List Byte) : Nat := u32 b 32
def aAux (b : List Byte) : Nat := u32 b 36
def aScale (b : List Byte) : Nat := u32 b 40
def aEps (b : List Byte) : Nat := u32 b 44
def aFinal (b : List Byte) : Bool := bit (u8 b 48) 0

/-- R155: a SCALE or EPS is not NaN, infinite or negative. -/
def scaleOk (c : Nat) : Bool := let v := dec32 c
                                v.isFin && !v.lt (.fin false 0 0)

/-- R154, R155: an Arc step in order. An address must lie in the tile store; rows start on whole words (R309). -/
def arcOk (_s : State) (b : List Byte) : Bool :=
  let op := u8 b 1
  let useState := op == 3 || (op == 4 && aFinal b)
  match aIn b, aOut b with
  | some i, some o =>
    zeros b 6 8 && zeros b 49 54 && zeros b 56 64 && funcCodeOk (aFunc b) && (op == 1 || aFunc b == 0)
      && 1 ≤ aRows b && aRows b ≤ 65535 && 1 ≤ aLen b && aLen b ≤ 65536 && aRows b * aLen b ≤ 16777216
      && aInAddr b % 64 == 0 && aInStride b % 64 == 0 && aOutAddr b % 64 == 0 && aOutStride b % 64 == 0
      && inTile (aInAddr b) (rowSpan (aRows b) (i.bytes (aLen b)) (aInStride b))
      && inTile (aOutAddr b) (rowSpan (aRows b) (o.bytes (aLen b)) (aOutStride b))
      && (if useState then inTile (aState b) (8 * aRows b) else aState b == 0)
      && (aAux b == 0xFFFFFFFF
          || (if op == 3 || (op == 4 && !aFinal b) then inTile (aAux b) (4 * aRows b)
              else op != 5 || inTile (aAux b) (4 * aLen b)))
      && scaleOk (aScale b) && scaleOk (aEps b) && (op == 5 || aEps b == 0)
      && u8 b 48 < 2 && (op == 4 || !aFinal b)
  | _, _ => false

/-- Row r of the input as FP32 codes. -/
def arcRow (s : State) (b : List Byte) (r : Nat) : List Nat :=
  let t := (aIn b).getD .fp32
  let row := s.mem.read (aInAddr b + r * aInStride b) (t.bytes (aLen b))
  (List.range (aLen b)).map fun i => round32 (t.val (t.code row i))

/-- What an Arc step reads. -/
def arcIns (b : List Byte) : List (Nat × Nat) :=
  let n := aRows b
  ((List.range n).map fun r => (aInAddr b + r * aInStride b, ((aIn b).getD .fp32).bytes (aLen b)))
    ++ (if aState b = 0 then [] else [(aState b, 8 * n)])
    ++ (if aAux b = 0xFFFFFFFF then []
        else if u8 b 1 = 4 ∧ !aFinal b then [(aAux b, 4 * n)]
        else if u8 b 1 = 5 then [(aAux b, 4 * aLen b)] else [])

/-- Write output rows at their stride. Where the block scales of an MX output go, the spec does not say: a free place of
the tile store (assumption log 22). -/
def writeRows (s : State) (t : Elt) (addr stride : Nat) (rows : List OutRow) : State :=
  let base := draw s % (tileBytes / 64) * 64
  let s := if t.isMx then drawn s else s
  rows.zipIdx.foldl (fun s r =>
    let s := devWrite s (addr + r.2 * stride) r.1.bytes
    if r.1.scales.isEmpty then s else devWrite s (base + r.2 * alignUp r.1.scales.length 64) r.1.scales) s

/-- R136, R137, R434: the counts of an Arc output. -/
def countRows (s : State) (p : Nat) (rows : List OutRow) : State :=
  let s := countEv s 1 0 0 (some p) (sumN (rows.map (·.sat)))
  countEv s 1 1 0 (some p) (sumN (rows.map (·.nanBlocks)))

def arcWrite (s : State) (p : Nat) (b : List Byte) (rows : List OutRow) : State :=
  countRows (writeRows s ((aOut b).getD .fp32) (aOutAddr b) (aOutStride b) rows) p rows

/-- One Arc step whose rows each give a row. -/
def arcStep (sid op : Nat) (s : State) (run : State → Stream → List Byte → State) : State :=
  stepCmd s sid 2 op [1, 2, 3, 4, 5] arcOk fun s x b =>
    stepRun s sid 25 28 b (arcIns b) fun s => headDone (run s x b) sid x

/-- Helm's check of FUNC against the context: an empty slot ends the stream NO_RESOURCE (R140, R155). -/
def slotUsable (s : State) (ctx f : Nat) : Bool :=
  if f ≤ 0x0A then true
  else
    match ctxOf s ctx with
    | some c => if f < 0x40 then decide (f - 0x20 < c.tables.length) else decide (f - 0x40 < c.programs.length)
    | none => false

/-- ARC_APPLY (R154): convert(round_fp32(s × f(x))), with R142 at s = 1.0. -/
def execArcApply (sid : Nat) (s : State) : Host.Outcome State Fault Refusal :=
  .next (stepCmd s sid 2 1 [1, 2, 3, 4, 5] arcOk fun s x b =>
    if !slotUsable s (stepCtx b) (aFunc b) then failStream s sid .noResource
    else stepRun s sid 25 28 b (arcIns b) fun s =>
      match arcFn s (stepCtx b) (aFunc b) with
      | none => failStream s sid .noResource
      | some f =>
        let t := (aOut b).getD .fp32
        let rows := (List.range (aRows b)).map fun r => finishRow s (stepCtx b) f t (aScale b) (arcRow s b r)
        headDone (arcWrite s x.part b rows) sid x)

/-- ARC_SOFTMAX (R156, R157). -/
def execArcSoftmax (sid : Nat) (s : State) : Host.Outcome State Fault Refusal :=
  .next (arcStep sid 2 s fun s x b =>
    let rs := (List.range (aRows b)).map fun r => softmaxRow (aScale b) (arcRow s b r)
    let s := countEv s 1 2 0 (some x.part) (rs.filter (·.nan)).length
    let s := countEv s 1 3 0 (some x.part) (rs.filter (·.empty)).length
    arcWrite s x.part b (rs.map fun r => convertRow ((aOut b).getD .fp32) r.ys))

/-- ARC_SOFTMAX_PART (R158): p to OUT, c to AUX unless there is none (R154), (m', l') to STATE. -/
def execArcSoftmaxPart (sid : Nat) (s : State) : Host.Outcome State Fault Refusal :=
  .next (arcStep sid 3 s fun s x b =>
    let t := (aOut b).getD .fp32
    let rs := (List.range (aRows b)).map fun r =>
      let st := s.mem.read (aState b + 8 * r) 8
      softmaxPartRow (aScale b) (writtenVals t) (u32 st 0) (u32 st 4) (arcRow s b r)
    let s := countEv s 1 2 0 (some x.part) (rs.filter (·.nan)).length
    let s := countEv s 1 3 0 (some x.part) (rs.filter (·.empty)).length
    let s := arcWrite s x.part b (rs.map fun r => convertRow t r.ys)
    let s := if aAux b = 0xFFFFFFFF then s else devWrite s (aAux b) (f32Bytes (rs.map (·.c)))
    devWrite s (aState b) (f32Bytes (rs.flatMap fun r => [r.m, r.l])))

/-- R159: the factor of a row: reciprocal(l) with FINAL, else c from AUX. Where a step without FINAL has no AUX (R154
allows none) the spec gives no factor: a free value. -/
def rowFactor (s : State) (b : List Byte) (r : Nat) : Nat :=
  if aFinal b then
    let l := u32 (s.mem.read (aState b + 8 * r + 4) 4) 0
    if l = 0 then 0 else recip32 l
  else if aAux b = 0xFFFFFFFF then drawAt s r % 2 ^ 32
  else u32 (s.mem.read (aAux b + 4 * r) 4) 0

/-- ARC_ROWSCALE (R159). -/
def execArcRowscale (sid : Nat) (s : State) : Host.Outcome State Fault Refusal :=
  .next (arcStep sid 4 s fun s x b =>
    let ls := (List.range (aRows b)).map fun r => u32 (s.mem.read (aState b + 8 * r + 4) 4) 0
    let cs := (List.range (aRows b)).map (rowFactor s b)
    let s := if !aFinal b && aAux b == 0xFFFFFFFF then drawnBy s (aRows b) else s
    let s' := if aFinal b then countEv s 1 4 0 (some x.part) (ls.filter (· == 0)).length else s
    arcWrite s' x.part b ((List.range (aRows b)).map fun r =>
      convertRow ((aOut b).getD .fp32) (rowScale (cs.getD r 0) (arcRow s b r))))

/-- ARC_RMSNORM (R160). -/
def execArcRmsnorm (sid : Nat) (s : State) : Host.Outcome State Fault Refusal :=
  .next (arcStep sid 5 s fun s x b =>
    let gain := if aAux b = 0xFFFFFFFF then none else some (readF32 s (aAux b) (aLen b))
    let rs := (List.range (aRows b)).map fun r => rmsRow (aEps b) gain (arcRow s b r)
    let s := countEv s 1 5 0 (some x.part) (rs.filter (·.2)).length
    arcWrite s x.part b (rs.map fun r => convertRow ((aOut b).getD .fp32) r.1))

/-! ### Sextant steps (R191-R197) -/

def xFmt (b : List Byte) : Nat := u8 b 2 % 16
def xAsc (b : List Byte) : Bool := bit (u8 b 2) 4
def xCap (b : List Byte) : Nat := u16 b 4
def xCount (b : List Byte) : Nat := u32 b 8
def xRecs (b : List Byte) : Bool := u8 b 12 == 1
def xIn (b : List Byte) : Nat := u32 b 16
def xOut (b : List Byte) : Nat := u32 b 20
def xOutCap (b : List Byte) : Nat := u32 b 24
def xThreshold (b : List Byte) : Nat := u32 b 28
def xResult (b : List Byte) : Nat := u32 b 32

/-- R191: key a ranks strictly above key b. -/
def keyAbove (fmt : Nat) (asc : Bool) (a b : Nat) : Bool :=
  if fmt = 9 then rankAbove32 asc a b
  else if fmt = 10 then (if asc then decide (s32 a < s32 b) else decide (s32 b < s32 a))
  else (if asc then decide (a < b) else decide (b < a))

def keyNan (fmt k : Nat) : Bool := fmt == 9 && (dec32 k).isNan

/-- R195: a Sextant step in order. -/
def sextantOk (_s : State) (b : List Byte) : Bool :=
  let sel := u8 b 1 == 1
  9 ≤ xFmt b && xFmt b ≤ 11 && u8 b 2 < 32 && zeros b 6 8 && zeros b 13 16 && zeros b 36 54 && zeros b 56 64
    && (if sel then 1 ≤ xCap b && xCap b ≤ 1024 && xOutCap b == 0 && xThreshold b == 0
        else xCap b == 0 && 1 ≤ xOutCap b && xOutCap b ≤ 16777216 && !keyNan (xFmt b) (xThreshold b))
    && 1 ≤ xCount b && xCount b ≤ 16777216 && u8 b 12 < 2 && xIn b % 64 == 0 && xOut b % 64 == 0 && xResult b % 8 == 0
    && inTile (xIn b) (xCount b * (if xRecs b then 16 else 4))
    && inTile (xOut b) (16 * (if sel then min (xCap b) (xCount b) else min (xOutCap b) (xCount b)))
    && inTile (xResult b) 8

/-- R196: an element of a job: key, sequence number, payload. -/
abbrev SxElem := Nat × Nat × Nat

/-- The input of a job in order. -/
def sxInput (s : State) (b : List Byte) : List SxElem :=
  (List.range (xCount b)).map fun i =>
    if xRecs b then
      let r := s.mem.read (xIn b + 16 * i) 16
      (u32 r 0, i, u64 r 8)
    else (u32 (s.mem.read (xIn b + 4 * i) 4) 0, i, i)

def sxRecord (e : SxElem) : List Byte := le 4 e.1 ++ le 4 e.2.1 ++ le 8 e.2.2

/-- R191, R193: the order of a list: by key, then by sequence number. -/
def sxAbove (fmt : Nat) (asc : Bool) (a b : SxElem) : Bool :=
  keyAbove fmt asc a.1 b.1 || (!keyAbove fmt asc b.1 a.1 && decide (a.2.1 < b.2.1))

def sxIns (b : List Byte) : List (Nat × Nat) := [(xIn b, xCount b * (if xRecs b then 16 else 4))]

/-- R192: a list of a bounded length: elements that rank below its last entry, or drop off its end, are discarded. -/
def topList {α : Type} (above : α → α → Bool) (cap : Nat) (l : List α) : List α :=
  l.foldl (fun acc x => (insertBy above x acc).take cap) []

/-- R194: a Sextant job runs on a free list; with none it waits. -/
def onList (s : State) (run : Nat → State) : State :=
  match freeList s with
  | some l => run l
  | none => s

/-- SEXTANT_SELECT (R196). -/
def execSextantSelect (sid : Nat) (s : State) : Host.Outcome State Fault Refusal :=
  .next (stepCmd s sid 3 1 [1, 2] sextantOk fun s x b =>
    stepRun s sid 23 24 b (sxIns b) fun s => onList s fun l =>
      let es := sxInput s b
      let out := topList (sxAbove (xFmt b) (xAsc b)) (xCap b) es
      let nans := (es.filter fun e => keyNan (xFmt b) e.1).length
      let s := devWrite s (xOut b) (out.flatMap sxRecord)
      let s := devWrite s (xResult b) (le 4 out.length ++ le 4 nans)
      let s := countEv s 3 0 l (some x.part) (es.length - out.length)
      headDone (countEv s 3 1 l (some x.part) nans) sid x)

/-- SEXTANT_COMPACT (R197). -/
def execSextantCompact (sid : Nat) (s : State) : Host.Outcome State Fault Refusal :=
  .next (stepCmd s sid 3 2 [1, 2] sextantOk fun s x b =>
    stepRun s sid 23 24 b (sxIns b) fun s => onList s fun l =>
      let es := sxInput s b
      let q := es.filter fun e => !keyNan (xFmt b) e.1 && keyAbove (xFmt b) (xAsc b) e.1 (xThreshold b)
      let out := q.take (xOutCap b)
      let s := devWrite s (xOut b) (out.flatMap sxRecord)
      let s := devWrite s (xResult b) (le 4 out.length ++ le 4 q.length)
      headDone (countEv s 3 1 l (some x.part) (es.filter fun e => keyNan (xFmt b) e.1).length) sid x)

/-! ### Feature updates (R218, R219) -/

/-- R210: elements per row. -/
def rowElts (t : FeatTable) : Nat := t.rowBytes / featEltBytes t.elemFmt

def tableFor (s : State) (id : Nat) : Option FeatTable := (featTableOf s id).map (·.2)

def uTable (b : List Byte) : Nat := u16 b 4
def uCount (b : List Byte) : Nat := u32 b 8
def uIn (b : List Byte) : Nat := u32 b 12
def uStride (b : List Byte) : Nat := u32 b 16

/-- R218: an update step in order; what depends on the table is judged while it is resident. -/
def updateOk (s : State) (b : List Byte) : Bool :=
  u8 b 2 == 0 && zeros b 6 8 && zeros b 20 54 && zeros b 56 64 && 1 ≤ uCount b && uCount b ≤ 65536
    && uIn b % 64 == 0 && uStride b % 64 == 0
    && (match tableFor s (uTable b) with
        | some t => t.updatable && decide (8 + 4 * rowElts t ≤ uStride b)
            && inTile (uIn b) (rowSpan (uCount b) (8 + 4 * rowElts t) (uStride b))
        | none => true)

/-- R17, R219: the other member of a device's twin pair, if it has one. -/
def twinOf (s : State) (dev : Nat) : Option Nat :=
  if dev = devno s then (if twinEn s then some (twinDev s) else none)
  else
    match s.cell.shards.find? fun x => x.active == dev || x.twin == dev with
    | some x => let o := if x.active = dev then x.twin else x.active
                if o = 0xFFFF ∨ o = dev then none else some o
    | none => none

/-- R219: the devices that hold a shard's rows. -/
def shardOwners (s : State) (t : FeatTable) (sh : Nat) : List Nat :=
  let d := t.owners.getD sh 0xFFFF
  d :: (match twinOf s d with | some o => [o] | none => [])

/-- R219: one record of the batch goes to its owners; a local one is delivered in the same form. -/
def sendUpdate (p sid step : Nat) (s : State) (r : GradRec × FeatTable) : State :=
  forEach s (shardOwners s r.2 (r.1.row % r.2.shards)) fun s d =>
    if d = devno s then { s with feat := { s.feat with contribs := s.feat.contribs ++ [r.1] } }
    else sendMsg s d p (.update sid step r.1)

/-- R218: a record that is discarded at the source. -/
def gradBad (t : FeatTable) (row : Nat) (g : List Nat) : Bool :=
  decide (t.rowCount ≤ row) || g.any fun c => !(dec32 c).isFin

/-- Whether messages of a step still wait to be sent or acknowledged (R218, R338, R439). -/
def msgOf (sid step : Nat) : Msg → Bool
  | .update a b _ => a == sid && b == step
  | .bulk a b .. => a == sid && b == step
  | _ => false

def stepOutstanding (s : State) (sid step : Nat) : Bool :=
  (s.links.ports.any fun e => e.2.queues.any fun q => q.2.any fun m => msgOf sid step m.2.2)
    || (s.links.tx.any fun x => x.unacked.any fun f => match f.msg with | some m => msgOf sid step m | none => false)

/-- A step whose messages are on their way: it completes at the last acknowledgement. -/
def awaitAcks (s : State) (sid : Nat) (x : Stream) : State :=
  if stepOutstanding s sid x.next then
    passHead { s with feat := { s.feat with acks := s.feat.acks ++ [(sid, x.next)] } } sid
  else headDone s sid x

/-- R219, R430: UPD_EPOCH_US and UPD_GRACE_US. -/
def epochNs (s : State) : Nat := regBits s (rEng 8) 19 0 * 1000
def graceNs (s : State) : Nat := regBits s (rEng 0xC) 19 0 * 1000

/-- R219: when an epoch ends, by the length that was in force in it. -/
def epochEnd (s : State) (e : Nat) : Nat :=
  match s.feat.spans.find? fun x => x.1 ≤ e with
  | some (e0, t0, l) => t0 + (e + 1 - e0) * l
  | none => 0

/-- R219, R430: epochs follow one another in network time; a new UPD_EPOCH_US holds from the next boundary. An epoch numbers
its records from 0. -/
def advanceEpoch (s : State) : State :=
  let stop := epochEnd s s.feat.epoch
  if s.now < stop then s
  else
    let l := epochNs s
    let same := match s.feat.spans with | x :: _ => x.2.2 == l | [] => false
    { s with feat := { s.feat with
        epoch := s.feat.epoch + 1 + (s.now - stop) / l, pos := 0
        spans := if same then s.feat.spans else (s.feat.epoch + 1, stop, l) :: s.feat.spans } }

/-- R219, R430: epochs from READY on: multiples of the length in force then. -/
def startEpochs (s : State) : State :=
  let l := epochNs s
  { s with feat := { s.feat with epoch := s.now / l, pos := 0, spans := [(0, 0, l)] } }

/-- FEATURE_UPDATE (R218, R219): a step belongs to the epoch running when it starts. An owner with no route ends the
stream BAD_DESCRIPTOR (R339). -/
def execFeatureUpdate (sid t : Nat) (s : State) : Host.Outcome State Fault Refusal :=
  let s := advanceEpoch (tick s t)
  .next (stepCmd s sid 4 1 [1] updateOk fun s x b =>
    match tableFor s (uTable b) with
    | none => failStream s sid .noResource
    | some tb =>
      let n := rowElts tb
      stepRun s sid 33 34 b [(uIn b, rowSpan (uCount b) (8 + 4 * n) (uStride b))] fun s =>
        let rs := (List.range (uCount b)).map fun i =>
          (u32 (s.mem.read (uIn b + i * uStride b) 4) 0, readF32 s (uIn b + i * uStride b + 8) n)
        let good := rs.filter fun r => !gradBad tb r.1 r.2
        let grads := good.zipIdx.map fun r =>
          ((⟨uTable b, r.1.1, devno s, s.feat.epoch, s.feat.pos + r.2, r.1.2⟩ : GradRec), tb)
        if grads.any fun g => (shardOwners s tb (g.1.row % tb.shards)).any fun d => !reachable s d then
          failStream s sid .badDescriptor
        else
          let s := { s with feat := { s.feat with pos := s.feat.pos + good.length } }
          let s := countEv s 4 2 (uTable b) (some x.part) (rs.length - good.length)
          awaitAcks (forEach s grads (sendUpdate x.part sid x.next)) sid x)

/-! ### Moves (R439) -/

def mDev (b : List Byte) : Nat := u16 b 4
def mSrc (b : List Byte) : Nat := u64 b 8
def mDst (b : List Byte) : Nat := u64 b 16
def mLen (b : List Byte) : Nat := u32 b 24
def mCols (b : List Byte) : Nat := u32 b 28
def mSrcStride (b : List Byte) : Nat := u32 b 32
def mDstStride (b : List Byte) : Nat := u32 b 36
def mSrcScale (b : List Byte) : Nat := u32 b 40
def mDstScale (b : List Byte) : Nat := u32 b 44
def mToWeight (b : List Byte) : Bool := bit (u8 b 48) 0

/-- R128: the ranges of a matrix of `r` rows of `c` elements, with its scales: rows of a weight layout (one scale row per
32 rows) or vectors (one scale row each). -/
def matRanges (t : Elt) (a r c stride scale : Nat) (weight : Bool) : List (Nat × Nat) :=
  (a, rowSpan r (t.bytes c) stride) ::
    (if !t.isMx then []
     else if weight then [(a + scale, rowSpan (cdiv r 32) c (alignUp c 64))]
     else [(a + scale, rowSpan r (cdiv c 32) (alignUp (cdiv c 32) 64))])

def moveSrc (b : List Byte) : List (Nat × Nat) :=
  if u8 b 1 = 1 then [(mSrc b, mLen b)]
  else match Elt.ofCode (u8 b 2) with
    | some t => matRanges t (mSrc b) (mLen b) (mCols b) (mSrcStride b) (mSrcScale b) (!mToWeight b)
    | none => []

def moveDst (b : List Byte) : List (Nat × Nat) :=
  if u8 b 1 = 1 then [(mDst b, mLen b)]
  else match Elt.ofCode (u8 b 2) with
    | some t => matRanges t (mDst b) (mCols b) (mLen b) (mDstStride b) (mDstScale b) (mToWeight b)
    | none => []

/-- R439: source and destination ranges share no byte. -/
def movesApart (b : List Byte) : Bool :=
  (moveSrc b).all fun x => (moveDst b).all fun y => decide (x.1 + x.2 ≤ y.1) || decide (y.1 + y.2 ≤ x.1)

/-- R439: a move step in order. -/
def moveOk (s : State) (b : List Byte) : Bool :=
  let fin := zeros b 6 8 && zeros b 49 54 && zeros b 56 64 && mSrc b % 64 == 0 && mDst b % 64 == 0
    && (moveSrc b).all fun r => inWindow s r.1 r.2
  if u8 b 1 = 1 then
    fin && u8 b 2 == 0 && 64 ≤ mLen b && mLen b % 64 == 0 && zeros b 28 49
      && (if ownDev s (mDev b) then inWindow s (mDst b) (mLen b) && movesApart b else (routeOf s (mDev b)).isSome)
  else
    match Elt.ofCode (u8 b 2) with
    | none => false
    | some t =>
      fin && mDev b == 0xFFFF && 1 ≤ mLen b && mLen b ≤ 65536 && 1 ≤ mCols b && mCols b ≤ 65536
        && mSrcStride b % 64 == 0 && mDstStride b % 64 == 0
        && (if t.isMx then mSrcScale b % 64 == 0 && mDstScale b % 64 == 0 && u8 b 48 < 2
            else mSrcScale b == 0 && mDstScale b == 0 && u8 b 48 == 0)
        && ((moveDst b).all fun r => inWindow s r.1 r.2) && movesApart b

/-- R93, R94: a move waits for its regulators, and charges the tiers it reads and writes. -/
def moveCharged (s : State) (p : Nat) (src dst : List (Nat × Nat)) (run : State → State) : State :=
  let a := (src.headD (0, 0)).1
  let c := (dst.headD (0, 0)).1
  let n := sumN (src.map (·.2))
  let m := sumN (dst.map (·.2))
  if (n != 0 && !memOpen s p a n) || (m != 0 && !memOpen s p c m) then s
  else
    let s := if n = 0 then s else memCharge s p a n
    run (if m = 0 then s else memCharge s p c m)

/-- MOVE_COPY (R439): on this device, or in messages on Q6 to another. -/
def execMoveCopy (sid : Nat) (s : State) : Host.Outcome State Fault Refusal :=
  .next (stepCmd s sid 6 1 [1, 2] moveOk fun s x b =>
    stepRun s sid 35 42 b (moveSrc b) fun s =>
      let data := s.mem.read (mSrc b) (mLen b)
      if ownDev s (mDev b) then
        moveCharged s x.part (moveSrc b) (moveDst b) fun s => headDone (devWrite s (mDst b) data) sid x
      else
        moveCharged s x.part (moveSrc b) [] fun s =>
          awaitAcks (sendMsg s (mDev b) x.part (.bulk sid x.next x.part (mDst b) data)) sid x)

/-- R128: element (i, j) of a matrix in memory. -/
def matElt (s : State) (t : Elt) (a stride c i j : Nat) : Nat :=
  t.code (s.mem.read (a + i * stride) (t.bytes c)) j

/-- R439: the destination's rows, and for an MX format its scale rows. -/
def transposed (s : State) (t : Elt) (b : List Byte) : List (Nat × List Byte) :=
  let r := mLen b
  let c := mCols b
  let elems := (List.range c).map fun j =>
    (mDst b + j * mDstStride b, t.pack ((List.range r).map fun i => matElt s t (mSrc b) (mSrcStride b) c i j))
  let sa := mSrc b + mSrcScale b
  let da := mDst b + mDstScale b
  let scales :=
    if !t.isMx then []
    else if mToWeight b then
      -- vectors of C elements to a weight tile of K = C rows, N = R columns
      (List.range (cdiv c 32)).map fun g =>
        (da + g * alignUp r 64, (List.range r).map fun i => s.mem.byte (sa + i * alignUp (cdiv c 32) 64 + g))
    else
      (List.range c).map fun j =>
        (da + j * alignUp (cdiv r 32) 64, (List.range (cdiv r 32)).map fun g => s.mem.byte (sa + g * alignUp c 64 + j))
  elems ++ scales

/-- MOVE_TRANSPOSE (R439). -/
def execMoveTranspose (sid : Nat) (s : State) : Host.Outcome State Fault Refusal :=
  .next (stepCmd s sid 6 2 [1, 2] moveOk fun s x b =>
    stepRun s sid 35 42 b (moveSrc b) fun s =>
      moveCharged s x.part (moveSrc b) (moveDst b) fun s =>
        let ws := transposed s ((Elt.ofCode (u8 b 2)).getD .int8) b
        headDone (ws.foldl (fun s w => devWrite s w.1 w.2) s) sid x)

end Sys2Proof.Machine
end

