-- ==== Sys2Proof/Machine/ArrayMath.lean ====
section
/-! DEFINITION. What an array operation computes: its step's fields (R104), its operands as the feeders deliver them
(R128), with the variant's delta on the weight feed (R262, R264), the product rows (R129-R132), the check terms (R112),
and the operands of a table build (R171, R173, R187). -/

namespace Sys2Proof.Machine

/-! ### Fields of an array step (R104) -/

def gFmtX (b : List Byte) : Nat := u8 b 1 % 16
def gFmtW (b : List Byte) : Nat := u8 b 1 / 16
def gLong (b : List Byte) : Bool := bit (u8 b 2) 0
def gAccum (b : List Byte) : Bool := bit (u8 b 2) 1
def gK (b : List Byte) : Nat := u16 b 4
def gN (b : List Byte) : Nat := u16 b 6
def gM (b : List Byte) : Nat := u32 b 8
def gW (b : List Byte) : Nat := u64 b 12
def gWStride (b : List Byte) : Nat := u32 b 20
def gX (b : List Byte) : Nat := u32 b 24
def gXStride (b : List Byte) : Nat := u32 b 28
def gY (b : List Byte) : Nat := u32 b 32
def gYStride (b : List Byte) : Nat := u32 b 36
def gYin (b : List Byte) : Nat := u32 b 40
def gXScale (b : List Byte) : Nat := u32 b 44
def gWScale (b : List Byte) : Nat := u32 b 48
def gEpi (b : List Byte) : Nat := u16 b 52
def gFunc (b : List Byte) : Nat := gEpi b % 256
def gOut (b : List Byte) : Option Elt := outElt (bits (gEpi b) 11 8)
def gEpiEn (b : List Byte) : Bool := bit (gEpi b) 12
def gCtx (b : List Byte) : Nat := u16 b 54
def gBias (b : List Byte) : Nat := u32 b 56
def gScale (b : List Byte) : Nat := u32 b 60

/-- The ranges an operation reads. -/
def gIns (b : List Byte) : List (Nat × Nat) :=
  match Elt.ofCode (gFmtX b), Elt.ofCode (gFmtW b) with
  | some x, some w =>
    [(gW b, rowSpan (gK b) (w.bytes (gN b)) (gWStride b)), (gX b, rowSpan (gM b) (x.bytes (gK b)) (gXStride b))]
      ++ (if x.isMx then [(gXScale b, rowSpan (gM b) (cdiv (gK b) 32) (alignUp (cdiv (gK b) 32) 64))] else [])
      ++ (if w.isMx then [(gW b + gWScale b, rowSpan (cdiv (gK b) 32) (gN b) (alignUp (gN b) 64))] else [])
      ++ (if gAccum b then [(gYin b, rowSpan (gM b) (4 * gN b) (gYStride b))] else [])
      ++ (if gEpiEn b && gBias b != 0xFFFFFFFF then [(gBias b, 4 * gN b)] else [])
  | _, _ => []

/-! ### Operands -/

/-- A vector along K: decoded elements, and the E8M0 scale of each 32 of them where the format is an MX one. -/
structure KVec where
  vals : List FV
  scales : List Nat
  deriving DecidableEq, Repr

/-- An operation's operands: the group length of R129, the input vectors, and the weight tile by columns. -/
structure OpData where
  group : Nat
  xs : List KVec
  ws : List KVec
  deriving DecidableEq, Repr

/-- R129: the group length: 32, and 1 for BF16 with BF16. -/
def groupLen (bf16 : Bool) : Nat := if bf16 then 1 else 32

/-- R128: input vector m. -/
def inputVec (s : State) (b : List Byte) (x : Elt) (m : Nat) : KVec :=
  let row := s.mem.read (gX b + m * gXStride b) (x.bytes (gK b))
  { vals := (List.range (gK b)).map fun i => x.val (x.code row i)
    scales := if x.isMx then
        (List.range (cdiv (gK b) 32)).map fun g => (s.mem.byte (gXScale b + m * alignUp (cdiv (gK b) 32) 64 + g)).toNat
      else [] }

/-- R128: the element codes of weight column n in ascending k, and its block scales. -/
def weightCol (s : State) (b : List Byte) (w : Elt) (n : Nat) : List Nat × List Nat :=
  ((List.range (gK b)).map fun j => w.code (s.mem.read (gW b + j * gWStride b) (w.bytes (gN b))) n,
   if w.isMx then
     (List.range (cdiv (gK b) 32)).map fun g => (s.mem.byte (gW b + gWScale b + g * alignUp (gN b) 64 + n)).toNat
   else [])

/-! ### The variant's delta (R262, R264) -/

/-- R262: the 32 delta values along K that a variant holds for rows 32·rb on of column n of a matrix, with their block
scale, if one of its blocks covers them. -/
def deltaGroup (v : VariantObj) (mat rb n : Nat) : Option (List FV) :=
  ((v.records.zip v.data).find? fun r => r.1 == (mat, rb, n / 32)).map fun r =>
    (List.range 32).map fun i => applyScale (u8 r.2 (n % 32)) (Elt.e4m3.val (u8 r.2 (32 + 32 * (n % 32) + i)))

/-- What the feeder delivers of one group along K: element values, block scale, and the counts of R136 and R137. -/
structure FedGroup where
  vals : List FV
  scale : Option Nat
  sat : Nat
  nanBlocks : Nat
  deriving DecidableEq, Repr

/-- R264: a group with a delta is summed with it, one rounding per value, and encoded again in its format: an MX block by
R137, any other element by its column of R136. A group without one passes unchanged. -/
def feedGroup (w : Elt) (d : Option (List FV)) (codes : List Nat) (scale : Option Nat) : FedGroup :=
  match d with
  | none => ⟨codes.map w.val, scale, 0, 0⟩
  | some ds =>
    let vs := (codes.zip ds).map fun p =>
      let x := w.val p.1
      dec32 (round32 ((match scale with | some e => applyScale e x | none => x).add p.2))
    if w.isMx then
      let m := mxBlock w vs
      ⟨m.2.1.map w.val, some m.1, m.2.2.1, b2n m.2.2.2⟩
    else
      let cs := vs.map (convertElt w)
      ⟨cs.map fun c => w.val c.1, none, sumN (cs.map (·.2)), 0⟩

/-- R264: the groups of weight column n of a tile whose first row and column lie at (row0, col0) of a matrix. -/
def feedCol (w : Elt) (v : Option VariantObj) (tile : Option (Nat × Nat × Nat)) (n : Nat) (col : List Nat × List Nat) :
    List FedGroup :=
  (blocks32 (col.1.length + 1) col.1).zipIdx.map fun g =>
    let d := match v, tile with
      | some v, some (mat, row0, col0) => deltaGroup v mat (row0 / 32 + g.2) (col0 + n)
      | _, _ => none
    feedGroup w d g.1 col.2[g.2]?

def fedVec (gs : List FedGroup) : KVec := ⟨gs.flatMap (·.vals), gs.filterMap (·.scale)⟩

/-- The operands of an array step as its feeders deliver them, with the counts of the weight feed. -/
def stepData (s : State) (b : List Byte) (v : Option VariantObj) (tile : Option (Nat × Nat × Nat)) : OpData × Nat × Nat :=
  match Elt.ofCode (gFmtX b), Elt.ofCode (gFmtW b) with
  | some x, some w =>
    let cols := (List.range (gN b)).map fun n => feedCol w v tile n (weightCol s b w n)
    (⟨groupLen (x == .bf16), (List.range (gM b)).map (inputVec s b x), cols.map fedVec⟩,
     sumN (cols.flatten.map (·.sat)), sumN (cols.flatten.map (·.nanBlocks)))
  | _, _ => (⟨32, [], []⟩, 0, 0)

/-! ### Products (R129) and check terms (R112) -/

/-- R129: one output. -/
def product (d : OpData) (x w : KVec) : Nat :=
  let ps := x.vals.zip w.vals
  accumulate ((List.range (cdiv ps.length d.group)).map fun i =>
    ((ps.drop (d.group * i)).take d.group, x.scales[i]?, w.scales[i]?))

/-- The product rows y_m[n] as they leave the last data cell. -/
def products (d : OpData) : List (List Nat) := d.xs.map fun x => d.ws.map fun w => product d x w

/-- Element values as FP32 codes with block scales applied (R112). -/
def KVec.codes (v : KVec) : List Nat :=
  v.vals.zipIdx.map fun e => round32 (match v.scales[e.2 / 32]? with | some s => applyScale s e.1 | none => e.1)

/-- |x| of an FP32 code. -/
def abs32 (c : Nat) : Nat := c % 2 ^ 31

/-- R112: lists added elementwise in order, each sum rounded. -/
def sumLists (n : Nat) (l : List (List Nat)) : List Nat := l.foldl (List.zipWith add32) (List.replicate n 0)

/-- A dot product of the check path: products and sums in FP32, in ascending k (assumption log 77). -/
def dot32 (a b : List Nat) : Nat := sum32 (List.zipWith mul32 a b)

/-- R112: S_m and A_m from the row sums of the weights, U_n and B_n from the two check vectors. -/
def checkSums (k : Nat) (d : OpData) : CheckSums :=
  let xs := d.xs.map KVec.codes
  let ws := d.ws.map KVec.codes
  let c := sumLists k ws
  let a := sumLists k (ws.map (·.map abs32))
  let r := sumLists k xs
  let rho := sumLists k (xs.map (·.map abs32))
  { s := xs.map fun x => dot32 x c
    a := xs.map fun x => dot32 (x.map abs32) a
    u := ws.map (dot32 r)
    b := ws.map fun w => dot32 rho (w.map abs32) }

/-! ### Table builds (R171, R173, R187) -/

/-- The sections of a query, by the objects it was admitted with. -/
def qSection (s : State) (q : Query) (id : Nat) : Option SectionObj := (heldObj s q.refs 3 id).bind secOf
def qHeader (s : State) (q : Query) : Option IndexHeader := (qSection s q q.f.indexId).bind (·.header)
def qFilter (s : State) (q : Query) : Option SectionObj := if q.f.filterId = 0 then none else qSection s q q.f.filterId

def secBody (o : Option SectionObj) : List Byte := match o with | some x => x.body | none => []
/-- Record i of a section. -/
def secRec (o : Option SectionObj) (i : Nat) : List Byte :=
  match o with | some x => slice x.body (i * x.stride) x.stride | none => []

/-- R171: the query in a format: decoded values, and the saturations of the conversion (R136). -/
def queryIn (fmt : Nat) (v : List Nat) : List FV × Nat :=
  match Elt.ofCode fmt with
  | some t => let cs := v.map fun x => convertElt t (dec32 x)
              (cs.map fun c => t.val c.1, sumN (cs.map (·.2)))
  | none => ([], 0)


/-- Elements of a packed list of records in a format. -/
def fmtVals (fmt : Nat) (b : List Byte) (o n : Nat) : List FV :=
  match Elt.ofCode fmt with
  | some t => (List.range n).map fun i => t.val (t.code (slice b (o * fmtBytes fmt) (n * fmtBytes fmt)) i)
  | none => []

/-- R173, R187: the rows of the table-build set that operation j reads: the centroids of the sub-quantisers whose
dimensions it holds, or every row of the projection's piece j. -/
def pieceRows (h : IndexHeader) (j : Nat) : List Nat :=
  if h.sketchBits ≠ 0 then (List.range h.sketchBits).map fun r => j * h.sketchBits + r
  else (List.range (nCentroids h)).filter fun c => c / 2 ^ h.pqBits * (h.dim / h.pqS) / 1024 == j

/-- R173: K of operation j. -/
def pieceDim (h : IndexHeader) (j : Nat) : Nat := min 1024 (h.dim - 1024 * j)

/-- R173: the input vectors of operation j, from the set in the tile store. -/
def buildInputs (s : State) (h : IndexHeader) (j : Nat) : List KVec :=
  (pieceRows h j).map fun r =>
    ⟨fmtVals h.cbFmt (s.mem.read (r * rowBytesX h) (pieceDim h j * fmtBytes h.cbFmt)) 0 (pieceDim h j), []⟩

/-- R173: the operands of operation j of a batch with these queries as its columns. -/
def buildData (s : State) (h : IndexHeader) (j : Nat) (qs : List (List Nat)) : OpData :=
  ⟨groupLen (h.cbFmt == 8), buildInputs s h j, qs.map fun q => ⟨((queryIn h.cbFmt q).1.drop (1024 * j)).take (pieceDim h j), []⟩⟩

/-- R173: where row m of operation j's results goes in the set's output buffer, for a batch of n queries; a chain (R187)
adds up in one place. -/
def buildOut (h : IndexHeader) (j n m : Nat) : Nat :=
  setBytes h + 4 * n * (if h.sketchBits ≠ 0 then m else (pieceRows h j).getD m 0)

end Sys2Proof.Machine
end

