-- ==== Sys2Proof/Machine/Retire.lean ====
section
/-! DEFINITION. Errors and what they lead to: windows and thresholds (R382, R383), declaring a resource permanent
(R386), spares and FAULTED (R366, R388), and the retirements of memory channels and tile-store banks (R300-R303, R308)
with scrub (R298, R299) and the write-back of board memory (R294). -/

namespace Sys2Proof.Machine

/-! ### Resource classes (R366, R369) -/

def clsHbm : Nat := 0x10
def clsBoard : Nat := 0x11
def clsBank : Nat := 0x12
def clsLine : Nat := 0x13
def clsLane : Nat := 0x14
def clsDie : Nat := 0x15
def clsLogbook : Nat := 0x16
/-- Link lanes have no FATAL_CODE class (R383); their counts are kept under this number of the model's own. -/
def clsLink : Nat := 0x20

def errKey (cls idx : Nat) : Nat := cls * 2 ^ 24 + idx

/-- R300, R366: a limit on how many of a resource can be retired, and the group that shares it. -/
def retireLimit (s : State) (cls : Nat) : Nat :=
  if cls = clsHbm then (if s.ident.hbmStacks = 8 then 8 else 6)
  else if cls = clsBoard then (if s.ident.iods = 4 then 4 else 2)
  else if cls = clsBank then 32
  else if cls = clsLine ∨ cls = clsLane then 1
  else if cls = clsDie then regBits s (rPs 0) 24 20
  else 0

/-- Block-lines: 66 rows, then 66 columns (R434's numbers 0 to 131); lanes: 17 to a domain. -/
def retireGroup (cls idx : Nat) : Nat := if cls = clsLine then idx / 66 else if cls = clsLane then idx / 17 else 0

/-- Resources of a class out of use: those lost before READY and those retired since. -/
def retiredOf (s : State) (cls : Nat) : List Nat :=
  if cls = clsHbm then (s.tiers.retired.filter (·.1 == 0)).map (·.2)
  else if cls = clsBoard then (s.tiers.retired.filter (·.1 == 1)).map (·.2)
  else if cls = clsBank then s.tiers.banks
  else if cls = clsLine then s.array.rowSpare.toList ++ s.array.colSpare.toList
  else if cls = clsLane then s.bearing.retired
  else if cls = clsDie then s.ps.deadDies
  else []

/-- R386: declared and not finished. -/
def declared (s : State) (cls : Nat) : List Nat := (s.faults.queue.filter (·.1 == cls)).map (·.2)

/-- R386, R366: a retirement is complete: appended to the grown defect log, and RESOURCE_RETIRED raised. -/
def retireDone (s : State) (cls idx detail : Nat) : State :=
  let s := { s with
    faults := { s.faults with queue := s.faults.queue.erase (cls, idx) }
    flash := { s.flash with grown := s.flash.grown ++ [(cls, idx)] } }
  eventAll (drawn s) 1 (freeStatus (draw s)).toCode (fatalCode cls idx) (detail % 2 ^ 32)

/-- A retirement of which the rules name no DETAIL. -/
def retireFree (s : State) (cls idx : Nat) : State := retireDone (drawn s) cls idx (draw s)

/-! ### Channels (R293, R300, R301) -/

/-- R289, R291: fitted channels of a tier. -/
def nChan (s : State) (tier : Nat) : Nat := if tier = 0 then 32 * s.ident.hbmStacks else 8 * s.ident.iods

def tierBase (tier : Nat) : Nat := if tier = 0 then hbmBase else boardBase
def tierBytes (s : State) (tier : Nat) : Nat := if tier = 0 then hbmBytes s else boardBytes s

/-- R293: the device address of 256-byte unit g of a channel. -/
def unitAddr (s : State) (tier ch g : Nat) : Nat :=
  let n := nChan s tier
  tierBase tier + 256 * (g * n + (ch + n * (mix g % n + 1) - mix g % n) % n)

/-- R301: the units of a channel's data area. -/
def dataUnits (s : State) (tier : Nat) : Nat := tierBytes s tier / 256 / nChan s tier

/-- R301: units receiver j of an assignment gets. -/
def Assign.share (a : Assign) (j : Nat) : Nat :=
  let n := a.data + a.spare
  n / a.to_.length + (if j < n % a.to_.length then 1 else 0)

/-- R301: units assigned to a channel's spare area so far. -/
def spareUsed (s : State) (tier ch : Nat) : Nat :=
  sumN ((s.tiers.assigns.filter fun a => a.tier == tier).map fun a =>
    sumN ((a.to_.zipIdx.filter fun x => x.1 == ch).map fun x => a.share x.2))

/-- R301: the unit of a data area that stands at a place of a channel's spare area, as (channel, unit). -/
def spareOwner (l : List Assign) (tier : Nat) : Nat → Nat → Nat → Option (Nat × Nat)
  | 0, _, _ => none
  | f + 1, ch, p =>
    l.findSome? fun a =>
      if a.tier ≠ tier then none
      else
        (a.to_.zipIdx.find? fun x => x.1 == ch).bind fun x =>
          let b := a.base.getD x.2 0
          if b ≤ p ∧ p < b + a.share x.2 then
            let k := (p - b) * a.to_.length + x.2
            if k < a.data then some (a.ch, k) else spareOwner l tier f a.ch (k - a.data)
          else none

/-- R301: the device address of unit k of a channel: of its data area, then of its spare area. -/
def heldUnit (s : State) (tier ch k : Nat) : Nat :=
  if k < dataUnits s tier then unitAddr s tier ch k
  else
    match spareOwner s.tiers.assigns tier (s.tiers.assigns.length + 1) ch (k - dataUnits s tier) with
    | some (c, g) => unitAddr s tier c g
    | none => unitAddr s tier ch k

/-- R302: whether unit k of a retired channel has been copied. -/
def unitCopied (s : State) (tier ch k : Nat) : Bool :=
  match s.tiers.moves.find? fun m => m.tier == tier && m.ch == ch with
  | some m => decide (k < m.next)
  | none => true

/-- R301, R302: where a unit of a data area stands now, as (channel, unit of it). -/
def unitNow (s : State) (tier ch g : Nat) : Nat × Nat :=
  s.tiers.assigns.foldl (fun x a =>
    if a.tier == tier && a.ch == x.1 && unitCopied s tier a.ch x.2 then
      let j := x.2 % max 1 a.to_.length
      (a.to_.getD j x.1, dataUnits s tier + a.base.getD j 0 + x.2 / max 1 a.to_.length)
    else x) (ch, g)

/-- R301: healthy channels, ascending. -/
def healthy (s : State) (tier : Nat) : List Nat :=
  (List.range (nChan s tier)).filter fun c =>
    !s.tiers.retired.contains (tier, c) && !s.tiers.moves.any fun m => m.tier == tier && m.ch == c

/-- R301: every unit a channel holds gets its spare place, evenly over the healthy channels in ascending order. -/
def assign (s : State) (tier ch : Nat) : State :=
  let to_ := (healthy s tier).filter (· != ch)
  { s with tiers := { s.tiers with assigns := s.tiers.assigns ++
      [⟨tier, ch, to_, to_.map (spareUsed s tier), dataUnits s tier, spareUsed s tier ch⟩] } }

/-- Retirement of a channel begins (R301). -/
def startMove (s : State) (tier ch : Nat) : State :=
  let n := dataUnits s tier + spareUsed s tier ch
  let s := assign s tier ch
  { s with tiers := { s.tiers with moves := s.tiers.moves ++ [⟨tier, ch, 0, n, 0⟩] } }

/-- R4, R310: flash channels fitted, 4 to an I/O die. -/
def nFlash (s : State) : Nat := 4 * s.ident.iods

/-- R312: dies fitted, counted in ascending logical channel, then target. -/
def dieList (s : State) : List Nat :=
  (List.range (nFlash s)).flatMap fun c => List.replicate (tget (0, 0) s.ps.chans c).2 c

def nDies (s : State) : Nat := (dieList s).length

/-- R405: the flash group domain of a die's I/O die. -/
def flashDom (s : State) (die : Nat) : Nat := 51 + 11 * ((dieList s).getD die 0 / 4) + 8

/-- R437: a die is usable while it is not retired and its flash group is ON. -/
def dieUsable (s : State) (die : Nat) : Bool := !s.ps.deadDies.contains die && domIs s (flashDom s die) .on

/-- R312: the die of a logical block. -/
def lbDie (s : State) (lb : Nat) : Nat := lb % nDies s

def freeFloor (s : State) : Nat := regBits s (rPs 8) 22 16
/-- Block sets of a die that are not free. -/
def usedSets (s : State) (die : Nat) : List Nat :=
  (s.ps.map.filterMap fun e => e.2.bind fun x => if x.1 = die then some x.2 else none)
    ++ (s.ps.open_.filter fun o => o.die == die).map (·.set)
    ++ (s.ps.logs.filterMap fun e => e.2.bind fun x => if x.1 = die then some x.2.1 else none)
    ++ ((s.ps.bad ++ s.ps.toErase).filter fun b => b.1 == die).map (·.2)

def eraseKey (die set : Nat) : Nat := die * 2 ^ 25 + set

/-- R326: the free block sets of a die. -/
def freeSets (s : State) (die : Nat) : List Nat :=
  let used := usedSets s die
  (List.range s.ps.perDie).filter fun b => !used.contains b

/-- R326: the least-worn free block set, lower address on a tie; with `keep`, the last FREE_FLOOR are left. -/
def freshSet (s : State) (die : Nat) (keep : Bool) : Option Nat :=
  let l := freeSets s die
  if keep && decide (l.length ≤ freeFloor s) then none
  else leastBy (fun a b => decide (tget 0 s.ps.erases (eraseKey die a) < tget 0 s.ps.erases (eraseKey die b))) l

def logBlocks (s : State) : Nat := regBits s (rPs 0) 3 0

/-- R321: the first stripe of its I/O die in which a die has no open block set. -/
def freeStripe (s : State) (die : Nat) : Option Nat :=
  (List.range (logBlocks s + 2)).find? fun k => !s.ps.open_.any fun o => o.die == die && o.stripe == k

/-- A free block set of a die, to be opened in a free stripe (R321, R326). -/
def openable (s : State) (die : Nat) (keep : Bool) : Option (Nat × Nat) :=
  match freshSet s die keep, freeStripe s die with
  | some b, some k => some (b, k)
  | _, _ => none

def addOpen (s : State) (o : OpenSet) : State := { s with ps := { s.ps with open_ := s.ps.open_ ++ [o] } }

/-- R313: the sequence of the commit that is being written. -/
def nextSeq (s : State) : Nat := (s.ps.seq + 1) % 2 ^ 64

/-- R313: pages are programmed, with their spare bytes. -/
def programRun (s : State) (die set first count : Nat) (lpn : Option Nat) : State :=
  if count = 0 then s
  else { s with ps := { s.ps with spare := ⟨die, set, first, count, lpn, nextSeq s⟩ :: s.ps.spare } }

/-- R313: the block map. -/
def lbMap (s : State) (lb : Nat) : Option (Nat × Nat) := tget none s.ps.map lb
/-- Every name of a block set becomes another's, to which its pages are copied. -/
def renameSet (s : State) (die set die' new : Nat) : State :=
  { s with ps := { s.ps with
      spare := ((s.ps.spare.filter fun r => r.die == die && r.set == set).map fun r =>
        { r with die := die', set := new, seq := nextSeq s }) ++ s.ps.spare
      map := s.ps.map.map fun e => (e.1, match e.2 with
        | some x => if x = (die, set) then some (die', new) else some x
        | none => none)
      logs := s.ps.logs.map fun e => (e.1, match e.2 with
        | some x => if x.1 = die ∧ x.2.1 = set then some (die', new, x.2.2) else some x
        | none => none) } }

/-- A die is out of use: its open block sets go, and its logical blocks are lost; answers their number. -/
def dropDie (s : State) (die : Nat) : State × Nat :=
  let lost := s.ps.map.filter fun e => match e.2 with | some x => x.1 == die | none => false
  ({ s with ps := { s.ps with
      deadDies := s.ps.deadDies ++ [die]
      open_ := s.ps.open_.filter fun o => o.die != die
      rewrites := s.ps.rewrites.filter fun r => r.1 != die } }, lost.length)

/-- R331: the usable dies of a die's I/O die, but for the die itself. -/
def sisterDies (s : State) (die : Nat) : List Nat :=
  (List.range (nDies s)).filter fun d =>
    d != die && (dieList s).getD d 0 / 4 == (dieList s).getD die 0 / 4 && dieUsable s d

/-- R331: an open block set is rebuilt from parity onto the first other die of its I/O die that has a free block set. -/
def rebuildSet (s : State) (o : OpenSet) : State :=
  match (sisterDies s o.die).findSome? fun d => (openable s d false).map fun f => (d, f) with
  | some (d, f, k) =>
    addOpen (renameSet s o.die o.set d f) { o with die := d, set := f, kind := 2, pages := s.ps.pb, stripe := k }
  | none => s

/-- R331: a die is retired: its open block sets are rebuilt elsewhere, and every other logical block of it is lost. -/
def loseDie (s : State) (die : Nat) : State × Nat :=
  dropDie (forEach s (s.ps.open_.filter fun o => o.die == die) rebuildSet) die

/-- R383, R386: a resource is declared permanent-faulty: FAULTED where no spare is left, else its retirement begins. -/
def declareBad (s : State) (cls idx : Nat) : State :=
  let gone := retiredOf s cls ++ declared s cls
  if gone.contains idx then s
  else if retireLimit s cls ≤ (gone.filter fun i => retireGroup cls i == retireGroup cls idx).length then
    enterFaulted s cls idx
  else
    let s := { s with faults := { s.faults with queue := s.faults.queue ++ [(cls, idx)] } }
    if cls = clsHbm then startMove s 0 idx
    else if cls = clsBoard then startMove s 1 idx
    else if cls = clsLine then { s with helm := { s.helm with stopped := true } }
    else if cls = clsLane then
      retireFree { s with bearing := { s.bearing with retired := s.bearing.retired ++ [idx] } } cls idx
    else if cls = clsDie then
      let r := loseDie s idx
      retireDone r.1 cls idx r.2
    else s

/-! ### Counts and thresholds (R382, R383) -/

def transientLimit (cls : Nat) : Nat := if cls = clsDie then 16 else 2
def correctedLimit (cls : Nat) : Nat :=
  if cls = clsHbm then 4096 else if cls = clsBoard then 1024 else if cls = clsBank then 64
  else if cls = clsDie then 4 else 1000

/-- A transient error of a resource; past its threshold the resource is permanent-faulty. -/
def chargeTransient (s : State) (cls idx : Nat) : State :=
  let s := { s with faults := { s.faults with transient := tmod 0 s.faults.transient (errKey cls idx) (· + 1) } }
  if transientLimit cls < tget 0 s.faults.transient (errKey cls idx) then declareBad s cls idx else s

/-- A corrected error (for a die, a grown bad block set). -/
def chargeCorrected (s : State) (cls idx : Nat) : State :=
  let s := { s with faults := { s.faults with corrected := tmod 0 s.faults.corrected (errKey cls idx) (· + 1) } }
  if correctedLimit cls < tget 0 s.faults.corrected (errKey cls idx) then declareBad s cls idx else s

/-- R383: the length in hours of the window a count belongs to; 0 is 1 s. -/
def windowOf (cls : Nat) (transient : Bool) : Nat :=
  if cls = clsDie then 24
  else if cls = clsLine ∨ cls = clsLane then 1
  else if cls = clsLink then (if transient then 1 else 0)
  else if transient then 24 else 1

/-- ERROR_WINDOW_BOUNDARY (R382): every count of the window returns to 0. -/
def execErrorWindowBoundary (hours t : Nat) (s : State) : Host.Outcome State Fault Refusal :=
  let s := tick s t
  .next { s with faults := { s.faults with
    transient := s.faults.transient.filter fun e => windowOf (e.1 / 2 ^ 24) true != hours
    corrected := s.faults.corrected.filter fun e => windowOf (e.1 / 2 ^ 24) false != hours } }

/-! ### How a read of a memory unit ended (R296, R297) -/

/-- R434: INSTANCE of unit 0x8; the class of the resource. Tiers: 0 HBM, 1 board, 2 tile store, 3 Logbook. -/
def memInst (tier ch : Nat) : Nat := if tier = 0 then ch else if tier = 1 then 256 + ch else if tier = 2 then 512 + ch else 4640
def memCls (tier : Nat) : Nat := if tier = 0 then clsHbm else if tier = 1 then clsBoard else if tier = 2 then clsBank else clsLogbook

def poisonUnits (s : State) (l : List (Nat × Nat)) : State :=
  { s with tiers := { s.tiers with poison := l ++ s.tiers.poison.filter fun u => !l.contains u } }

/-- R296, R297, R382: the outcome is counted and charged; a unit that fails twice is poisoned. R383: a Logbook word
that fails twice puts the device in FAULTED. -/
def memOutcome (s : State) (tier ch : Nat) (unit : Nat × Nat) (r : ReadOutcome) : State :=
  let i := memInst tier ch
  match r with
  | .clean => s
  | .corrected =>
    let s := countEv s 8 0 i none 1
    if tier = 3 then s else chargeCorrected s (memCls tier) ch
  | .transient =>
    let s := countEv s 8 1 i none 1
    if tier = 3 then s else chargeTransient s (memCls tier) ch
  | .uncorrectable =>
    let s := countEv s 8 1 i none 1
    if tier = 3 then enterFaulted s clsLogbook 0
    else declareBad (countEv (poisonUnits s [unit]) 8 2 i none 1) (memCls tier) ch

/-- R293, R301: the channel in which the data of a device address stands. -/
def chanOf (s : State) (tier a : Nat) : Nat :=
  let u := (a - tierBase tier) / 256
  let n := nChan s tier
  (unitNow s tier ((u % n + mix (u / n)) % n) (u / n)).1

/-- R295, R297: a foreground read of HBM or board memory meets a unit that fails twice. -/
def badUnit (s : State) (a : Nat) : State :=
  let tier := if a < boardBase then 0 else 1
  memOutcome s tier (chanOf s tier a) (a / 32 * 32, 32) .uncorrectable

/-! ### Scrub (R298, R299) -/

/-- R306: the device address of word w of a logical tile-store bank. -/
def bankAddr (bank w : Nat) : Nat := w * 2 ^ 18 + (Nat.xor bank w % 4096) * 64

/-- R308: the logical bank a physical one serves. -/
def logicalBank (s : State) (b : Nat) : Option Nat :=
  match s.tiers.bankMap.find? (·.2 == b) with
  | some x => some x.1
  | none => if b < 4096 ∧ !(s.tiers.bankMap.any (·.1 == b)) then some b else none

/-- Scrub units of a channel or bank: 32 B in HBM and board memory, units moved there included, 8 B in the tile store and
the Logbook (R295). -/
def scrubUnits (s : State) (tier ch : Nat) : Nat :=
  if tier = 0 ∨ tier = 1 then (dataUnits s tier + spareUsed s tier ch) * 8 else if tier = 2 then 8192 else 2097152

/-- The unit at a scrub position. -/
def scrubUnit (s : State) (tier ch k : Nat) : Nat × Nat :=
  if tier = 0 ∨ tier = 1 then (heldUnit s tier ch (k / 8) + 32 * (k % 8), 32)
  else (bankAddr ((logicalBank s ch).getD 0) (k / 8) + 8 * (k % 8), 8)

/-- R298: scrub passes over healthy channels, and over the banks in use. -/
def scrubbed (s : State) (tier ch : Nat) : Bool :=
  if tier ≤ 1 then (healthy s tier).contains ch else if tier = 2 then (logicalBank s ch).isSome else true

/-- SCRUB_ACCESS (R298, R299): the next unit of a healthy channel or bank, in ascending offset; a foreground write
accepted in between drops what scrub would write. -/
def execScrubAccess (tier ch t : Nat) (res : ReadOutcome) (written : Bool) (s : State) :
    Host.Outcome State Fault Refusal :=
  let s' := tick s t
  if !scrubbed s' tier ch then .next s
  else
    let key := tier * 512 * 16 + ch
    let k := tget 0 s'.tiers.scrub key
    let n := scrubUnits s' tier ch
    let s := { s' with tiers := { s'.tiers with scrub := tset 0 s'.tiers.scrub key (if n ≤ k + 1 then 0 else k + 1) } }
    let s := if n ≤ k + 1 then countEv s 8 3 (memInst tier ch) none 1 else s
    let s2 := memOutcome s tier ch (scrubUnit s tier ch k) res
    .next (if written then { s2 with tiers := { s2.tiers with poison := s.tiers.poison } } else s2)

/-! ### Moving a channel's units (R301-R303) -/

/-- R301: the channel leaves the interleave. -/
def endMove (s : State) (m : Move) : State :=
  let s := { s with tiers := { s.tiers with moves := s.tiers.moves.filter fun x => !(x.tier == m.tier && x.ch == m.ch)
                                            retired := s.tiers.retired ++ [(m.tier, m.ch)] } }
  retireDone s (memCls m.tier) m.ch m.poisoned

/-- UNIT_COPY (R302): the first move of a tier copies its next unit; one that cannot be read is poisoned in its new
place. -/
def execUnitCopy (tier ch t : Nat) (good : Bool) (s : State) : Host.Outcome State Fault Refusal :=
  let s' := tick s t
  match s'.tiers.moves.find? (·.tier == tier) with
  | none => .next s
  | some m =>
    if m.ch ≠ ch then .next s
    else
      let a := heldUnit s' tier ch m.next
      let s := if good then s'
        else countEv (poisonUnits s' ((List.range 8).map fun i => (a + 32 * i, 32))) 8 2 (memInst tier ch) none 1
      let m' := { m with next := m.next + 1, poisoned := m.poisoned + (if good then 0 else 1) }
      if m.total ≤ m'.next then .next (endMove s m')
      else
        .next { s with tiers := { s.tiers with
          moves := s.tiers.moves.map fun x => if x.tier = tier ∧ x.ch = ch then m' else x } }

/-- R308: the first spare bank that is neither retired nor in use. -/
def spareBank (s : State) : Option Nat :=
  (List.range 32).find? (fun i => !s.tiers.banks.contains (4096 + i) && !s.tiers.bankMap.any (·.2 == 4096 + i)) |>.map (4096 + ·)

/-- R308: a physical bank is out of use: the logical bank it served goes to a spare. -/
def retireBank (s : State) (b : Nat) : State :=
  let m := match logicalBank s b, spareBank { s with tiers := { s.tiers with banks := s.tiers.banks ++ [b] } } with
    | some l, some p => (l, p) :: s.tiers.bankMap.filter (·.1 != l)
    | _, _ => s.tiers.bankMap
  { s with tiers := { s.tiers with banks := s.tiers.banks ++ [b], bankMap := m } }

/-- BANK_RETIREMENT (R308): the bank's copy to a spare is complete; banks go one at a time in the order declared. R302:
words that could not be read are poisoned in their new place. -/
def execBankRetirement (bank t : Nat) (bad : List Nat) (s : State) : Host.Outcome State Fault Refusal :=
  let s' := tick s t
  if (declared s' clsBank).head? = some bank then
    let s := match logicalBank s' bank with
      | some l =>
        countEv (poisonUnits s' (bad.flatMap fun w => (List.range 8).map fun i => (bankAddr l (w % 1024) + 8 * i, 8))) 8 2
          (memInst 2 bank) none (8 * bad.length)
      | none => s'
    .next (retireFree (retireBank s bank) clsBank bank)
  else .next s

/-! ### Board write-back cache and stacks (R290, R294) -/

/-- R294, R427: BOARD_WB_MAX_US. -/
def boardWbNs (s : State) : Nat := regBits s (rMem 0x14) 16 0 * 1000

/-- R294: lines that have been dirty for as long as they may are written back. -/
def writeBackDue (s : State) : State :=
  { s with tiers := { s.tiers with cache := s.tiers.cache.map fun e => match e.2 with
      | some since => if since + boardWbNs s ≤ s.now then (e.1, none) else e
      | none => e } }

/-- BOARD_WRITE_BACK (R294): a line is written back, and so is every line at its limit; an eviction takes the line of its
set least recently written. -/
def execBoardWriteBack (line t : Nat) (evicted : Bool) (s : State) : Host.Outcome State Fault Refusal :=
  let s := writeBackDue (tick s t)
  if evicted then
    if ((setLines s (line % cacheSets s) s.tiers.cache).head?.map (·.1)) = some line then
      .next { s with tiers := { s.tiers with cache := s.tiers.cache.filter fun e => e.1 != line } }
    else .next s
  else
    .next { s with tiers := { s.tiers with cache := s.tiers.cache.map fun e => if e.1 = line then (line, none) else e } }

/-- STACK_TEMPERATURE_REPORT (R290): the refresh rate is doubled while a stack reports above 85 degrees C; the corrections of
its own that it reports, by pseudo-channel, are counted. -/
def execStackTemperatureReport (stack temp : Nat) (odc : List (Nat × Nat)) (s : State) : Host.Outcome State Fault Refusal :=
  let s := forEach s odc fun s x => countEv s 8 6 (32 * stack + x.1 % 32) none x.2
  .next { s with tiers := { s.tiers with
    hot := if 85 < temp then insertNat stack s.tiers.hot else s.tiers.hot.filter (· != stack) } }

end Sys2Proof.Machine
end

