-- ==== Sys2Proof/Machine/Array.lean ====
section
/-! DEFINITION. Array operations (R102-R111): Helm's check (R86, R105, R140), streams generated for requests (R104), issue
and credit (R85-R90), entry (R106-R109), completion with the operation's result (R110, R141), its own checks (R112-R119),
block-line retirement (R384) and the clock gates (R120-R122). -/

namespace Sys2Proof.Machine

/-! ### Helm's check (R86, R102, R105, R140) -/

/-- R102: the pairings the array accepts. -/
def fp84 (f : Nat) : Bool := f != 2 && f ≤ 7
def pairingOk (x w : Nat) : Bool := (fp84 x && fp84 w) || (x == 2 && w == 2) || (x == 8 && w == 8)
def kMax (x w : Nat) : Nat := if x = 7 ∧ w = 7 then 2048 else 1024

/-- R105: two byte spans share a byte. -/
def spansMeet (a n b m : Nat) : Bool := decide (a < b + m) && decide (b < a + n)

/-- R105, R140: the fields of an array step in order; R288: its ranges inside one window. -/
def arrayForm (s : State) (b : List Byte) : Bool :=
  match Elt.ofCode (gFmtX b), Elt.ofCode (gFmtW b), gOut b with
  | some x, some w, some o =>
    gFmtX b ≤ 8 && gFmtW b ≤ 8 && pairingOk (gFmtX b) (gFmtW b) && u8 b 2 < 4 && 1 ≤ gK b && gK b ≤ kMax (gFmtX b) (gFmtW b)
      && 1 ≤ gN b && gN b ≤ 1024 && 1 ≤ gM b && gW b % 256 == 0 && gWStride b % 64 == 0 && gX b % 64 == 0
      && gXStride b % 64 == 0 && gY b % 64 == 0 && gYStride b % 64 == 0 && gYin b % 64 == 0 && (gAccum b || gYin b == 0)
      && gXScale b % 64 == 0 && (x.isMx || gXScale b == 0) && gWScale b % 64 == 0 && (w.isMx || gWScale b == 0)
      && gEpi b < 0x2000 && funcCodeOk (gFunc b) && (gEpiEn b || gFunc b == 0)
      && (gBias b == 0xFFFFFFFF || gBias b % 64 == 0)
      && (gIns b).all (fun r => inWindow s r.1 r.2) && inTile (gX b) 0 && inTile (gYin b) 0
      && inTile (gY b) (rowSpan (gM b) (o.bytes (gN b)) (gYStride b))
      && !(gAccum b && spansMeet (gYin b) (rowSpan (gM b) (4 * gN b) (gYStride b))
            (gY b) (rowSpan (gM b) (o.bytes (gN b)) (gYStride b)))
  | _, _, _ => false

/-- R153: the steps before END of a micro-program, if it may serve as an epilogue. -/
def epiProgram (p : Program) : Option Nat :=
  let body := p.steps.takeWhile fun w => stepOp w != 0
  if body.length ≤ 9 ∧ body.all (fun w => stepOp w != 9) then some body.length else none

/-- R105: s: the steps before END when EPI_ID selects a micro-program. -/
def epiSteps (s : State) (b : List Byte) : Nat :=
  if 0x40 ≤ gFunc b then
    match ctxProgram s (gCtx b) (gFunc b - 0x40) with
    | some p => (epiProgram p).getD 0
    | none => 0
  else 0

/-- R105: D in CK_ARR cycles. -/
def opCycles (o : ArrayOp) : Nat := (o.m + 2) * max (if o.bf16 then 4 else 1) (cdiv (o.n * o.epiSteps * 7) 12288)

/-- What Helm refuses an operation with when it reaches the head of its queue. -/
def checkOp (s : State) (o : ArrayOp) : Option Status :=
  let form :=
    match o.src with
    | .build .. => none
    | .step .. =>
      let b := o.step
      if !arrayForm s b then some Status.badDescriptor
      else if !ctxUsable s (gCtx b) then some .noResource
      else if !slotUsable s (gCtx b) (gFunc b) then some .noResource
      else if 0x40 ≤ gFunc b then
        (match ctxProgram s (gCtx b) (gFunc b - 0x40) with
         | some p => if (epiProgram p).isSome then none else some .badDescriptor
         | none => some .noResource)
      else none
  if form.isSome then form
  else if !ctxUsable s o.ctx then some .noResource
  else if opqMaxUs s * 1400 < opCycles o then some .limitExceeded
  else if !arrayUp s then some .domainOff
  else none

/-! ### Streams generated for requests (R104, R207, R265, R270) -/

/-- Where a request stands in the order of R85 on this device; none where nothing of it is here. -/
def rankHere (s : State) (h : Handle) : Option Rank :=
  match liveSlot s h with
  | some slot => (work s slot).map (·.rank)
  | none =>
    match s.gen.seqs.find? fun q => q.o.h == h with
    | some q => some q.o.rank
    | none =>
      match s.gen.jobs.find? fun j => j.o.h == h with
      | some j => some j.o.rank
      | none => (s.bearing.queries.find? fun q => q.f.handle == h).map (·.f.rank)

/-- The objects a request uses on this device, and its VARIANT_ID. -/
def usesHere (s : State) (h : Handle) : List Nat × Nat :=
  match liveSlot s h with
  | some slot => ((work s slot).map fun w => (w.refs, dVariant w.desc)).getD ([], 0)
  | none =>
    match s.gen.seqs.find? fun q => q.o.h == h with
    | some q => (q.refs, q.o.variant)
    | none =>
      match s.gen.jobs.find? fun j => j.o.h == h with
      | some j => (j.refs, j.o.variant)
      | none => ([], 0)

/-- R262, R264: the variant set by the requests of a stream: of a prefill or decode stream, the one they all name. -/
def variantId (s : State) (r : ReqRun) : Nat :=
  if r.purpose < 3 then 0 else ((r.hs.head?).map fun h => (usesHere s h.1).2).getD 0

/-- The variant object an operation's weight feed applies. -/
def opVariant (s : State) (x : Stream) : Option VariantObj :=
  match x.req with
  | none => none
  | some r =>
    let id := variantId s r
    if id = 0 then none
    else
      ((r.hs.findSome? fun h => heldObj s (usesHere s h.1).1 2 id).bind fun o => match o.body with
        | .variant v => if v.baseUid = r.model then some v else none
        | _ => none)

/-- R104: the weight tile of a step in the model's weight list. -/
def opTile (x : Stream) (i : Nat) : Option (Nat × Nat × Nat) := x.req.bind fun r => r.tiles.lookup i

/-- R436, R265: the model's directory holds the stream: for prefill, one of this group's size. -/
def inDirectory (s : State) (m : ModelObj) (purpose : Nat) : Bool :=
  m.streams.any fun e => e.1 == purpose && (purpose != 3 || e.2 == (groupOf s).length)

/-- R270: a generator's sequences in DECODE. -/
def decoding (s : State) (model : Nat) : List Sequence := s.gen.seqs.filter fun q => q.o.model == model && q.st = .decode

/-- R270, R24, R280: the sequences of the decode step under way, or, between steps, of the next one: a sequence joins at a step
boundary, and one still without its mask sits the step out. -/
def stepSet (s : State) (model : Nat) : List Sequence :=
  if (decoding s model).any (·.inStep) then (decoding s model).filter (·.inStep)
  else (decoding s model).filter fun q => q.waiting.isNone

/-- R270: those of one variant. -/
def decodeSet (s : State) (model variant : Nat) : List Handle :=
  ((stepSet s model).filter fun q => q.o.variant == variant).map (·.o.h)

/-- R270, R280: a decode step begins: its sequences are fixed, and those that sit it out are counted. -/
def beginStep (s : State) (model : Nat) : State :=
  if (decoding s model).any (·.inStep) then s
  else
    let s := forEach s ((decoding s model).filter fun q => q.waiting.isSome) fun s q =>
      countEv s 6 1 (q.o.grammar.getD 0) (some q.o.h.part) 1
    let set := (stepSet s model).map (·.o.h)
    { s with gen := { s.gen with seqs := s.gen.seqs.map fun q => if set.contains q.o.h then { q with inStep := true } else q } }

/-- R19, R266, R270: whether a stream of a PURPOSE is due for a request: the embedder at stage 3, the cross-encoder and its
head at stage 11, prefill once it is admitted and the slices of the reuse run are here, decode for a sequence in DECODE. -/
def streamDue (s : State) (purpose : Nat) (h : Handle) : Bool :=
  match purpose with
  | 0 => match liveSlot s h with | some slot => (entry s slot).stage == 3 | none => false
  | 1 | 2 => match liveSlot s h with | some slot => (entry s slot).stage == 11 | none => false
  | 3 => s.gen.jobs.any fun j => j.o.h == h && j.admitted && j.prefixIn && !j.sent
  | _ => s.gen.seqs.any fun q => q.o.h == h && (stepSet s q.o.model).any fun x => x.o.h == h

/-- R270: a decode stream is one variant's group of the step: every sequence of it, and no other. -/
def wholeGroup (s : State) (r : ReqStream) (hs : List (Handle × Nat)) : Bool :=
  r.purpose != 4 || (decodeSet s r.model (((hs.head?).map fun h => (usesHere s h.1).2).getD 0)).all fun h => hs.any (·.1 == h)

/-- R207, R92, R270, R264: a stream can be generated: it is due for each request, all name one variant where a variant counts,
its model holds the stream, and its steps run in the model's context, over tiles that start on a group along K. -/
def reqModel (s : State) (r : ReqStream) (hs : List (Handle × Nat)) : Option Obj :=
  let o := match hs.findSome? fun h => heldObj s (usesHere s h.1).1 1 r.model with
    | some o => some o
    | none => resident s 1 r.model
  o.bind fun o => (modelOf o).bind fun m =>
    if !hs.isEmpty && inDirectory s m r.purpose && r.purpose ≤ 4 && wholeGroup s r hs
        && (r.purpose < 3 || hs.all fun h => (usesHere s h.1).2 == variantId s ⟨r.purpose, 0, hs, [], [], 0⟩)
        && (r.steps.all fun b => stepKind b == 5 || stepCtx b == m.ctxId) && r.tiles.all fun x => x.2.2.1 % 32 == 0
    then some o else none

/-- A stream generated for requests starts: in the decode queue for decode steps, in the long queue for the others (R85).
R270: a decode step's sequences have their open blocks from here on. -/
def startReq (s : State) (r : ReqStream) : State :=
  let hs := r.hs.filter fun h => (rankHere s h.1).isSome && streamDue s r.purpose h.1
  match reqModel s r hs with
  | none => s
  | some o =>
    let sid := s.nextSid
    let order := s.lb.order + 1
    let x : Stream :=
      { req := some ⟨r.purpose, o.uid, hs, r.tiles, r.partials, order⟩, part := ((hs.head?).map (·.1.part)).getD 0, sq := 0, count := 0,
        tag := 0, rank := (leastBy Rank.lt (hs.filterMap fun h => rankHere s h.1)).getD ⟨3, true, order⟩,
        signal := none, steps := r.steps, next := 0, done := [], ended := none, arg := [] }
    let s := if r.purpose = 4 then forEach (beginStep s r.model) hs fun s h => (openBlock s h.1).getD s else s
    tryEnd { s with lb := { s.lb with order := order }, nextSid := sid + 1, streams := tset none s.streams sid (some x) } sid

/-! ### The queues (R85) -/

/-- R85, R87, R270: the partitions a step serves: each with its input vectors (in a decode step, its sequences), at the
strictest class in force among its requests; served with others, ordered by the moment the step became issuable. -/
def opShares (s : State) (x : Stream) (b : List Byte) : List Share :=
  match x.req with
  | none => [⟨x.part, gM b, x.rank⟩]
  | some r =>
    let parts := r.hs.foldl (fun l h => insertNat h.1.part l) []
    parts.map fun p =>
      let mine := r.hs.filter fun h => h.1.part == p
      let rank := (leastBy Rank.lt (mine.filterMap fun h => rankHere s h.1)).getD x.rank
      ⟨p, if r.purpose = 4 then mine.length else sumN (mine.map (·.2)), if parts.length = 1 then rank else { rank with order := r.order }⟩

/-- Whether a stream of a PURPOSE still runs for a request. -/
def streamRuns (s : State) (purpose : Nat) (h : Handle) : Bool :=
  s.streams.any fun e => match e.2 with
    | some x => x.ended.isNone && (match x.req with | some r => r.purpose == purpose && r.hs.any (·.1 == h) | none => false)
    | none => false

/-- Whether step j of a stream is in Helm's hands. -/
def stepTaken (s : State) (sid j : Nat) : Bool := (helmOps s).any fun a => a.src == .step sid j

/-- R97, R107, R109: a step may be issued once every step its WAIT_BACK covers is complete, or is an array operation that
has been issued and will complete by itself (assumption log 26). -/
def coverIssued (s : State) (sid : Nat) (x : Stream) (i : Nat) : Bool :=
  (List.range (waitLimit i (waitBack (x.steps.getD i [])))).all fun j => x.done.contains j || stepTaken s sid j

/-- The operation at a stream's head. -/
def streamOp (s : State) (sid : Nat) : Option ArrayOp :=
  (headOf s sid 1).bind fun x =>
    let b := x.2
    if !coverIssued s sid x.1 x.1.next then none
    else some
      { src := .step sid x.1.next, step := b, shares := opShares s x.1 b,
        decode := match x.1.req with | some r => r.purpose == 4 | none => false, m := gM b, k := gK b, n := gN b,
        bf16 := gFmtX b == 8, curLong := gLong b, epiSteps := epiSteps s b, ctx := gCtx b, rerun := false, paid := false,
        run := none }

/-- Every issuable operation. -/
def issuable (s : State) : List ArrayOp := s.helm.queue ++ s.streams.filterMap fun e => streamOp s e.1

def inQueue (o : ArrayOp) (p : Nat) (dec : Bool) : Bool := o.decode == dec && o.shares.any (·.part == p)

/-- R85: where an operation stands in a partition's queue. -/
def rankIn (p : Nat) (o : ArrayOp) : Rank := ((o.shares.find? (·.part == p)).map (·.rank)).getD ⟨3, true, 0⟩

/-- R85: the head of a partition's long or decode queue. -/
def headOp (s : State) (p : Nat) (dec : Bool) : Option ArrayOp :=
  leastBy (fun a b => (rankIn p a).lt (rankIn p b)) ((issuable s).filter fun o => inQueue o p dec)

/-- An operation leaves the queues: from Helm's, or its stream goes on to the next step. -/
def takeOp (s : State) (o : ArrayOp) : State :=
  match o.src with
  | .step sid _ => passHead s sid
  | _ => { s with helm := { s.helm with queue := s.helm.queue.erase o } }

/-- What an operation that ends with an error does to what holds it (R86, R105, R118). -/
def endOp (s : State) (o : ArrayOp) (st : Status) : State :=
  match o.src with
  | .step sid _ => settled (failStream s sid st)
  | .build _ _ n _ =>
    forEach s (s.bearing.queries.filter fun q => q.st = .building && q.batch == n) fun s q => refuseQuery s q st

/-- An operation is refused at the head of its queue. -/
def refuseOp (s : State) (o : ArrayOp) (st : Status) : State :=
  match o.src with
  | .step .. => endOp s o st
  | .build .. => endOp (takeOp s o) o st

/-- Heads that fail Helm's check are refused, until every head passes. -/
def purge (s : State) : Nat → State
  | 0 => s
  | n + 1 =>
    let heads := allParts.flatMap fun p => [headOp s p false, headOp s p true].filterMap id
    match heads.findSome? fun o => (checkOp s o).map fun st => (o, st) with
    | some (o, st) => purge (refuseOp s o st) n
    | none => s

/-! ### Choosing (R88) -/

def backloggedParts (s : State) : List Nat :=
  allParts.filter fun p => (headOp s p false).isSome || (headOp s p true).isSome

def isC0 (p : Nat) (o : Option ArrayOp) : Bool := match o with | some x => (rankIn p x).cls == 0 | none => false

/-- R88: higher credit first, then issued from least recently; the list is ascending. -/
def creditFirst (s : State) (a b : Nat) : Bool :=
  decide ((part s b).credit < (part s a).credit) ||
    (decide ((part s a).credit = (part s b).credit) && decide ((part s a).lastIssue < (part s b).lastIssue))

/-- R88: the partition, and whether step 1 chose it. -/
def choosePart (s : State) : Option (Nat × Bool) :=
  let bs := backloggedParts s
  let c0 := bs.filter fun p => (isC0 p (headOp s p false) || isC0 p (headOp s p true)) && decide (0 ≤ (part s p).credit)
  match leastBy (creditFirst s) c0 with
  | some p => some (p, true)
  | none =>
    match leastBy (creditFirst s) (bs.filter fun p => arrayWeight s p != 0) with
    | some p => some (p, false)
    | none => (leastBy (fun a b => decide ((part s a).lastIssue < (part s b).lastIssue)) bs).map fun p => (p, false)

/-- R88: the queue the credit rule picks: true for decode. A queue of weight 0 (PF_SHARE 0 or 64) is picked by its credit
like any other: whether the same rule also passes it over, as step 2 does a partition of weight 0, is not said (DESIGN
CHOICE, assumption log 78). -/
def creditQueue (P : Part) : Bool :=
  decide (P.qCredit.1 < P.qCredit.2) || (decide (P.qCredit.1 = P.qCredit.2) && decide (P.qLast.2 < P.qLast.1))

/-- R88: the operation issued from a partition. -/
def chooseOp (s : State) (p : Nat) (step1 : Bool) : Option ArrayOp :=
  let l := headOp s p false
  let d := headOp s p true
  let dec := creditQueue (part s p)
  if step1 ∧ isC0 p l ∧ !isC0 p d then l
  else if step1 ∧ isC0 p d ∧ !isC0 p l then d
  else if dec then (if d.isSome then d else l) else (if l.isSome then l else d)

/-! ### Credit (R87) -/

/-- R87: L in ns. -/
def creditBound (s : State) : Int := (opqMaxUs s + 40) * 1000

def clampCredit (s : State) (c : Int) : Int := max (-2 * creditBound s) (min (creditBound s) c)

/-- R87: a partition, or a queue, that becomes backlogged again takes credit min(its credit, 0). -/
def markBacklog (s : State) (p : Nat) : State :=
  let l := (headOp s p false).isSome
  let d := (headOp s p true).isSome
  modPart s p fun P => { P with
    credit := if (l || d) && !P.backlogged then min P.credit 0 else P.credit
    backlogged := l || d
    qCredit := (if l && !P.qBack.1 then min P.qCredit.1 0 else P.qCredit.1,
                if d && !P.qBack.2 then min P.qCredit.2 0 else P.qCredit.2)
    qBack := (l, d) }

/-- R87: the part of c a partition is charged. -/
def shareOf (o : ArrayOp) (p c : Nat) : Nat :=
  let total := sumN (o.shares.map (·.vecs))
  if total = 0 then 0 else c * sumN ((o.shares.filter (·.part == p)).map (·.vecs)) / total

/-- R87, R88: the credits of one partition and of its queues after an issue of c ns. `w` and `W`: weights. An operation that
serves several partitions counts as issued from each of them, and from the queue of each that it stands in, for the ties
that go to the least recent (DESIGN CHOICE, assumption log 78: the rule does not say whether only the one Helm picked it from
counts). -/
def creditPart (s : State) (o : ArrayOp) (c W : Nat) (seq : Option Nat) (back : List Nat) (p : Nat) : State :=
  let mine := shareOf o p c
  let gain : Int := if back.contains p ∧ W ≠ 0 then (c * arrayWeight s p / W : Nat) else 0
  let served := o.shares.any (·.part == p)
  modPart s p fun P =>
    let ws := (if P.qBack.1 then P.pfShare else 0, if P.qBack.2 then 64 - P.pfShare else 0)
    let q := ws.1 + ws.2
    let add := fun (w : Nat) => if q = 0 then 0 else mine * w / q
    { P with
      credit := clampCredit s (P.credit + gain - mine)
      lastIssue := if served then seq.getD P.lastIssue else P.lastIssue
      qCredit := (clampCredit s (P.qCredit.1 + add ws.1 - (if o.decode then 0 else mine : Nat)),
                  clampCredit s (P.qCredit.2 + add ws.2 - (if o.decode then mine else 0 : Nat)))
      qLast := if !served then P.qLast
               else if o.decode then (P.qLast.1, seq.getD P.qLast.2) else (seq.getD P.qLast.1, P.qLast.2) }

/-- CK_ARR cycles at the clock in force, in ns. -/
def arrNs (s : State) (cycles : Nat) : Nat := cycles * 1000 / max 1 s.power.ckArr

/-- R86, R87: run time at the clock in force, in ns. -/
def runNs (s : State) (o : ArrayOp) : Nat := arrNs s (opCycles o)

/-- R87: c ns of array time charged to an operation's partitions and shared among the backlogged ones. -/
def chargeTime (s : State) (o : ArrayOp) (c : Nat) (seq : Option Nat) (back : List Nat) : State :=
  let W := sumN (back.map (arrayWeight s))
  forEach s allParts fun s p => creditPart s o c W seq back p

/-- R87: the charge of an issue: run time and swap. One that has been issued before and had not entered is not charged
again. -/
def chargeIssue (s : State) (o : ArrayOp) (swap : Nat) (back : List Nat) : State :=
  let s := { s with helm := { s.helm with seq := s.helm.seq + 1 } }
  chargeTime s o ((if o.paid then 0 else runNs s o) + swap) (some s.helm.seq) back

/-! ### Entry (R106, R107, R109, R120-R122) -/

/-- R106: the register sets the next tile takes, in turn: a BF16 tile takes two. -/
def nextSets (s : State) (o : ArrayOp) : List Nat :=
  if o.bf16 then [s.array.ws, (s.array.ws + 1) % 8] else [s.array.ws]

/-- R106: sets held by operations that have entered and are not complete (assumption log 77). -/
def setsHeld (s : State) : List Nat := s.helm.issued.flatMap fun o => match o.run with | some r => r.sets | none => []

/-- R187: the operations of a sketch build form an ACCUM chain. -/
def batchQueries (s : State) (n : Nat) : List Query := s.bearing.queries.filter fun q => q.st = .building && q.batch == n

def batchHeader (s : State) (n : Nat) : Option (Query × IndexHeader) :=
  (batchQueries s n).head?.bind fun q => (qHeader s q).map fun h => (q, h)

/-- R109: the WAIT_BACK condition at entry: nothing it covers is still in Helm's hands. -/
def entryMet (s : State) (o : ArrayOp) : Bool :=
  match o.src with
  | .step sid i =>
    (List.range (waitLimit i (waitBack o.step))).all fun j => !stepTaken s sid j
  | .build _ _ n j =>
    (match batchHeader s n with
     | some (_, h) => h.sketchBits == 0 || !(helmOps s).any fun a => match a.src with
         | .build _ _ m i => m == n && decide (i < j)
         | .step .. => false
     | none => true)

/-- R104, R109, R110, R264: what an array step reads as it streams. -/
def stepEntry (s : State) (o : ArrayOp) (sid i : Nat) (sets : List Nat) : OpRun :=
  let b := o.step
  let x := stream s sid
  let r := stepData s b (x.bind (opVariant s)) (x.bind fun x => opTile x i)
  { sets := sets, prods := products r.1
    yin := if gAccum b then (List.range (gM b)).map fun m => readF32 s (gYin b + m * gYStride b) (gN b) else []
    bias := if gEpiEn b && gBias b != 0xFFFFFFFF then readF32 s (gBias b) (gN b) else []
    sums := checkSums (gK b) r.1, sat := r.2.1, nanBlocks := r.2.2
    bad := (gIns b).any fun r => poisoned s r.1 r.2 }

/-- R173, R187: the operands of piece j of a batch: the columns of its queries, zero where a query has left. -/
def buildEntry (s : State) (o : ArrayOp) (n j : Nat) (sets : List Nat) : OpRun :=
  match batchHeader s n with
  | none => ⟨sets, [], [], [], ⟨[], [], [], []⟩, 0, 0, false⟩
  | some (_, h) =>
    let at_ := fun c => (batchQueries s n).find? fun q => q.col == c
    let qs := (List.range o.n).map fun c => match at_ c with | some q => q.q | none => List.replicate h.dim 0
    let d := buildData s h j qs
    let before := (List.range o.n).map fun c => ((at_ c).map fun q => tget [] q.built (j - 1)).getD []
    { sets := sets, prods := products d
      yin := if h.sketchBits ≠ 0 ∧ j ≠ 0 then (List.range o.m).map fun m => before.map fun l => l.getD m 0 else []
      bias := [], sums := checkSums o.k d, sat := 0, nanBlocks := 0, bad := poisoned s 0 (setBytes h) }

/-- R120, R121: the groups are ungated, in order, before a vector enters. -/
def rampUp (s : State) : State :=
  let s := if s.array.groups = 0 then countEv s 0 7 0 none 1 else s
  { s with array := { s.array with groups := 11 } }

/-- R107: the operation issued last enters once its sets are free and what its WAIT_BACK covers is complete; nothing
passes it. -/
def enterNext (s : State) : State :=
  match s.helm.issued.getLast? with
  | none => s
  | some o =>
    let sets := nextSets s o
    if o.run.isSome || !entryMet s o || sets.any (setsHeld s).contains then s
    else
      let r := match o.src with
        | .step sid i => stepEntry s o sid i sets
        | .build _ _ n j => buildEntry s o n j sets
      let p := o.shares.head?.map (·.part)
      let s := countEv (countEv (rampUp s) 1 0 0 p r.sat) 1 1 0 p r.nanBlocks
      { s with
        helm := { s.helm with issued := s.helm.issued.dropLast ++ [{ o with run := some r }] }
        array := { s.array with ws := (s.array.ws + sets.length) % 8, fill := !o.curLong, lastAt := s.now } }

/-- R107, R434: the operation is issued to the array. -/
def placeOp (s : State) (o : ArrayOp) : State :=
  let s := countEv s 0 0 0 (o.shares.head?.map (·.part)) 1
  let s := forEach s (o.shares.map (·.part)) fun s p => countEv s 0xB 0 p (some p) 1
  enterNext { s with helm := { s.helm with issued := s.helm.issued ++ [{ o with paid := true }] } }

/-- R87: the partitions that share an issued operation's charge: those still backlogged, and its own, whose operation
was issuable until now. -/
def sharesIn (s : State) (o : ArrayOp) : List Nat :=
  let b := backloggedParts s
  allParts.filter fun p => b.contains p || o.shares.any fun x => x.part == p

/-- R90: issue at once, or start the swap the operation needs. -/
def issueOp (s : State) (o : ArrayOp) (back : List Nat) : State :=
  if s.helm.ctx = o.ctx then placeOp (chargeIssue s o 0 back) o
  else { s with helm := { s.helm with swap := some (o.ctx, o) } }

/-- R87-R90: what Helm does at an acceptance point. R87: a partition or queue that the issue emptied is backlogged no
longer. -/
def acceptNext (s : State) : State :=
  match s.helm.rerun with
  | o :: rest =>
    let s := { s with helm := { s.helm with rerun := rest } }
    if arrayUp s || o.rerun || o.paid then issueOp s o (sharesIn s o) else endOp s o .domainOff
  | [] =>
    let s := purge s (issuable s).length
    let s := forEach s allParts markBacklog
    match (choosePart s).bind fun pc => chooseOp s pc.1 pc.2 with
    | none => s
    | some o => let back := backloggedParts s
                forEach (issueOp (takeOp s o) o back) allParts markBacklog

/-- R107: whether the operation issued last has entered, and so can come to its acceptance point. -/
def lastEntered (s : State) : Bool := match s.helm.issued.getLast? with | some o => o.run.isSome | none => true

/-- ARRAY_ACCEPTANCE (R107): streams generated for requests start, and Helm issues the next operation. -/
def execArrayAcceptance (t : Nat) (fresh : List ReqStream) (s : State) : Host.Outcome State Fault Refusal :=
  let s' := tick s t
  if !isReady s' then .next s
  else
    let s := settled (forEach s' fresh startReq)
    if (s.helm.stopped && s.helm.rerun.isEmpty) || s.helm.swap.isSome || !lastEntered s then .next s
    else if arrayUp s && (List.range 15).any fun d => !domIs s d .on then .next s
    else .next (settled (acceptNext s))

/-- R90: the most a swap to a context may be charged, by the parts that differ: the dirty words out and the incoming set
in, 16.8 µs each, the Arc tables and micro-programs 2 µs, the grammars 4 µs. -/
def swapBound (s : State) (ctx : Nat) : Nat :=
  let a := (ctxOf s s.helm.ctx).getD ⟨[], [], [], []⟩
  let b := (ctxOf s ctx).getD ⟨[], [], [], []⟩
  (if s.helm.dirty.isEmpty then 0 else 16800) + (if b.ranges.isEmpty then 0 else 16800)
    + (if a.tables = b.tables ∧ a.programs = b.programs then 0 else 2000) + (if a.grammars = b.grammars then 0 else 4000)

/-- CONTEXT_SWAP (R90): once the running operation is complete; the incoming operation is charged with the swap's time,
within the bounds of its parts, and issued. R409: with the array drained meanwhile nothing further is issued: the swap is
off, and the operation ends DOMAIN_OFF. -/
def execContextSwap (t took : Nat) (s : State) : Host.Outcome State Fault Refusal :=
  let s' := tick s t
  match s'.helm.swap with
  | none => .next s
  | some (ctx, o) =>
    if !s'.helm.issued.isEmpty || !isReady s' then .next s
    else if arrayUp s' && (List.range 15).any fun d => !domIs s' d .on then .next s
    else if !(arrayUp s' || o.rerun) then .next (endOp { s' with helm := { s'.helm with swap := none } } o .domainOff)
    else
      let c := min took (swapBound s' ctx)
      let s := { s' with helm := { s'.helm with swap := none } }
      let bad := ctxBad s ctx
      let s := if bad then swapOut s else swapTo s ctx
      let s := forEach s (o.shares.map (·.part)) fun s p => countEv s 0xB 1 p (some p) (c / 1000)
      if bad then .next (endOp (chargeTime s o c none (sharesIn s o)) o .dataError)
      else .next (forEach (placeOp (chargeIssue s o c (sharesIn s o)) o) allParts markBacklog)

/-! ### The result (R110, R129-R133, R141) -/

/-- R110, R141: a product row after ACCUM, and after the bias. -/
def arrayRow (r : OpRun) (m : Nat) (y : List Nat) : List Nat :=
  let y := match r.yin[m]? with | some l => List.zipWith add32 l y | none => y
  if r.bias.isEmpty then y else List.zipWith add32 y r.bias

/-- R141: the output row. -/
def epilogue (s : State) (b : List Byte) (t : Elt) (us : List Nat) : OutRow :=
  if gEpiEn b then finishRow s (gCtx b) ((arcFn s (gCtx b) (gFunc b)).getD .ident) t (gScale b) us else convertRow t us

/-- The output rows of an array step from its product rows. -/
def arrayOut (s : State) (b : List Byte) (r : OpRun) (ys : List (List Nat)) : List OutRow :=
  match gOut b with
  | some t => ys.zipIdx.map fun y => epilogue s b t (arrayRow r y.2 y.1)
  | none => []

/-- R104, R173, R187: an operation's results are written: a step's rows at Y, a build's columns to its queries. -/
def writeResult (s : State) (o : ArrayOp) (r : OpRun) (ys : List (List Nat)) : State :=
  match o.src with
  | .step .. =>
    let rows := arrayOut s o.step r ys
    countRows (writeRows s ((gOut o.step).getD .fp32) (gY o.step) (gYStride o.step) rows)
      ((o.shares.head?.map (·.part)).getD 0) rows
  | .build _ _ n j =>
    let ys := ys.zipIdx.map fun y => arrayRow r y.2 y.1
    match batchHeader s n with
    | none => s
    | some (_, h) =>
      let s := ys.zipIdx.foldl (fun s y => devWrite s (buildOut h j o.n y.2) (f32Bytes y.1)) s
      { s with bearing := { s.bearing with queries := s.bearing.queries.map fun q =>
          if q.st = .building ∧ q.batch = n then { q with built := tset [] q.built j (ys.map fun y => y.getD q.col 0) } else q } }

/-! ### The checks (R114-R116, R119) -/

/-- R114: |a − c| exceeds n × (2^-24 × t + 2^-125), compared exactly. -/
def exceeds (n a c t : Nat) : Bool :=
  let tau := (FV.fin false n 0).mul (((dec32 t).scale (-24)).add (.fin false 1 (-125)))
  tau.lt ((dec32 a).add (dec32 c).neg).abs

def allFin (l : List Nat) : Bool := l.all fun c => (dec32 c).isFin

/-- R112, R113: the terms of the row checks, m below M, and of the column checks, n below N. -/
structure RowTerms where
  s : Nat
  t : Nat
  a : Nat
  deriving DecidableEq, Repr

structure ColTerms where
  u : Nat
  v : Nat
  b : Nat
  deriving DecidableEq, Repr

/-- A listed value, or what R129 or R112 gives. -/
def seen (l : List (Nat × Nat × Nat)) (i j d : Nat) : Nat := ((l.find? fun x => x.1 == i && x.2.1 == j).map (·.2.2)).getD d

/-- R113: the product rows as they leave the last data cell. -/
def drainRows (r : OpRun) (ck : Checks) : List (List Nat) :=
  r.prods.zipIdx.map fun y => y.1.zipIdx.map fun e => seen ck.prods y.2 e.2 e.1

/-- R112: T_m in ascending n from the rows that left the array. -/
def rowTerms (r : OpRun) (ck : Checks) (ys : List (List Nat)) : List RowTerms :=
  ys.zipIdx.map fun y =>
    ⟨seen ck.terms 0 y.2 (r.sums.s.getD y.2 0), seen ck.terms 1 y.2 (sum32 y.1), seen ck.terms 2 y.2 (r.sums.a.getD y.2 0)⟩

/-- R112: V_n in ascending m. -/
def colTerms (o : ArrayOp) (r : OpRun) (ck : Checks) (ys : List (List Nat)) : List ColTerms :=
  (sumLists o.n ys).zipIdx.map fun v =>
    ⟨seen ck.terms 3 v.2 (r.sums.u.getD v.2 0), seen ck.terms 4 v.2 v.1, seen ck.terms 5 v.2 (r.sums.b.getD v.2 0)⟩

/-- R115: a check with a term, an output among them, that is NaN or infinite is skipped. -/
def rowSkipped (y : List Nat) (c : RowTerms) : Bool := !(allFin y && allFin [c.s, c.t, c.a])
def colSkipped (ys : List (List Nat)) (n : Nat) (c : ColTerms) : Bool :=
  !(allFin (ys.map fun y => y.getD n 0) && allFin [c.u, c.v, c.b])

/-- R114. -/
def rowFails (o : ArrayOp) (y : List Nat) (c : RowTerms) : Bool := !rowSkipped y c && exceeds (2 * o.k + 2 * o.n + 8) c.s c.t c.a
def colFails (o : ArrayOp) (ys : List (List Nat)) (n : Nat) (c : ColTerms) : Bool :=
  !colSkipped ys n c && exceeds (2 * o.k + 2 * o.m + 8) c.u c.v c.b

/-- What an operation's own checks say (R114-R116): checks skipped, whether a row fails, the columns that fail. -/
structure OpVerdict where
  skipped : Nat
  row : Bool
  cols : List Nat
  deriving DecidableEq, Repr

def verdict (o : ArrayOp) (r : OpRun) (ck : Checks) (ys : List (List Nat)) : OpVerdict :=
  let rs := ys.zip (rowTerms r ck ys)
  let cs := (colTerms o r ck ys).zipIdx
  { skipped := (rs.filter fun x => rowSkipped x.1 x.2).length + (cs.filter fun c => colSkipped ys c.2 c.1).length
    row := rs.any fun x => rowFails o x.1 x.2
    cols := (cs.filter fun c => colFails o ys c.2 c.1).map (·.2) }

/-- R116: the operation mismatches. -/
def mismatch (ck : Checks) (v : OpVerdict) : Bool := !ck.parity.isEmpty || v.row || !v.cols.isEmpty

/-- R101: the physical number (R434) of a logical block-column: the spare, the last line, stands in for the one retired. -/
def physCol (s : State) (l : Nat) : Nat := if s.array.colSpare = some (66 + l) then 131 else 66 + l

/-- R119: the block-lines a mismatch is charged to. -/
def chargedLines (s : State) (ck : Checks) (v : OpVerdict) : List Nat :=
  if !ck.parity.isEmpty then ck.parity
  else if !v.cols.isEmpty then v.cols.foldl (fun l c => insertNat (physCol s (c / 16)) l) []
  else [physCol s 64]

/-! ### Completion (R108, R116-R118) -/

/-- R265: the request a row of a stream's input vectors belongs to. -/
def rowOwner : List (Handle × Nat) → Nat → Option Handle
  | [], _ => none
  | h :: r, m => if m < h.2 then some h.1 else rowOwner r (m - h.2)

/-- R265: a step that computes partial sums of a split projection sends its FP32 rows to every member, this one included. -/
def sendPartials (s : State) (sid i : Nat) (b : List Byte) : State :=
  match (stream s sid).bind (·.req) with
  | none => s
  | some r =>
    match r.partials.lookup i with
    | none => s
    | some row0 =>
      if r.purpose ≠ 3 then s
      else
        forEach s (List.range (gM b)) fun s m =>
          match rowOwner r.hs m with
          | none => s
          | some h =>
            let vals := readF32 s (gY b + m * gYStride b) (gN b)
            forEach s (groupOf s) fun s d => deliver s d h.part (.partialRows h (row0 + m) vals)

/-- An operation that passed: its step completes, in a stream that has ended too (R105), or its input was poisoned
(R297). -/
def passOp (s : State) (o : ArrayOp) (r : OpRun) : State :=
  match o.src with
  | .step sid i =>
    if r.bad then settled (failStream s sid .dataError)
    else settled (stepDone (sendPartials s sid i o.step) sid i)
  | .build .. => if r.bad then endOp s o .dataError else s

/-- R117: an operation that has been issued and has not entered goes behind the re-execution, charged already; one that a
swap is for, not charged yet. -/
def heldOps (s : State) : List ArrayOp :=
  s.helm.issued.filter (·.run.isNone) ++ (match s.helm.swap with | some x => [x.2] | none => [])

/-- R117, R118: an operation that mismatched: re-executed once, ahead of every other; the second time it ends
CHECK_MISMATCH and its block-lines are suspect. -/
def mismatchOp (s : State) (o : ArrayOp) (ck : Checks) (v : OpVerdict) : State :=
  let lines := chargedLines s ck v
  let p := o.shares.head?.map (·.part)
  if !o.rerun then
    let s := forEach s lines fun s l => chargeTransient (countEv s 0 1 l p 1) clsLine l
    { s with helm := { s.helm with
        issued := s.helm.issued.filter (·.run.isSome)
        swap := none
        rerun := s.helm.rerun.filter (·.rerun) ++ [{ o with rerun := true, paid := false, run := none }]
          ++ s.helm.rerun.filter (!·.rerun) ++ heldOps s } }
  else
    let s := forEach s lines fun s l =>
      declareBad { countEv s 0 2 l p 1 with array := { s.array with suspect := insertNat l s.array.suspect } } clsLine l
    endOp s o .checkMismatch

/-- R111, R122: empty slots of a run lengthen it and are charged; those slots, and after a SHORT operation the slots of the
gap up to 512 cycles, carry dummy vectors, which step their generator (its sequence is open: assumption log 7). -/
def idleSlots (s : State) (o : ArrayOp) (empty gap : Nat) : State :=
  let q := opCycles o / (o.m + 2)
  let s := countEv s 0 5 0 (o.shares.head?.map (·.part)) empty
  let s := if empty = 0 then s else chargeTime s o (arrNs s (empty * q)) none (sharesIn s o)
  let dummies := empty + (if o.curLong then 0 else min gap 512 / (if o.bf16 then 4 else 1))
  let s := countEv s 0 6 0 none dummies
  if dummies = 0 then s else { drawn s with array := { s.array with dummy := draw s % 2 ^ 32 } }

/-- R108: from the last check vector's entry to completion: 2,100 CK_ARR cycles and 40 ns. -/
def completeNs (s : State) : Nat := arrNs s 2100 + 40

/-- OPERATION_COMPLETE (R108): the oldest issued operation's verdict is known and its last result written, right or wrong
(R118); the operation issued last may enter. -/
def execOperationComplete (t : Nat) (ck : Checks) (empty gap : Nat) (s : State) : Host.Outcome State Fault Refusal :=
  let s' := tick s t
  match s'.helm.issued with
  | [] => .next s
  | o :: rest =>
    match o.run with
    | none => .next s
    | some r =>
      if !isReady s' then .next s
      else
        let ys := drainRows r ck
        let v := verdict o r ck ys
        let s := { s' with
          helm := { s'.helm with issued := rest }
          array := { s'.array with lastAt := max s'.array.lastAt (s'.now - completeNs s') } }
        let s := countEv (idleSlots s o empty gap) 0 3 0 none v.skipped
        let s := forEach s ck.parity fun s l => countEv s 0 4 l none 1
        let s := if r.bad then s else writeResult s o r ys
        let s := if mismatch ck v then mismatchOp s o ck v else passOp s o r
        .next (enterNext s)

/-! ### Block-lines and gates (R121, R384) -/

/-- BLOCK_LINE_RETIREMENT (R384): with nothing left in the array, the feeders take the new map and issue resumes. -/
def execBlockLineRetirement (t : Nat) (s : State) : Host.Outcome State Fault Refusal :=
  let s' := tick s t
  match declared s' clsLine with
  | [] => .next s
  | l :: rest =>
    if !s'.helm.stopped || !s'.helm.issued.isEmpty || !s'.helm.rerun.isEmpty then .next s
    else
      let s := { s' with
        array := if l < 66 then { s'.array with rowSpare := some l } else { s'.array with colSpare := some l }
        helm := { s'.helm with stopped := !rest.isEmpty } }
      .next (retireFree s clsLine l)

/-- ARRAY_RAMP_DOWN (R121, R122): no vector has entered for 512 cycles: dummy fill stops and the groups are gated in
order, all of them, or as many as were gated when an arriving operation stopped the ramp. -/
def execArrayRampDown (t gated : Nat) (s : State) : Host.Outcome State Fault Refusal :=
  let s' := tick s t
  if s'.helm.issued.any (·.run.isSome) || s'.array.groups == 0 || decide (s'.now < s'.array.lastAt + arrNs s' 512) then .next s
  else
    .next (countEv { s' with array := { s'.array with groups := min s'.array.groups (11 - gated), fill := false } } 0 8 0 none 1)

end Sys2Proof.Machine
end

