-- ==== Sys2Proof/Machine/Topology.lean ====
section
/-! DEFINITION. The Expected Topology Record (R371), the classes of ports (R372), and what the topology check asks (R373). -/

namespace Sys2Proof.Machine

def side (s : State) (pin : Nat) : Sideband := tget ⟨false, false, 0⟩ s.pins.side pin

/-- R416, R373: PWR_FAIL_N settled active. -/
def pwrFail (s : State) : Bool := (side s 1).active

/-! ### The record (R371) -/

/-- PORT[p]: partner DEVNO, partner port, MIN_WIDTH, REQUIRED. -/
def etrPort (b : List Byte) (p : Nat) : Nat × Nat × Nat × Bool :=
  let o := 32 + 8 * p
  (u16 b o, u8 b (o + 2), u8 b (o + 3), bit (u8 b (o + 4)) 0)

/-- An entry in range; one that expects no partner has no port or width to check (assumption log 43). -/
def etrPortOk (s : State) (b : List Byte) (p : Nat) : Bool :=
  let e := etrPort b p
  let o := 32 + 8 * p
  decide (u8 b (o + 4) < 2) && zeros b (o + 5) (o + 8)
    && (e.1 == 0xFFFF || (decide (p < nPorts s) && decide (e.2.1 ≤ 23) && [1, 2, 4].contains e.2.2.1))

def etrOk (s : State) (b : List Byte) : Bool :=
  b.length == 256 && crcTailOk b && u16 b 0 == 1 && u16 b 2 == devno s && devno s != 0xFFFF && decide (u8 b 4 ≤ 24)
    && decide (u8 b 5 ≤ 2) && decide (u8 b 6 < 2) && u8 b 7 == 0 && decide (1 ≤ u16 b 8) && decide (u16 b 8 ≤ 3600)
    && zeros b 10 32 && zeros b 224 252 && (List.range 24).all (etrPortOk s b)

def parseEtr (b : List Byte) : Etr := ⟨u8 b 4, u8 b 5, bit (u8 b 6) 0, u16 b 8, (List.range 24).map (etrPort b)⟩

/-! ### Classes (R372) -/

def clMatch : Nat := 0
def clDegraded : Nat := 1
def clNarrow : Nat := 2
def clMismatch : Nat := 3
def clDown : Nat := 4
def clUnexpected : Nat := 5
def clUnused : Nat := 6

/-- R376: CLASS of PORT_RESULT, 4 at reset. -/
def portClass (s : State) (q : Nat) : Nat := tget 4 s.boot.portClass q

/-- R372: the class of a port; one that the check has disabled keeps its class (assumption log 44). -/
def classOf (s : State) (e : Etr) (q : Nat) : Nat :=
  let P := port s q
  let x := e.ports.getD q (0xFFFF, 0, 0, false)
  let trained := upDegraded P.st && !s.boot.heldPorts.contains q
  if bit (reg s (rPort q 0)) 0 && !P.en then portClass s q
  else if x.1 = 0xFFFF then (if trained then clUnexpected else clUnused)
  else if !trained then clDown
  else
    match P.partner with
    | none => clDown
    | some (d, p, _) =>
      if d ≠ x.1 ∨ p ≠ x.2.1 then clMismatch
      else if P.width = 4 then clMatch
      else if x.2.2.1 ≤ P.width then clDegraded
      else clNarrow

/-- R372: whether a class disables its port. -/
def classOff (e : Etr) (c : Nat) : Bool := c == clMismatch || (c == clUnexpected && !e.allowUnexpected)

/-! ### The check (R373) -/

/-- R292: every channel populated, all alike. -/
def boardOk (s : State) : Bool :=
  match s.tiers.boardCaps with
  | [] => false
  | c :: cs => [8, 16, 32].contains c && cs.all (· == c) && s.tiers.boardCaps.length == 8 * s.ident.iods

def ntMeets (s : State) (m : Nat) : Bool :=
  if m = 0 then true else if m = 1 then s.nt.status == 1 || s.nt.status == 2 else s.nt.status == 1

/-- R373: the check passes. -/
def topoPass (s : State) (e : Etr) : Bool :=
  let qs := List.range (nPorts s)
  let good := qs.filter fun q => portClass s q == clMatch || portClass s q == clDegraded
  (qs.all fun q => !classOff e (portClass s q))
    && (qs.all fun q => !(e.ports.getD q (0xFFFF, 0, 0, false)).2.2.2 || good.contains q)
    && decide (e.minPorts ≤ good.length) && ntMeets s e.ntMin && boardOk s

/-- R73, R426: the estimates as seeded at an enable and at READY. -/
def seedEstimates (s : State) (p : Nat) (P : Part) : Part :=
  { P with
    frontEst := (List.range 4).foldl (fun t c => tset 0 t c (preg s p (0x210 + 4 * c) * 65536)) []
    pfRate := preg s p 0x220 * 65536, handoff := preg s p 0x224 * 65536, admitRate := []
    winPf := 0, winBusy := false, winAdmit := []
    nextPoll := s.now + 200 }

end Sys2Proof.Machine
end

