-- ==== Sys2Proof/Machine/Partitions.lean ====
section
/-! DEFINITION. Enabling and disabling a partition (R84, R426), its waypoint range (R95) and the refill of its bandwidth
regulators (R93). -/

namespace Sys2Proof.Machine

/-! ### Enabling (R30, R73, R84, R95, R426) -/

/-- R95: two waypoint ranges share no waypoint; an empty range shares none. -/
def rangesApart (a n b m : Nat) : Bool := n == 0 || m == 0 || decide (a + n ≤ b) || decide (b + m ≤ a)

/-- R95: the partition's range lies among the 65,536 waypoints and apart from every other partition's. -/
def wpRangeOk (s : State) (p : Nat) : Bool :=
  (wpCount s p == 0 || decide (wpBase s p + wpCount s p ≤ 65536))
    && (allParts.filter (· != p)).all fun q => rangesApart (wpBase s p) (wpCount s p) (wpBase s q) (wpCount s q)

/-- R30, R95: the geometry checked at a write of EN = 1. -/
def geometryOk (s : State) (p : Nat) : Bool :=
  inRange 8 18 (cqLog s p) && inRange 6 12 (eqLog s p)
    && ((List.range 16).all fun i => !sqEn s p i || inRange 6 16 (sqLog s p i)) && wpRangeOk s p

/-- R73, R31: an enabled partition: completion and event rings that start empty, estimates seeded, the share at PF_MIN (R78).
The spec does not say where a submission ring stands after a partition is disabled and enabled again, nor which interval R34
starts from: the ring keeps its head, and the interval in force is POLL_MAX (DESIGN CHOICE, assumption log 73). -/
def seedPart (s : State) (p : Nat) (P : Part) : Part :=
  seedEstimates s p { P with
    cqTail := 0, cqHead := 0, eqTail := 0, eqHead := 0, lost := 0, pfShare := pfMin s p, interval := pollMaxNs s p }

/-- R84, R426: EN takes effect: READY with the estimates seeded, or INVALID. -/
def enablePart (s : State) (p : Nat) : State :=
  if geometryOk s p then modPart s p fun P => { seedPart s p P with st := .ready, enPending := false }
  else modPart s p fun P => { P with st := .invalid, enPending := false }

/-- R426: the other writable bits of PART_CTRL (DEVICE_EVENTS, PREFIX_SHARE) take what is written with EN. -/
def writePartCtrl (s : State) (p v : Nat) : State := setReg s (rPart p 0) (v % 8)

/-- PARTITION_ENABLE (R84): a write to PART_CTRL that sets EN. Written while DRAINING, it takes effect at the drain's
end; while READY, the partition runs on. -/
def execPartitionEnable (p : Nat) (v : W32) (t : Nat) (s : State) : Host.Outcome State Fault Refusal :=
  let s := tick s t
  if !s.boot.fw then .next s
  else
    let s := writePartCtrl s p v.toNat
    match (part s p).st with
    | .ready => .next s
    | .draining => .next (modPart s p fun P => { P with enPending := true })
    | _ => .next (enablePart s p)

/-! ### Draining (R84) -/

/-- R84: descriptors taken and not started complete CANCELLED. -/
def cancelTaken (s : State) (p : Nat) : State :=
  forEach s (part s p).taken fun s d => endTaken (dropTaken s p d) p d .cancelled

/-- R84: so does every descriptor that waits on a waypoint, and every descriptor's stream of which nothing has been issued. A stream of
which some step has been issued runs on to its end: the rule names work that has not started, and not what becomes of the
rest (DESIGN CHOICE, assumption log 73). -/
def cancelWaits (s : State) (p : Nat) : State :=
  let s := forEach s (s.wp.waits.filter fun w => w.part == p) fun s w => dropWait s .cancelled w
  forEach s (s.streams.filterMap fun e => e.2.map fun x => (e.1, x)) fun s e =>
    if e.2.part = p ∧ e.2.req.isNone ∧ e.2.next = 0 ∧ e.2.ended = none then failStream s e.1 .cancelled else s

/-- R84: the drain starts. -/
def startDrain (s : State) (p : Nat) : State :=
  cancelWaits (cancelTaken (modPart s p fun P => { P with st := .draining }) p) p

/-- PARTITION_DISABLE (R84): a write to PART_CTRL that clears EN. -/
def execPartitionDisable (p : Nat) (v : W32) (s : State) : Host.Outcome State Fault Refusal :=
  if !s.boot.fw then .next s
  else
    let s := writePartCtrl s p v.toNat
    match (part s p).st with
    | .ready => .next (startDrain s p)
    | .draining => .next (modPart s p fun P => { P with enPending := false })
    | _ => .next (modPart s p fun P => { P with st := .off })

/-- R84, R85: work of the partition on this device: its streams and those of its requests, its array operations, and what it
does for requests of other devices that carry its number. -/
def workOf (s : State) (p : Nat) : Bool :=
  (s.streams.any fun e => match e.2 with
    | some x => x.part == p || (match x.req with | some r => r.hs.any (·.1.part == p) | none => false)
    | none => false)
    || ((s.helm.queue ++ s.helm.issued ++ s.helm.rerun ++ (s.helm.swap.map (·.2)).toList).any fun o =>
        o.shares.any (·.part == p))
    || s.bearing.queries.any (·.f.handle.part == p)
    || s.gen.seqs.any (·.o.h.part == p) || s.gen.jobs.any (·.o.h.part == p)

/-- R84: nothing of the partition remains. -/
def drained (s : State) (p : Nat) : Bool :=
  (part s p).open_.isEmpty && (part s p).cqWait.isEmpty && inUse s p == 0 && !workOf s p

/-- PARTITION_DRAIN_END (R84): DRAINING ends; an EN written meanwhile enables the partition again. Waypoint counts stay. -/
def execPartitionDrainEnd (p t : Nat) (s : State) : Host.Outcome State Fault Refusal :=
  let s' := tick s t
  if (part s' p).st = .draining ∧ drained s' p = true then
    if (part s' p).enPending then .next (enablePart s' p) else .next (modPart s' p fun P => { P with st := .off })
  else .next s

/-! ### Waypoint ranges (R95) -/

/-- R95: the counters of a range start at 0. -/
def zeroRange (s : State) (lo n : Nat) : State :=
  { s with wp := { s.wp with count := s.wp.count.filter fun e => !(decide (lo ≤ e.1) && decide (e.1 < lo + n)) } }

/-- WAYPOINT_RANGE_WRITE (R95, R426): WP_BASE or WP_COUNT; the range's counters become 0. -/
def execWaypointRangeWrite (p : Nat) (count : Bool) (v : W32) (s : State) : Host.Outcome State Fault Refusal :=
  let off := rPart p (if count then 0x204 else 0x200)
  if !s.boot.fw then .next s
  else if count && 65536 < v.toNat % 2 ^ 17 then .next (ignoreWrite s off)
  else
    let s := setReg s off (v.toNat % (if count then 2 ^ 17 else 2 ^ 16))
    .next (zeroRange s (wpBase s p) (wpCount s p))

/-! ### Regulators (R93) -/

/-- R93: one bucket gains RATE bytes, up to BURST. -/
def refill (s : State) (p r : Nat) : State :=
  let s := if regRate s p r ≠ 0 ∧ bucket s p r ≤ 0 then countEv s 0xB 3 p (some p) 1 else s
  modPart s p fun P => { P with regs := tmod 0 P.regs r fun b => min (b + regRate s p r) (regBurst s p r) }

/-- REGULATOR_REFILL (R93): every 1 µs. -/
def execRegulatorRefill (t : Nat) (s : State) : Host.Outcome State Fault Refusal :=
  .next (forEach (tick s t) allParts fun s p => forEach s (List.range 5) fun s r => refill s p r)

end Sys2Proof.Machine
end

