-- ==== Sys2Proof/Machine/FeatureOps.lean ====
section
/-! DEFINITION. The Feature unit (10_feature_tables): pooling at the owner (R213-R215), the row cache (R217), and online
updates at the owner (R219-R221). -/

namespace Sys2Proof.Machine

/-! ### Rows (R209, R210) -/

def featElt (t : FeatTable) : Elt := if t.elemFmt = 9 then .fp32 else if t.elemFmt = 8 then .bf16 else .e4m3

/-- A row's bytes as FP32 codes. -/
def rowVals (t : FeatTable) (b : List Byte) : List Nat :=
  (List.range (rowElts t)).map fun i => round32 ((featElt t).val ((featElt t).code b i))

/-- R210: the local index of a row. -/
def localIdx (t : FeatTable) (r : Nat) : Nat := r / t.shards

def localRow (t : FeatTable) (r : Nat) : List Nat := rowVals t (t.rows.getD (localIdx t r) [])

/-- Element-wise sum with one rounding each. -/
def addVec (a b : List Nat) : List Nat := (a.zip b).map fun x => add32 x.1 x.2

def zeroVec (t : FeatTable) : List Nat := List.replicate (rowElts t) 0

/-- R214: rows in ascending key position, summed from +0. -/
def poolRows (t : FeatTable) (rows : List Nat) : List Nat := rows.foldl (fun acc r => addVec acc (localRow t r)) (zeroVec t)

/-! ### The row cache (R217) -/

/-- R217: the set of a row: a hash the spec does not give (assumption log 23). -/
def rowSet (table row : Nat) : Nat := mix (table * 2 ^ 32 + row) % 8192

def rowSlots (t : FeatTable) : Nat := cdiv t.rowBytes 64

/-- R217: free slots by evicting lowest counts, oldest first among equals, none above the limit. -/
def evictRows (need limit : Nat) : Nat → List CacheRow → Option (List CacheRow)
  | 0, l => if sumN (l.map (·.slots)) + need ≤ 16 then some l else none
  | n + 1, l =>
    if sumN (l.map (·.slots)) + need ≤ 16 then some l
    else
      match leastBy (fun a b => decide (a.count < b.count ∨ (a.count = b.count ∧ a.order < b.order))) l with
      | some x => if limit < x.count then none else evictRows need limit n (l.erase x)
      | none => none

/-- R430: ROWCACHE_INSERT_MAX and ROWCACHE_AGE_US. -/
def insertMax (s : State) : Nat := regBits s (rEng 4) 19 16
def rowAgeNs (s : State) : Nat := regBits s (rEng 4) 13 0 * 1000

/-- R217: a read of a row of a board-memory table, for pooling or for an update. -/
def touchRow (s : State) (p : Option Nat) (id : Nat) (t : FeatTable) (row : Nat) : State :=
  let k := rowSet id row
  let l := tget [] s.feat.cache k
  if l.any fun x => x.table == id && x.row == row then
    let l := l.map fun x => if x.table = id ∧ x.row = row then { x with count := min 15 (x.count + 1) } else x
    countEv { s with feat := { s.feat with cache := tset [] s.feat.cache k l } } 4 4 id p 1
  else
    let s := countEv s 4 5 id p 1
    match evictRows (rowSlots t) (insertMax s) l.length l with
    | some l =>
      { s with feat := { s.feat with
          order := s.feat.order + 1
          cache := tset [] s.feat.cache k (l ++ [⟨id, row, rowSlots t, 1, s.feat.order⟩]) } }
    | none => countEv s 4 6 id p 1

/-- ROW_CACHE_AGEING (R217): every count is halved. -/
def execRowCacheAgeing (t : Nat) (s : State) : Host.Outcome State Fault Refusal :=
  let s := tick s t
  let c := s.feat.cache.map fun e => (e.1, e.2.map fun x => { x with count := x.count / 2 })
  .next { s with feat := { s.feat with cache := c } }

/-! ### Pooling (R213-R216) -/

/-- R213: a key is valid: not 0xFFFF_FFFF, and below ROWS. -/
def keyValid (t : FeatTable) (k : Nat) : Bool := k != 0xFFFFFFFF && decide (k < t.rowCount)

/-- R212: the keys of a lookup for a candidate. -/
def lookupKeys (l : Lookup) (c : Cand) : List Nat := if l.pkey then (c.keys.drop l.first).take l.count else [c.item]

/-- R209: where a local row stands in the table's image. -/
def rowRead (o : Obj) (t : FeatTable) (row : Nat) : ObjRead := ⟨o.uid, 192 + t.rowBytes * (1 + localIdx t row), t.rowBytes⟩

/-- R217: whether the row cache holds a row. -/
def rowCached (s : State) (id row : Nat) : Bool :=
  (tget [] s.feat.cache (rowSet id row)).any fun x => x.table == id && x.row == row

/-- R217, R94, R297: one row is read for a partition, through the row cache where the table is in board memory. Answers whether
it could not be read. -/
def readRow (s : State) (p : Nat) (o : Obj) (t : FeatTable) (row : Nat) : State × Bool :=
  let rd := rowRead o t row
  let hit := o.tier == 1 && rowCached s o.id row
  let s := if o.tier = 1 then touchRow s (some p) o.id t row else s
  if hit then (s, false) else (chargeReads s p [rd], readsBad s [rd])

/-- The partial of one (candidate, lookup) on this device, from the table as it is held; a table that is not here, or a row
that cannot be read, answers the code. -/
def poolItem (s : State) (p : Nat) (x : LookupItem) (tab : Option (Obj × FeatTable)) : State × Except Status Partial :=
  match tab with
  | none => (s, .error .noResource)
  | some (o, t) =>
    let r := x.rows.foldl (fun (a : State × Bool) row =>
      let b := readRow a.1 p o t row
      (b.1, a.2 || b.2)) (s, false)
    (r.1, if r.2 then .error .dataError else .ok ⟨x.cand, x.lookup, t.thisShard, poolRows t x.rows, x.rows.length⟩)

/-- R214: the owner answers one (candidate, lookup). -/
def answerItem (home : Nat) (h : Handle) (s : State) (x : LookupItem) : State :=
  match poolItem s h.part x (featTableOf s x.table) with
  | (s, .ok p) => deliver s home h.part (.partialSum h p)
  | (s, .error st) => deliver s home h.part (.lookupRefused h [x] st)

/-- FEATURE_LOOKUP (R214): the owner returns partial sums and row counts; rows never leave it. A device that cannot pool
refuses (R216, R29). R304, R305: a read still queued past its deadline is removed, and the home device told. -/
def execFeatureLookup (home : Nat) (h : Handle) (deadline : Nat) (items : List LookupItem) (t : Nat) (s : State) :
    Host.Outcome State Fault Refusal :=
  let s' := takeMsg (tick s t) home (.lookup h deadline items)
  if !isReady s' then .next (deliver s' home h.part (.lookupRefused h items .notReady))
  else if !featureUp s' then .next (deliver s' home h.part (.lookupRefused h items .domainOff))
  else if deadline < s'.now then
    .next (deliver (countEv s' 8 4 0 (some h.part) 1) home h.part (.lookupRefused h items .dataError))
  else .next (regulated s (forEach s' items (answerItem home h)) h.part)

/-- R215: the total of one lookup: partials in ascending shard, from +0. -/
def lookupTotal (t : FeatTable) (ps : List Partial) : List Nat × Nat :=
  let l := sortBy (fun a b => decide (a.shard < b.shard)) ps
  (l.foldl (fun acc p => addVec acc p.vec) (zeroVec t), sumN (l.map (·.n)))

/-- R215: SUM or MEAN. -/
def pooled (t : FeatTable) (mean : Bool) (ps : List Partial) : List Nat :=
  let (v, n) := lookupTotal t ps
  if !mean then v
  else if n = 0 then zeroVec t
  else v.map fun x => mul32 x (recip32 (intCode n))

/-- R216: k × the default row, rounded per element. -/
def defaultPartial (t : FeatTable) (w : FeatWait) : Partial :=
  ⟨w.cand, w.lookup, w.shard, (rowVals t t.dflt).map fun x => mul32 (intCode w.keys) x, w.keys⟩

/-! ### Updates at the owner (R219-R221) -/

/-- R220: whether a contribution's epoch has been applied. -/
def epochApplied (s : State) (r : GradRec) : Bool := decide (r.epoch < s.feat.applied)

/-- R222: while every Feature domain is off, contributions are discarded and the table is left STALE. -/
def markStale (s : State) (table : Nat) : State := { s with feat := { s.feat with stale := insertNat table s.feat.stale } }

/-- R220, R222: a contribution that is not applied is counted, and its table reads STALE. -/
def dropContrib (s : State) (c : GradRec) : State := countEv (markStale s c.table) 4 3 c.table none 1

/-- UPDATE_RECORD_RECEIVE (R219, R220): a contribution waits for its epoch's apply; one too late makes the table STALE. -/
def execUpdateRecordReceive (r : GradRec) (s : State) : Host.Outcome State Fault Refusal :=
  let s := { s with links := { s.links with inbox := s.links.inbox.filter fun m =>
    match m.2 with | .update _ _ x => x != r | _ => true } }
  if !isReady s then .next s
  else if epochApplied s r || !featureUp s then .next (dropContrib s r)
  else .next { s with feat := { s.feat with contribs := s.feat.contribs ++ [r] } }

/-- UPDATE_EPOCH_END (R219): epochs are intervals of network time; the next one numbers its records from 0. -/
def execUpdateEpochEnd (t : Nat) (s : State) : Host.Outcome State Fault Refusal := .next (advanceEpoch (tick s t))

/-- R220: contributions of one row in ascending (source, batch position). -/
def gradBefore (a b : GradRec) : Bool := decide (a.src < b.src) || (decide (a.src = b.src) && decide (a.pos < b.pos))

/-- R220: the update of one row, and the saturations R136 counts. -/
def applyRow (t : FeatTable) (b : List Byte) (cs : List GradRec) : List Byte × Nat :=
  let g := (sortBy gradBefore cs).foldl (fun acc c => addVec acc c.grad) (zeroVec t)
  let l := ((rowVals t b).zip g).map fun x => convertElt (featElt t) (dec32 (sub32 x.1 (mul32 t.lr x.2)))
  ((featElt t).pack (l.map (·.1)), sumN (l.map (·.2)))

/-- R220: the contributions of a table's own shard. -/
def mineOf (id : Nat) (t : FeatTable) (cs : List GradRec) : List GradRec :=
  cs.filter fun c => c.table == id && c.row % t.shards == t.thisShard

/-- R220, R217, R297: one row of a table is updated: read through the row cache, and written in its image and its cached copy.
A row that cannot be read stays as it is, and the table reads STALE (assumption log 87). -/
def updateRow (uid : Nat) (cs : List GradRec) (s : State) (row : Nat) : State :=
  match s.obj.objs.find? fun o => o.uid == uid && o.kind == 8 with
  | none => s
  | some o =>
    match o.body with
    | .featTable t =>
      let rd := rowRead o t row
      let mine := (mineOf o.id t cs).filter fun c => c.row == row
      if readsBad s [rd] then forEach s mine dropContrib
      else
        let s := if o.tier = 1 then touchRow s none o.id t row else s
        let i := localIdx t row
        let r := applyRow t (t.rows.getD i []) mine
        let s := countEv s 1 0 0 none r.2
        let s := { s with obj := { s.obj with objs := s.obj.objs.map fun x =>
          if x.uid = uid ∧ x.kind = 8 then { x with body := .featTable { t with rows := t.rows.set i r.1 } } else x } }
        (match placeFor s (.image uid) with
         | some p => devWrite s (p.addr + rd.off) r.1
         | none => s)
    | _ => s

/-- R220, R221: the rows of one table with contributions, in ascending row, once each. -/
def updateTable (cs : List GradRec) (s : State) (o : Obj) : State :=
  match o.body with
  | .featTable t =>
    if o.evicted then s
    else forEach s ((mineOf o.id t cs).foldl (fun l c => insertNat c.row l) []) (updateRow o.uid cs)
  | _ => s

/-- R220, R222: one epoch is applied; with every Feature domain off its contributions are lost. -/
def applyEpoch (s : State) (epoch : Nat) : State :=
  let cs := s.feat.contribs.filter fun c => c.epoch == epoch
  let s := { s with feat := { s.feat with
    contribs := s.feat.contribs.filter fun c => c.epoch != epoch, applied := epoch + 1 } }
  if !featureUp s then forEach s cs dropContrib else forEach s s.obj.objs (updateTable cs)

/-- R220: the epochs up to one that have contributions, ascending, and that one. -/
def dueEpochs (s : State) (epoch : Nat) : List Nat :=
  insertNat epoch ((s.feat.contribs.filter fun c => decide (c.epoch ≤ epoch)).foldl (fun l c => insertNat c.epoch l) [])

/-- EPOCH_APPLY (R217, R220, R221): UPD_GRACE_US after the epoch's end, every row with contributions is updated once; epochs
before it that still stand are applied first. -/
def execEpochApply (epoch t : Nat) (s : State) : Host.Outcome State Fault Refusal :=
  let s' := advanceEpoch (tick s t)
  if epoch < s'.feat.applied ∨ s'.feat.epoch ≤ epoch ∨ s'.now < epochEnd s' epoch + graceNs s' then .next s
  else .next (forEach s' (dueEpochs s' epoch) applyEpoch)

end Sys2Proof.Machine
end

