-- ==== Sys2Proof/Machine/Plotter.lean ====
section
/-! DEFINITION. What the Plotter computes: UTF-8 characters and pieces (R228-R230), byte-pair tokens (R231), cuts (R234,
R239), pairs (R237), packing (R238), hold-back bytes (R242), and the vocabulary cache (R227). -/

namespace Sys2Proof.Machine

/-! ### Characters (R228) -/

def contByte (b : Nat) : Bool := 0x80 ≤ b && b ≤ 0xBF

/-- The range of the second byte of a multi-byte character whose first byte is `a`; none where `a` starts none. -/
def secondRange (a : Nat) : Option (Nat × Nat) :=
  if 0xC2 ≤ a ∧ a ≤ 0xDF then some (0x80, 0xBF)
  else if a = 0xE0 then some (0xA0, 0xBF)
  else if a = 0xED then some (0x80, 0x9F)
  else if 0xE1 ≤ a ∧ a ≤ 0xEF then some (0x80, 0xBF)
  else if a = 0xF0 then some (0x90, 0xBF)
  else if 0xF1 ≤ a ∧ a ≤ 0xF3 then some (0x80, 0xBF)
  else if a = 0xF4 then some (0x80, 0x8F)
  else none

/-- Bytes of the character a first byte starts. -/
def charLen (a : Nat) : Nat := if a < 0x80 then 1 else if a < 0xE0 then 2 else if a < 0xF0 then 3 else 4

/-- How many bytes at the front of a text form a well-formed character or the start of one: all of it when whole. -/
def goodPart (b : List Byte) : Nat :=
  match b with
  | [] => 0
  | a :: r =>
    if a.toNat < 0x80 then 1
    else
      match secondRange a.toNat with
      | none => 0
      | some (lo, hi) =>
        match r with
        | [] => 1
        | x :: r =>
          if !(lo ≤ x.toNat && x.toNat ≤ hi) then 1
          else 2 + ((r.take (charLen a.toNat - 2)).takeWhile fun y => contByte y.toNat).length

/-- The code point of a whole character. -/
def codePoint (b : List Byte) : Nat :=
  match b with
  | [] => 0
  | a :: r =>
    let n := charLen a.toNat
    r.foldl (fun c x => c * 64 + x.toNat % 64) (if n = 1 then a.toNat else a.toNat % 2 ^ (7 - n))

/-- The character at the front: its bytes, and its code point; an ill-formed byte stands alone with none. -/
def charAt (b : List Byte) : List Byte × Option Nat :=
  match b with
  | [] => ([], none)
  | a :: _ =>
    let n := charLen a.toNat
    if goodPart b = n then (b.take n, some (codePoint (b.take n))) else (b.take 1, none)

/-- R228: a text as characters. -/
def charsOf : Nat → List Byte → List (List Byte × Option Nat)
  | 0, _ => []
  | n + 1, b => if b.isEmpty then [] else charAt b :: charsOf n (b.drop (charAt b).1.length)

def chars (b : List Byte) : List (List Byte × Option Nat) := charsOf b.length b

/-- R228: the class of a character. -/
def charClass (v : VocabObj) (c : Option Nat) : Nat :=
  match c with
  | none => 15
  | some cp => (v.ranges.takeWhile fun r => r.1 ≤ cp).foldl (fun _ r => r.2) 0

/-- R228: ill-formed bytes of a text. -/
def illFormed (b : List Byte) : Nat := ((chars b).filter fun c => c.2 = none).length

/-- R234: cut after the last whole character at or before the limit. -/
def cutText (b : List Byte) (limit : Nat) : List Byte :=
  if b.length ≤ limit then b
  else
    b.take ((chars b).foldl (fun (a : Nat × Bool) c =>
      if a.2 && decide (a.1 + c.1.length ≤ limit) then (a.1 + c.1.length, true) else (a.1, false)) (0, true)).1

/-! ### Pieces (R229, R230) -/

/-- R224: BREAK bit (a, b). -/
def breaks (v : VocabObj) (a b : Nat) : Bool := bit (u8 v.brk (2 * a + b / 8)) (b % 8)

/-- R229: characters into pieces; `cur` is the piece in hand (last character first) with its last class. -/
def splitPieces (v : VocabObj) : List (List Byte × Option Nat) → Option (List (List Byte) × Nat) → List (List (List Byte))
  | [], none => []
  | [], some (cur, _) => [cur.reverse]
  | c :: cs, none => splitPieces v cs (some ([c.1], charClass v c.2))
  | c :: cs, some (cur, cl) =>
    if breaks v cl (charClass v c.2) then cur.reverse :: splitPieces v cs (some ([c.1], charClass v c.2))
    else splitPieces v cs (some (c.1 :: cur, charClass v c.2))

/-- R230: a piece longer than 512 bytes, split after whole characters. -/
def split512 : List (List Byte) → List Byte → List (List Byte)
  | [], cur => if cur.isEmpty then [] else [cur]
  | c :: cs, cur => if 512 < cur.length + c.length then cur :: split512 cs c else split512 cs (cur ++ c)

def pieces (v : VocabObj) (b : List Byte) : List (List Byte) :=
  (splitPieces v (chars b) none).flatMap fun p => split512 p []

/-! ### Merges (R231) -/

/-- The rank and result of the merge of a pair. -/
def mergeOf (v : VocabObj) (a b : Nat) : Option (Nat × Nat) :=
  (v.merges.zipIdx.find? fun m => m.1.1 == a && m.1.2.1 == b).map fun m => (m.2, m.1.2.2)

/-- The lowest-rank merge of any adjacent pair, leftmost among equals: its rank, position and result. -/
def bestMerge (v : VocabObj) : Nat → List Nat → Option (Nat × Nat × Nat)
  | i, a :: b :: r =>
    match mergeOf v a b, bestMerge v (i + 1) (b :: r) with
    | none, y => y
    | some (k, x), none => some (k, i, x)
    | some (k, x), some y => if k ≤ y.1 then some (k, i, x) else some y
  | _, _ => none

def mergeLoop (v : VocabObj) : Nat → List Nat → List Nat
  | 0, l => l
  | n + 1, l =>
    match bestMerge v 0 l with
    | none => l
    | some (_, i, x) => mergeLoop v n (l.take i ++ x :: l.drop (i + 2))

/-- R231: one piece. -/
def tokenisePiece (v : VocabObj) (p : List Byte) : List Nat :=
  mergeLoop v p.length (p.map fun b => v.byteToks.getD b.toNat 0)

/-- R231: a text. -/
def tokenise (v : VocabObj) (b : List Byte) : List Nat := (pieces v b).flatMap (tokenisePiece v)

def tokText (v : VocabObj) (t : Nat) : List Byte := v.texts.getD t []

/-! ### The vocabulary cache (R227) -/

/-- R225, R227: the lines of the string pool that hold a token's text, as even numbers. -/
def stringLines (v : VocabObj) (t : Nat) : List Nat :=
  (linesOf (sumN ((v.texts.take t).map List.length)) (tokText v t).length).map (2 * ·)

/-- R226, R227: the line of the merge index a pair's look-up reads, as an odd number: 16 bytes to an entry, and a pair's entry
by its hash, which the spec does not give (DESIGN CHOICE, assumption log 62). -/
def pairLine (v : VocabObj) (x : Nat × Nat) : Nat := 2 * (mix (x.1 * 2 ^ 32 + x.2) % max 1 v.merges.length / 4) + 1

/-- Adjacent pairs. -/
def pairsOf : List Nat → List (Nat × Nat)
  | a :: b :: r => (a, b) :: pairsOf (b :: r)
  | _ => []

/-- R231: the pairs each merge makes, which are looked up next. -/
def mergeLooks (v : VocabObj) : Nat → List Nat → List (Nat × Nat)
  | 0, _ => []
  | n + 1, l =>
    match bestMerge v 0 l with
    | none => []
    | some (_, i, x) =>
      let l := l.take i ++ x :: l.drop (i + 2)
      pairsOf ((l.drop (i - 1)).take (if i = 0 then 2 else 3)) ++ mergeLooks v n l

/-- R231: every pair whose rank a piece's tokenising looks up. -/
def pieceLooks (v : VocabObj) (p : List Byte) : List (Nat × Nat) :=
  let l := p.map fun b => v.byteToks.getD b.toNat 0
  pairsOf l ++ mergeLooks v p.length l

/-- R227: the lines that tokenising a text reads. -/
def textLines (v : VocabObj) (b : List Byte) : List Nat :=
  if v.merges.isEmpty then [] else ((pieces v b).flatMap (pieceLooks v)).map (pairLine v)

/-- What look-ups have done to the cache: its lines, hits, and the lines that missed. -/
structure VTouch where
  cache : List VLine
  hits : Nat
  missed : List Nat
  deriving DecidableEq, Repr

/-- R227: a hit restarts a line's age; a miss fills, over the least recently hit line of a full set. -/
def touchVLine (now vocab : Nat) (c : VTouch) (line : Nat) : VTouch :=
  let st := line % 4096
  if c.cache.any fun l => l.vocab == vocab && l.line == line then
    { c with cache := c.cache.map fun l => if l.vocab = vocab ∧ l.line = line then { l with hit := now } else l
             hits := c.hits + 1 }
  else
    let old := if 16 ≤ (c.cache.filter fun l => l.set == st).length then
        leastBy (fun a b => decide (a.hit < b.hit)) (c.cache.filter fun l => l.set == st) else none
    { c with cache := (match old with | some o => c.cache.erase o | none => c.cache) ++ [⟨st, vocab, line, now⟩]
             missed := c.missed ++ [line] }

/-- The read of a line in HBM: the pool stands before the image's CRC, the merge index behind the image (R225, R226). -/
def lineOf (o : Obj × VocabObj) (line : Nat) : ObjRead :=
  let index := o.1.size - 16 * o.2.merges.length
  let pool := index - 4 - sumN (o.2.texts.map List.length)
  if line % 2 = 0 then ⟨o.1.uid, pool + 64 * (line / 2), 64⟩ else ⟨o.1.uid, index + 64 * (line / 2), 64⟩

/-- R227, R94, R297: the Plotter reads lines of a vocabulary for a partition: hits and misses counted, the misses' reads
charged. Answers whether one of those could not be read. -/
def touchVocab (s : State) (p : Nat) (o : Obj × VocabObj) (lines : List Nat) : State × Bool :=
  let r := lines.foldl (touchVLine s.now o.1.uid) ⟨s.vcache, 0, []⟩
  let reads := r.missed.map (lineOf o)
  (countEv (countEv (chargeReads { s with vcache := r.cache } p reads) 5 6 0 (some p) r.hits) 5 7 0 (some p) r.missed.length,
   readsBad s reads)

/-- R227, R430: VCACHE_AGE_US. -/
def vcacheAgeNs (s : State) : Nat := regBits s (rEng 0) 13 0 * 1000

/-- VOCABULARY_CACHE_AGEING (R227): a line not hit for VCACHE_AGE_US is freed. -/
def execVocabularyCacheAgeing (t : Nat) (s : State) : Host.Outcome State Fault Refusal :=
  let s := tick s t
  .next { s with vcache := s.vcache.filter fun l => decide (s.now < l.hit + vcacheAgeNs s) }

/-! ### Pairs (R237) -/

/-- R237: a pair and its length without padding. -/
def pairTokens (t : TemplateObj) (pad len : Nat) (query psg : List Nat) : List Nat × Nat :=
  let f := pairF t
  let q := min query.length ((len - f) / 2)
  let l := t.pairHead ++ query.take q ++ t.pairSep ++ psg.take (len - f - q) ++ t.pairTail
  (l ++ List.replicate (len - l.length) pad, l.length)

/-! ### Packing (R238, R239) -/

/-- R239: whether the first tokens' texts end on a whole character, an ill-formed byte counting as whole. -/
def endsWhole (v : VocabObj) (toks : List Nat) (n : Nat) : Bool :=
  let whole := chars (toks.flatMap (tokText v))
  let cut := ((toks.take n).flatMap (tokText v)).length
  cut == 0 || (whole.foldl (fun (a : Nat × Bool) c => (a.1 + c.1.length, a.2 || a.1 + c.1.length == cut)) (0, false)).2

/-- The largest cut of at most `m` tokens at a character boundary. -/
def largestCut (v : VocabObj) (toks : List Nat) : Nat → Nat
  | 0 => 0
  | m + 1 => if endsWhole v toks (m + 1) then m + 1 else largestCut v toks m

/-- What packing has done so far: packed passages, room, cuts and misses, and the tokens whose texts it looked at. -/
structure Packed where
  psgs : List (List Nat)
  room : Nat
  cuts : Nat
  misses : Nat
  texts : List Nat
  deriving DecidableEq, Repr

/-- R238: passages in re-rank order; none stands for one without text. -/
def packLoop (v : VocabObj) (fill : Bool) (minFrag w : Nat) : List (Option (List Nat)) → Packed → Packed
  | [], a => a
  | none :: ps, a => packLoop v fill minFrag w ps a
  | some p :: ps, a =>
    if w + p.length ≤ a.room then
      packLoop v fill minFrag w ps { a with psgs := a.psgs ++ [p], room := a.room - w - p.length }
    else
      let n := if w ≤ a.room then largestCut v p (a.room - w) else 0
      let a := { a with texts := a.texts ++ (if w ≤ a.room then p else []) }
      if minFrag ≤ n then
        packLoop v fill minFrag w ps { a with psgs := a.psgs ++ [p.take n], room := a.room - w - n, cuts := a.cuts + 1 }
      else if fill then packLoop v fill minFrag w ps { a with misses := a.misses + 1 }
      else { a with misses := a.misses + 1 }

/-- R238: tokens of LITERAL segments and kept query tokens. -/
def fixedTokens (t : TemplateObj) (query : List Nat) : Nat :=
  sumN (t.segs.map fun g => if g.1 = 0 then g.2.length else 0) + query.length

/-- R238: the prompt. -/
def assemble (t : TemplateObj) (query : List Nat) (psgs : List (List Nat)) : List Nat :=
  t.segs.flatMap fun g =>
    if g.1 = 0 then g.2
    else if g.1 = 1 then query
    else psgs.flatMap fun p => t.psgHead ++ p ++ t.psgTail

/-! ### Detokenisation (R242) -/

/-- The whole characters at the front of held bytes, ill-formed subparts as U+FFFD (true), and the bytes still held. -/
def release : Nat → List Byte → List (List Byte × Bool) × List Byte
  | 0, b => ([], b)
  | n + 1, b =>
    match b with
    | [] => ([], [])
    | a :: _ =>
      let k := goodPart b
      if k = charLen a.toNat then
        let r := release n (b.drop k)
        ((b.take k, false) :: r.1, r.2)
      else if k ≠ 0 ∧ b.length = k then ([], b)
      else
        let r := release n (b.drop (max 1 k))
        (([0xEF, 0xBF, 0xBD], true) :: r.1, r.2)

/-- R242: a token's text after the held bytes. -/
def releaseText (hold text : List Byte) : List (List Byte × Bool) × List Byte :=
  release (hold.length + text.length) (hold ++ text)

end Sys2Proof.Machine
end

