-- ==== Sys2Proof/Machine/Search.lean ====
section
/-! DEFINITION. Search on a shard device (08_bearing_search): query preparation (R171), table-build batches (R172-R174,
R187), the walk (R175-R178) with its prefetcher (R180, R181) and filters (R182-R184), the sketch scan (R188) and exact
re-rank (R185, R186). -/

namespace Sys2Proof.Machine

/-! ### Queries -/

def modQuery (s : State) (h : Handle) (f : Query → Query) : State :=
  { s with bearing := { s.bearing with
      queries := s.bearing.queries.map fun q => if q.f.handle = h then f q else q } }

def queryOf (s : State) (h : Handle) : Option Query := s.bearing.queries.find? fun q => q.f.handle == h

/-! ### Query preparation (R171) -/

/-- R171: for METRIC 2 the query scaled to unit length. -/
def unitScale (metric : Nat) (v : List Nat) : List Nat :=
  if metric = 2 then
    let r := rsqrt32 (v.foldl (fun acc x => fma32 x x acc) 0)
    v.map fun x => mul32 x r
  else v

/-- R185, R188: RERANK_N; exact re-rank always runs on the sketch path, so there a RERANK_N of 0, left by a profile set before
its index was loaded again, re-ranks SHARD_K items (DESIGN CHOICE, assumption log 82). -/
def rerankCount (h : IndexHeader) (f : FanOut) : Nat := if h.sketchBits ≠ 0 ∧ f.rerankN = 0 then f.shardK else f.rerankN

/-- A query that has just come. -/
def newQuery (f : FanOut) (now : Nat) : Query :=
  { f := f, arrived := now, st := .gathering, batch := 0, col := 0, built := [], refs := [], q := [], table := [], texp := 0,
    sketch := 0, cand := [], res := [], visited := [], evals := 0, bad := 0, subs := 0, scanAt := 0, retry := [],
    stopAt := 0, wait := [], scored := [] }

/-- R136, R171: the saturations of the query's conversion to CODEBOOK_FMT, and to VEC_FMT where re-rank runs, are counted. -/
def countQuery (s : State) (h : IndexHeader) (q : Query) : State :=
  let n := (queryIn h.cbFmt q.q).2 + (if rerankCount h q.f = 0 then 0 else (queryIn h.vecFmt q.q).2)
  countEv s 1 0 0 (some q.f.handle.part) n

/-- QUERY_FAN_OUT (R171): a query vector arrives at a shard device. A device that cannot search refuses: NOT_READY,
DOMAIN_OFF (R200), or NO_RESOURCE where the index is not resident. -/
def execQueryFanOut (f : FanOut) (t : Nat) (s : State) : Host.Outcome State Fault Refusal :=
  let s := takeMsg (tick s t) f.home (.fanOut f)
  let q0 := newQuery f s.now
  if !isReady s then .next (refuseQuery s q0 .notReady)
  else if !bearingUp s || !arrayUp s then .next (refuseQuery s q0 .domainOff)
  else
    match indexHeader s f.indexId, indexNeeds s f.indexId, filterNeeds s f.filterId f.indexId with
    | some (_, h), some a, some b =>
      let q := { q0 with refs := (a ++ b).map (·.uid), q := unitScale h.metric f.vec }
      .next (countQuery { s with bearing := { s.bearing with
        queries := s.bearing.queries.filter (fun x => x.f.handle != f.handle) ++ [q] } } h q)
    | _, _, _ => .next (refuseQuery s q0 .noResource)

/-! ### Table-build batches (R172, R173, R187) -/

/-- R172: queries of one index and one partition that gather for a batch, in order of arrival. -/
def gathering (s : State) (index p : Nat) : List Query :=
  s.bearing.queries.filter fun q => q.st = .gathering && q.f.indexId == index && q.f.handle.part == p

/-- R172: the batch holds B_max queries, or its first has waited TABLE_WAIT_US. -/
def batchDue (s : State) (h : IndexHeader) (qs : List Query) : Bool :=
  match qs with
  | [] => false
  | q :: _ => decide (batchMax h ≤ qs.length) || decide (q.arrived + q.f.tableWaitUs * 1000 ≤ s.now)

/-- R173, R187: the batch's operations: T for a table, an ACCUM chain for a sketch. -/
def buildOps (h : IndexHeader) (index p batch count : Nat) (rank : Rank) : List ArrayOp :=
  (List.range (buildPieces h)).map fun j =>
    { src := .build index p batch j, step := [], shares := [⟨p, (pieceRows h j).length, rank⟩], decode := false,
      m := (pieceRows h j).length, k := pieceDim h j, n := count, bf16 := h.cbFmt == 8, curLong := true, epiSteps := 0,
      ctx := h.ctxId, rerun := false, paid := false, run := none }

/-- TABLE_BATCH_ISSUE (R172): at the class of the highest-class query in the batch; a query's place in the batch is its
column of the weight tiles. -/
def execTableBatchIssue (index part t : Nat) (s : State) : Host.Outcome State Fault Refusal :=
  let s' := tick s t
  let qs := gathering s' index part
  match qs.head?, qs.head?.bind (qHeader s'), isReady s' with
  | some q0, some h, true =>
    if !batchDue s' h qs then .next s
    else
      let qs := qs.take (batchMax h)
      let hs := qs.map (·.f.handle)
      let rank := (leastBy Rank.lt (qs.map (·.f.rank))).getD q0.f.rank
      let n := s'.bearing.batches + 1
      .next { s' with
        bearing := { s'.bearing with
          batches := n
          queries := s'.bearing.queries.map fun q =>
            if hs.contains q.f.handle then { q with st := .building, batch := n, col := hs.idxOf q.f.handle } else q }
        helm := { s'.helm with queue := s'.helm.queue ++ buildOps h index part n qs.length rank } }
  | _, _, _ => .next s

/-! ### The table and the query sketch (R173, R174, R187) -/

/-- R174, R187: the results the table writer takes: every centroid's in order, or, of a chain, the last operation's. -/
def builtVals (h : IndexHeader) (q : Query) : List Nat :=
  if h.sketchBits ≠ 0 then tget [] q.built (buildPieces h - 1)
  else (List.range (buildPieces h)).flatMap (tget [] q.built)

/-- R174: where the centroids' norms lie in the codebook section. -/
def normsAt (h : IndexHeader) : Nat := nCentroids h * (h.dim / h.pqS) * fmtBytes h.cbFmt

/-- R174: the table's FP32 values v from the results y. -/
def tableVals (h : IndexHeader) (cb : List Byte) (ys : List Nat) : List Nat :=
  let norms := slice cb (normsAt h) (4 * nCentroids h)
  ys.zipIdx.map fun y =>
    if h.metric = 1 then round32 (((dec32 y.1).scale 1).add (dec32 (u32 norms (4 * y.2))).neg) else y.1

/-- R174: the least e with max |v| × 2^−e ≤ 32,767; 0 if every v is zero. -/
def tableExp (vs : List FV) : Int :=
  match vs.filter fun v => !v.isZero with
  | [] => 0
  | v :: r =>
    let m := (r.foldl (fun a x => if a.abs.lt x.abs then x else a) v).abs
    let e := m.ilog2 - 14
    if (m.scale (-e)).le (.fin false 32767 0) then e else e + 1

/-- Nearest integer, ties to even. -/
def FV.nearest : FV → Int
  | .fin n m e => let (a, b) := dyadic m e
                  if n then -(rneDiv a b : Int) else rneDiv a b
  | _ => 0

/-- R187: bit j of the query sketch. -/
def sketchBit (y : Nat) : Bool := let v := dec32 y
                                  !v.isNan && !v.lt (.fin false 0 0)

/-- R187: the query sketch from the results of the projection. -/
def sketchOf (ys : List Nat) : Nat := sumN (ys.zipIdx.map fun y => if sketchBit y.1 then 2 ^ y.2 else 0)

/-- Whether operations of a batch are still queued or in Helm's hands. -/
def batchRunning (s : State) (n : Nat) : Bool :=
  (s.helm.queue ++ helmOps s).any fun o => match o.src with | .build _ _ m _ => m == n | .step .. => false

/-- DISTANCE_TABLE_WRITE (R174, R187): the build's results become the query's table, or its sketch. A NaN or infinity
ends the shard's search with DATA_ERROR. R94: the norms are read from memory. -/
def execDistanceTableWrite (h : Handle) (s : State) : Host.Outcome State Fault Refusal :=
  match queryOf s h with
  | none => .next s
  | some q =>
    if q.st ≠ .building ∨ batchRunning s q.batch ∨ !isReady s then .next s
    else
      match qHeader s q, heldObj s q.refs 3 (((qHeader s q).map (·.codebookObj)).getD 0) with
      | some hd, some cb =>
        if hd.sketchBits ≠ 0 then
          .next (modQuery s h fun q => { q with st := .built, sketch := sketchOf (builtVals hd q) })
        else
          let reads : List ObjRead := if hd.metric = 1 then [⟨cb.uid, 64 + normsAt hd, 4 * nCentroids hd⟩] else []
          if !readsOpen s h.part reads then .next s
          else
            let s := chargeReads s h.part reads
            let vs := (tableVals hd (secBody (qSection s q hd.codebookObj)) (builtVals hd q)).map dec32
            if readsBad s reads || vs.any fun v => !v.isFin then .next (refuseQuery s q .dataError)
            else
              let e := tableExp vs
              .next (modQuery s h fun q => { q with
                st := .built, texp := e, table := vs.map fun v => (v.scale (-e)).nearest })
      | _, _ => .next s

/-! ### Scoring and considering (R174, R176-R178, R182, R183, R187) -/

def popcount (n : Nat) : Nat := (List.range (Nat.log2 n + 1)).foldl (fun c i => c + b2n (bit n i)) 0

/-- The score a walk orders by: the PQ sum, or the sketch score. -/
def itemScore (s : State) (q : Query) (h : IndexHeader) (v : Nat) : Int :=
  if h.sketchBits ≠ 0 then
    (h.sketchBits : Int) - 2 * popcount (Nat.xor q.sketch (uN (secRec (qSection s q h.sketchObj) v) 0 (h.sketchBits / 8)))
  else
    let r := secRec (qSection s q h.codesObj) v
    (List.range h.pqS).foldl (fun acc i =>
      let code := if h.pqBits = 4 then u8 r (i / 2) / 16 ^ (i % 2) % 16 else u8 r i
      acc + q.table.getD (i * 2 ^ h.pqBits + code) 0) 0

/-- R168: one clause on an attribute record. -/
def clauseHolds (r : List Byte) (c : Clause) : Bool :=
  let x := uN r c.offset c.width
  let v := c.value % 256 ^ c.width
  match c.op with
  | 0 => x == v
  | 1 => x != v
  | 2 => decide (x < v)
  | 3 => decide (x ≤ v)
  | 4 => decide (v < x)
  | 5 => decide (v ≤ x)
  | 6 => Nat.land x v != 0
  | _ => Nat.land x v == v

/-- R182: the predicate. -/
def predicate (s : State) (q : Query) (h : IndexHeader) (v : Nat) : Bool :=
  match qFilter s q with
  | none => true
  | some f => f.clauses.all (clauseHolds (secRec (qSection s q h.attrObj) v))

/-- R183: the bitmap. -/
def bitmapAllows (s : State) (q : Query) (v : Nat) : Bool :=
  match qFilter s q with
  | none => true
  | some f => f.bitmapObj == 0 || bitmapBit (secBody (qSection s q f.bitmapObj)) v

/-- R177: list order. -/
def entAbove (a b : WalkEnt) : Bool := decide (b.score < a.score) || (decide (a.score = b.score) && decide (a.item < b.item))

/-- R176: insert; the last drops off a full list. -/
def putEnt (cap : Nat) (e : WalkEnt) (l : List WalkEnt) : List WalkEnt := (insertBy entAbove e l).take cap

def resCap (h : IndexHeader) (f : FanOut) : Nat := max f.shardK (rerankCount h f)

/-- R178: the visited bit. -/
def visitBit (h : IndexHeader) (v : Nat) : Nat := Nat.xor v h.hashSeed * 0x9E3779B1 % 2 ^ 32 / 2 ^ 15

/-- R176: consider(v). -/
def consider (s : State) (h : IndexHeader) (q : Query) (v : Nat) : Query :=
  let b := visitBit h v
  if q.visited.contains b then q
  else
    let e : WalkEnt := ⟨itemScore s q h v, v, false⟩
    let q := { q with visited := insertNat b q.visited, evals := q.evals + 1 }
    if !predicate s q h v then q
    else
      let q := { q with cand := putEnt q.f.ef e q.cand }
      if bitmapAllows s q v then { q with res := putEnt (resCap h q.f) e q.res } else q

/-- R176: the neighbours of one expansion, up to EVAL_MAX. -/
def expandList (s : State) (h : IndexHeader) : Query → List Nat → Query
  | q, [] => q
  | q, v :: vs =>
    if v = 0xFFFFFFFF then expandList s h q vs
    else if h.itemCount ≤ v then expandList s h { q with bad := q.bad + 1 } vs
    else
      let q := consider s h q v
      if q.f.evalMax ≤ q.evals then q else expandList s h q vs

/-- A neighbour list. -/
def neighbours (s : State) (q : Query) (h : IndexHeader) (v : Nat) : List Nat :=
  let r := secRec (qSection s q h.graphObj) v
  (List.range h.degree).map fun i => u32 r (4 * i)

/-! ### Reads of index sections (R94, R176, R180, R190) -/

/-- What Bearing reads an item's record of: 0 neighbour list, 1 code or sketch, 2 attributes, 3 bitmap. -/
def readSection (s : State) (q : Query) (h : IndexHeader) (kind : Nat) : Nat :=
  match kind with
  | 0 => h.graphObj
  | 1 => if h.sketchBits = 0 then h.codesObj else h.sketchObj
  | 2 => h.attrObj
  | _ => ((qFilter s q).map (·.bitmapObj)).getD 0

/-- R190: the 64-byte lines of a section that hold an item's record. -/
def lineRead (s : State) (q : Query) (h : IndexHeader) (kind item : Nat) : Option ObjRead :=
  (heldObj s q.refs 3 (readSection s q h kind)).bind fun o => (secOf o).map fun x =>
    let a := if kind = 3 then item / 8 else item * x.stride
    let n := if kind = 3 then 1 else max 1 x.stride
    ⟨o.uid, 64 + a / 64 * 64, ((a + n - 1) / 64 + 1 - a / 64) * 64⟩

/-- R182, R183: what an evaluation reads of an item. -/
def evalKinds (s : State) (q : Query) (h : IndexHeader) (v : Nat) : List Nat :=
  match qFilter s q with
  | none => [1]
  | some f => 1 :: (if f.clauses.isEmpty then [] else [2]) ++ (if f.bitmapObj != 0 && predicate s q h v then [3] else [])

/-- R176: the items that considering a list of neighbours evaluates. -/
def evaluated (s : State) (h : IndexHeader) : Query → List Nat → List Nat
  | _, [] => []
  | q, v :: vs =>
    if v = 0xFFFFFFFF ∨ h.itemCount ≤ v ∨ q.visited.contains (visitBit h v) then evaluated s h q vs
    else
      let q := consider s h q v
      v :: (if q.f.evalMax ≤ q.evals then [] else evaluated s h q vs)

/-! ### Prefetch (R180, R181) -/

def activeWalks (s : State) : Nat := (s.bearing.queries.filter fun q => q.st = .walking).length

def walkLines (s : State) (h : Handle) : Nat := sumN ((s.bearing.lines.filter fun l => l.h == h).map (·.lines))

/-- Whether a walk's line is held or in flight. -/
def lineHeld (s : State) (h : Handle) (kind item : Nat) : Bool :=
  s.bearing.lines.any fun l => l.h == h && l.kind == kind && l.item == item

/-- R181: whether the walk's share and the buffer hold n more lines. -/
def lineRoom (s : State) (h : Handle) (n : Nat) : Bool :=
  decide (walkLines s h + n ≤ max 64 (262144 / max 1 (activeWalks s)))
    && decide (sumN (s.bearing.lines.map (·.lines)) + n ≤ 262144)

/-- R181: issue one prefetch read, if the walk's share, the buffer and the regulator (R93) let it; else it is tried again
after the next expansion. -/
def prefetchOne (s : State) (q : Query) (hd : IndexHeader) (kind item : Nat) : State :=
  let h := q.f.handle
  match lineRead s q hd kind item with
  | none => s
  | some r =>
    if lineHeld s h kind item then s
    else if lineRoom s h (r.len / 64) && readsOpen s h.part [r] then
      countEv (chargeReads { s with bearing := { s.bearing with
        lines := s.bearing.lines ++ [⟨h, kind, item, r.len / 64, s.now, false⟩] } } h.part [r]) 2 5 0 (some h.part) 1
    else if kind = 0 then s
    else modQuery s h fun q => { q with retry := q.retry ++ [(kind, item)] }

/-- R181: reads refused before, for neighbours still not visited. -/
def prefetchAgain (s : State) (h : Handle) : State :=
  match queryOf s h with
  | none => s
  | some q =>
    match qHeader s q with
    | none => s
    | some hd =>
      forEach (modQuery s h fun q => { q with retry := [] })
        (q.retry.filter fun r => !q.visited.contains (visitBit hd r.2)) fun s r => prefetchOne s q hd r.1 r.2

/-- R180, R181: after an expansion: reads refused before, and the lists of the first PF_DEPTH unexpanded entries of cand. -/
def prefetchLists (s : State) (h : Handle) : State :=
  let s := prefetchAgain s h
  match queryOf s h with
  | none => s
  | some q =>
    match qHeader s q with
    | none => s
    | some hd =>
      forEach s ((q.cand.filter fun e => !e.expanded).take q.f.pfDepth) fun s e => prefetchOne s q hd 0 e.item

/-- R181: lines are freed when their walk uses them. -/
def useLines (s : State) (h : Handle) (used : List (Nat × Nat)) : State :=
  { s with bearing := { s.bearing with lines := s.bearing.lines.filter fun l =>
      !(l.h == h && used.contains (l.kind, l.item)) } }

/-- NEIGHBOUR_LIST_ARRIVAL (R180): the code, attribute and bitmap reads of neighbours whose visited bit reads 0. -/
def execNeighbourListArrival (h : Handle) (item t : Nat) (s : State) : Host.Outcome State Fault Refusal :=
  let s' := tick s t
  if !s'.bearing.lines.any fun l => l.h == h && l.kind == 0 && l.item == item && !l.arrived then .next s
  else
    let s := { s' with bearing := { s'.bearing with lines := s'.bearing.lines.map fun l =>
      if l.h = h ∧ l.kind = 0 ∧ l.item = item then { l with arrived := true, at_ := s'.now } else l } }
    match queryOf s h with
    | none => .next s
    | some q =>
      match qHeader s q with
      | none => .next s
      | some hd =>
        let vs := (neighbours s q hd item).filter fun v => decide (v < hd.itemCount) && !q.visited.contains (visitBit hd v)
        let kinds := match qFilter s q with
          | none => [1]
          | some f => 1 :: (if f.clauses.isEmpty then [] else [2]) ++ (if f.bitmapObj = 0 then [] else [3])
        .next (forEach s (vs.flatMap fun v => kinds.map fun k => (k, v)) fun s x => prefetchOne s q hd x.1 x.2)

/-- PREFETCH_LINE_AGEING (R181): lines unused for 200 µs are freed. -/
def execPrefetchLineAgeing (t : Nat) (s : State) : Host.Outcome State Fault Refusal :=
  let s := tick s t
  let old := s.bearing.lines.filter fun l => decide (l.at_ + 200000 ≤ s.now)
  .next (countEv { s with bearing := { s.bearing with lines := s.bearing.lines.filter fun l => !old.contains l } }
    2 6 0 none (sumN (old.map (·.lines))))

/-! ### The end of a shard's search (R185, R186) -/

/-- R171, R174: round_fp32 of the sum of squares. -/
def sqNorm (v : List Nat) : Nat := round32 (groupSum (v.map fun x => (dec32 x).mul (dec32 x)))

/-- R174: an item's PQ score. -/
def pqScore (h : IndexHeader) (q : Query) (sum : Int) : Nat :=
  let v := (FV.fin (decide (sum < 0)) sum.natAbs 0).scale q.texp
  if h.metric = 1 then round32 (v.add (dec32 (sqNorm q.q)).neg) else round32 v

/-- R177, R185: score order, a NaN after every number, then item. -/
def recAbove (a b : ShardRec) : Bool := rankAbove32 false a.score b.score || (rankEq32 a.score b.score && decide (a.item < b.item))

/-- R184, R186: the shard's list goes to the home device. -/
def sendList (s : State) (q : Query) (rs : List ShardRec) : State :=
  let short := decide (q.res.length < q.f.shardK)
  let rs := (sortBy recAbove rs).take q.f.shardK
  let rs := match short, rs with | true, r :: rest => { r with flags := r.flags + 4 } :: rest | _, l => l
  let s := countEv s 2 3 0 (some q.f.handle.part) (b2n short)
  let s := endQuery s q.f.handle
  deliver s q.f.home q.f.handle.part
    (.shardList q.f.handle (shardRank s q.f.indexId) rs short q.evals q.subs q.bad)

/-- R185: every vector has been scored or given up. -/
def tryList (s : State) (h : Handle) : State :=
  match queryOf s h with
  | none => s
  | some q => if q.st = .rerank ∧ q.wait = [] then sendList s q q.scored else s

/-- R185: the walk or scan has stopped: the reads of exact re-rank, each with its deadline. -/
def startRerank (s : State) (h : Handle) : State :=
  match queryOf s h with
  | none => s
  | some q =>
    match qHeader s q with
    | none => s
    | some hd =>
      let s := countEv s 2 0 0 (some h.part) q.evals
      let s := countEv s 2 2 0 (some h.part) q.bad
      let n := rerankCount hd q.f
      if n = 0 then
        sendList s q (q.res.map fun e => ⟨e.item, pqScore hd q e.score, 0⟩)
      else
        let items := (q.res.take n).map (·.item)
        let s := { s with
          bearing := { s.bearing with lines := s.bearing.lines.filter fun l => l.h != h }
          tiers := { s.tiers with reads := s.tiers.reads ++
            (items.map fun v => ⟨0, h, v, s.now + q.f.rerankUs * 1000⟩) } }
        tryList (modQuery s h fun q => { q with st := .rerank, stopAt := s.now, wait := items }) h

/-- R185: an item's vector is late or cannot be read: its PQ score, or −∞ on the sketch path, as a substituted score. -/
def substitute (s : State) (h : Handle) (item : Nat) : State :=
  match queryOf s h with
  | none => s
  | some q =>
    match qHeader s q, q.res.find? (·.item == item) with
    | some hd, some e =>
      let sc := if hd.sketchBits ≠ 0 then ninf32 else pqScore hd q e.score
      let s := countEv s 2 4 0 (some h.part) 1
      tryList (modQuery s h fun q => { q with
        wait := q.wait.filter (· != item), subs := q.subs + 1, scored := q.scored ++ [⟨item, sc, 2⟩] }) h
    | _, _ => s

/-- R185: the exact score. -/
def exactScore (metric : Nat) (q x : List FV) : Nat :=
  let d := dotGroups 64 q x
  if metric = 1 then
    let xx := dotGroups 64 x x
    let qq := dotGroups 64 q q
    sub32 (round32 (((dec32 d).scale 1).add (dec32 xx).neg)) qq
  else d

def hasRead (s : State) (kind : Nat) (h : Handle) (item : Nat) : Bool :=
  s.tiers.reads.any fun r => r.kind == kind && r.h == h && r.item == item

def dropRead (s : State) (kind : Nat) (h : Handle) (item : Nat) : State :=
  { s with tiers := { s.tiers with reads := s.tiers.reads.filter fun r => !(r.kind == kind && r.h == h && r.item == item) } }

/-- The read of an item's full vector. -/
def vectorRead (s : State) (q : Query) (hd : IndexHeader) (item : Nat) : Option ObjRead :=
  (heldObj s q.refs 3 hd.vectorsObj).bind fun o => (secOf o).map fun x => ⟨o.uid, 64 + item * x.stride, x.stride⟩

/-- The element values of an item's full vector. -/
def vectorVals (s : State) (q : Query) (hd : IndexHeader) (item : Nat) : List FV :=
  fmtVals hd.vecFmt (secRec (qSection s q hd.vectorsObj) item) 0 hd.dim

/-- A vector that a query still waits for has come: discarded if late, its item's score substituted if it is late or a unit
of it cannot be read (R297, R305). -/
def vectorHere (s : State) (q : Query) (hd : IndexHeader) (item : Nat) (r : ObjRead) (bad : List Nat) : State :=
  let h := q.f.handle
  let s := chargeReads s h.part [r]
  let s := forEach s bad fun s o => badUnit s (readAddr s r + o / 32 * 32)
  if q.stopAt + q.f.rerankUs * 1000 < s.now then substitute (countEv s 8 5 0 none 1) h item
  else if readsBad s [r] then substitute s h item
  else
    let sc := exactScore hd.metric (queryIn hd.vecFmt q.q).1 (vectorVals s q hd item)
    tryList (modQuery s h fun q => { q with
      wait := q.wait.filter (· != item), scored := q.scored ++ [⟨item, sc, 1⟩] }) h

/-- FULL_VECTOR_ARRIVAL (R185, R189, R297, R304): a vector's read ends, with the bytes at which units of it failed twice.
A read whose query has ended is discarded, and counted as late. -/
def execFullVectorArrival (h : Handle) (item t : Nat) (bad : List Nat) (s : State) : Host.Outcome State Fault Refusal :=
  let s' := tick s t
  if !hasRead s' 0 h item then .next s
  else
    let gone := countEv (dropRead s' 0 h item) 8 5 0 none 1
    match queryOf s' h with
    | none => .next gone
    | some q =>
      if q.st ≠ .rerank ∨ !q.wait.contains item then .next gone
      else
        match (qHeader s' q).bind fun hd => (vectorRead s' q hd item).map fun r => (hd, r) with
        | none => .next gone
        | some (hd, r) =>
          if !readsOpen s' h.part [r] then .next s else .next (vectorHere (dropRead s' 0 h item) q hd item r bad)

/-! ### The walk (R175, R176) -/

/-- R175: walks at once. -/
def walkSlots (h : IndexHeader) : Nat := if h.sketchBits ≠ 0 then 2048 else min 2048 (2 ^ 25 / max 1 (2 * nCentroids h))

/-- R85, R175: the next query to start. -/
def nextWalk (s : State) : Option Query :=
  leastBy (fun a b => a.f.rank.lt b.f.rank) (s.bearing.queries.filter fun q =>
    q.st = .built && (match qHeader s q with | some h => h.degree != 0 | none => false))

/-- R189: a lane's parity error is charged to it; the evaluation runs again on another lane. -/
def laneFault (s : State) (h : Handle) : Option Nat → State
  | some l => chargeTransient (countEv s 2 7 l (some h.part) 1) clsLane l
  | none => s

/-- The reads of evaluations, and of a neighbour list. -/
def readsOf (s : State) (q : Query) (hd : IndexHeader) (used : List (Nat × Nat)) : List ObjRead :=
  used.filterMap fun x => lineRead s q hd x.1 x.2

/-- R181: those of them that no line held or in flight brings: the reads on demand. -/
def onDemand (s : State) (h : Handle) (used : List (Nat × Nat)) : List (Nat × Nat) :=
  used.filter fun x => !lineHeld s h x.1 x.2

/-- A walk's step: its demand reads are charged, its lines used, and the query goes on as `q'`; DATA_ERROR where a read
meets poison (R297). -/
def walkTo (s : State) (hd : IndexHeader) (q q' : Query) (used : List (Nat × Nat)) : State :=
  let h := q.f.handle
  let bad := readsBad s (readsOf s q hd used)
  let s := chargeReads s h.part (readsOf s q hd (onDemand s h used))
  if bad then refuseQuery s q .dataError else useLines (modQuery s h fun _ => q') h used

/-- WALK_START (R175, R176): the entry list is considered in order. R29: with no Bearing domain the stage does not start. -/
def execWalkStart (h : Handle) (laneErr : Option Nat) (s : State) : Host.Outcome State Fault Refusal :=
  match nextWalk s with
  | none => .next s
  | some q =>
    match qHeader s q with
    | none => .next s
    | some hd =>
      if q.f.handle ≠ h ∨ !isReady s ∨ walkSlots hd ≤ activeWalks s then .next s
      else if !bearingUp s then .next (refuseQuery s q .domainOff)
      else
        let q1 := hd.entries.foldl (fun q v => consider s hd q v) { q with st := .walking }
        let used := (evaluated s hd { q with f := { q.f with evalMax := 2 ^ 32 } } hd.entries).flatMap fun v =>
          (evalKinds s q hd v).map fun k => (k, v)
        if !readsOpen s h.part (readsOf s q hd used) then .next s
        else
          .next (prefetchLists (walkTo (laneFault (countEv s 2 1 0 (some h.part) 1) h laneErr) hd q q1 used) h)

/-- WALK_EXPANSION (R176, R189): the next candidate, or the stop. A walk that the drain of the last Bearing domain caught
ends CANCELLED (R29). -/
def execWalkExpansion (h : Handle) (t : Nat) (laneErr : Option Nat) (s : State) : Host.Outcome State Fault Refusal :=
  let s' := tick s t
  match queryOf s' h with
  | none => .next s
  | some q =>
    match qHeader s' q with
    | none => .next s
    | some hd =>
      if q.st ≠ .walking ∨ !isReady s' then .next s
      else if !bearingUp s' then .next (refuseQuery s' q .cancelled)
      else
        match q.cand.find? fun e => !e.expanded with
        | none => .next (startRerank s' h)
        | some c =>
          if q.f.evalMax ≤ q.evals then .next (startRerank s' h)
          else
            let q1 := { q with cand := q.cand.map fun e => if e.item = c.item then { e with expanded := true } else e }
            let ns := neighbours s' q1 hd c.item
            let q' := expandList s' hd q1 ns
            let used := (0, c.item) :: (evaluated s' hd q1 ns).flatMap fun v => (evalKinds s' q1 hd v).map fun k => (k, v)
            if !readsOpen s' h.part (readsOf s' q hd (onDemand s' h used)) then .next s
            else
              let s := walkTo (laneFault s' h laneErr) hd q q' used
              if q'.f.evalMax ≤ q'.evals then .next (startRerank s h) else .next (prefetchLists s h)

/-! ### The sketch scan (R188) -/

/-- R188: items lo up to hi of one query's scan: every item counts, those the filter passes are ranked. -/
def scanQuery (s : State) (h : IndexHeader) (lo hi : Nat) (q : Query) : Query :=
  let q := ((List.range (hi - lo)).map (lo + ·)).foldl (fun q v =>
    let q := { q with evals := q.evals + 1 }
    if predicate s q h v && bitmapAllows s q v then
      { q with res := putEnt (resCap h q.f) ⟨itemScore s q h v, v, true⟩ q.res }
    else q) q
  { q with st := .scanning, scanAt := hi }

/-- R188: the queries of a scan: those that share the pass under way, or up to 16 built ones that start one. -/
def scanSet (s : State) (index part : Nat) : List Query :=
  let mine := s.bearing.queries.filter fun q => q.f.indexId == index && q.f.handle.part == part
    && (match qHeader s q with | some h => h.sketchBits != 0 && h.degree == 0 | none => false)
  match mine.filter fun q => q.st = .scanning with
  | [] => (mine.filter fun q => q.st = .built).take 16
  | l => l

/-- R189: the items of one step of a scan: 1 MiB of sketches. -/
def scanStep (h : IndexHeader) : Nat := 2 ^ 23 / max 1 h.sketchBits

/-- R188: what a scan reads of one section for items lo up to hi: a record each, or a bit of the bitmap. -/
def scanRead (s : State) (q : Query) (h : IndexHeader) (lo hi kind : Nat) : Option ObjRead :=
  (heldObj s q.refs 3 (readSection s q h kind)).bind fun o => (secOf o).map fun x =>
    if kind = 3 then ⟨o.uid, 64 + lo / 8, cdiv (hi - lo) 8⟩ else ⟨o.uid, 64 + lo * x.stride, (hi - lo) * x.stride⟩

/-- R182, R183: a query reads the attributes and the bitmap of every item its filter uses them for. -/
def filterReads (s : State) (q : Query) (h : IndexHeader) (lo hi : Nat) : List ObjRead :=
  match qFilter s q with
  | none => []
  | some f => (if f.clauses.isEmpty then [] else (scanRead s q h lo hi 2).toList)
      ++ (if f.bitmapObj = 0 then [] else (scanRead s q h lo hi 3).toList)

/-- A query's part of one step of a scan. -/
def scanOne (s : State) (hd : IndexHeader) (lo hi : Nat) (sk : List ObjRead) (q : Query) : State :=
  let h := q.f.handle
  let fl := filterReads s q hd lo hi
  let s := chargeReads s h.part fl
  if readsBad s (sk ++ fl) then refuseQuery s q .dataError
  else
    let s := modQuery s h fun q => scanQuery s hd lo hi q
    if hd.itemCount ≤ hi then startRerank s h else s

/-- SKETCH_SCAN (R188, R189): one pass over the sketches for up to 16 queries of one index and partition, 1 MiB of sketches
at a time. A scan that the drain of the last Bearing domain caught ends CANCELLED (R29). -/
def execSketchScan (index part t : Nat) (laneErr : Option Nat) (s : State) : Host.Outcome State Fault Refusal :=
  let s' := tick s t
  let qs := scanSet s' index part
  match qs.head?, qs.head?.bind (qHeader s') with
  | some q0, some hd =>
    if !isReady s' then .next s
    else if !bearingUp s' then
      .next (forEach s' qs fun s q => refuseQuery s q (if q.st = .scanning then .cancelled else .domainOff))
    else
      let lo := q0.scanAt
      let hi := min hd.itemCount (lo + scanStep hd)
      let sk := (scanRead s' q0 hd lo hi 1).toList
      if !readsOpen s' part sk then .next s
      else .next (forEach (chargeReads (laneFault s' q0.f.handle laneErr) part sk) qs (scanOne · hd lo hi sk ·))
  | _, _ => .next s

end Sys2Proof.Machine
end

