-- ==== Sys2Proof/Machine/FrontHalf.lean ====
section
/-! DEFINITION. Stages 2 to 12 on the home device: query tokens and vector, fan-out (R17, R19), the cross-shard merge
(R198-R202), passage texts (R240), re-rank with features (R203, R208, R213-R216) and packing (R238). -/

namespace Sys2Proof.Machine

/-! ### Stages -/

/-- R29, R215, R222: whether a stage needs the Feature unit, and it is there. -/
def featureOk (s : State) (slot n : Nat) : Bool :=
  match work s slot with
  | some w => n != 11 || w.prof.featSet == 0 || featureUp s
  | none => true

/-- R19, R29: a stage starts; without its unit it completes DOMAIN_OFF. -/
def enterStage (s : State) (slot n : Nat) : State :=
  let s := startStage s slot n
  if stageUnitUp s n && featureOk s slot n then s else failReq s slot .domainOff 0

/-- The request in a slot, if it stands at this stage and nothing has ended it; one whose output is still being written
(R93) is at its end; a resumed one does not start before its reservation
(R397). -/
def atStage (s : State) (slot n : Nat) : Option Work :=
  match work s slot with
  | none => none
  | some w =>
    let e := entry s slot
    if isReady s && e.stage == n && (e.st = .admitted || e.st = .front) && w.ending.isNone && !w.waitKv then some w else none

def heldVocab (s : State) (w : Work) (id : Nat) : Option (Obj × VocabObj) :=
  (heldObj s w.refs 6 id).bind fun o => match o.body with | .vocab v => some (o, v) | _ => none

def heldTemplate (s : State) (w : Work) (id : Nat) : Option TemplateObj :=
  (heldObj s w.refs 7 id).bind fun o => match o.body with | .template t => some t | _ => none

/-- R231, R233, R227: a text's tokens under a vocabulary, at most `limit`, and whether a line of it could not be read. -/
def tokensOf (s : State) (slot p : Nat) (o : Option (Obj × VocabObj)) (b : List Byte) (limit : Option Nat) :
    State × List Nat × Bool :=
  match o with
  | none => (s, [], false)
  | some o =>
    let ts := tokenise o.2 b
    let r := touchVocab s p o (textLines o.2 b)
    match limit with
    | none => (r.1, ts, r.2)
    | some n =>
      if ts.length ≤ n then (r.1, ts, r.2) else (countEv (modWork r.1 slot truncate) 5 1 0 (some p) 1, ts.take n, r.2)

/-- R233, R234: a text cut to its limit. -/
def limited (s : State) (slot p : Nat) (b : List Byte) (limit : Nat) : State × List Byte :=
  if b.length ≤ limit then (s, b) else (countEv (modWork s slot truncate) 5 1 0 (some p) 1, cutText b limit)

/-! ### Stage 2 (R231) -/

/-- R231, R223, R63: the query's tokens; they join the prompt record. -/
def doQueryTokens (s : State) (slot : Nat) (w : Work) (b : List Byte) : State :=
  let p := w.handle.part
  let (s, b) := limited s slot p b 32768
  let s := countEv s 5 0 0 (some p) (illFormed b)
  let r := tokensOf s slot p (heldVocab s w w.prof.retVocab) b (some w.prof.queryMax)
  let g := if twoVocabs w then tokensOf r.1 slot p (heldVocab s w (genVocabId w.prof)) b (some w.prof.queryMax)
           else (r.1, r.2.1, false)
  if r.2.2 || g.2.2 then failReq g.1 slot .dataError 0
  else enterStage (writePrompt (modWork g.1 slot fun w => { w with retToks := r.2.1, genToks := g.2.1 }) slot) slot 3

/-- QUERY_TOKENISATION (R231): the query text, tokenised under each vocabulary the request needs. R58: a failed read
ends the request DATA_ERROR. -/
def execQueryTokenisation (slot t : Nat) (text : HostRead) (s : State) : Host.Outcome State Fault Refusal :=
  let s' := tick s t
  match atStage s' slot 1 with
  | none => .next s
  | some w =>
    let n := dQueryLen w.desc
    if !regOpen s' w.handle.part 4 n then .next s
    else
      let s := startStage s' slot 2
      if !plotterUp s then .next (failReq s slot .domainOff 0)
      else
        match text with
        | none => .next (failReq s slot .dataError 0)
        | some b => .next (regulated s' (doQueryTokens (charge s w.handle.part 4 n) slot w (b.take n)) w.handle.part)

/-! ### Stages 3 and 4 (R17, R19) -/

/-- R17: shards of an index as (rank, active member); one here if none is configured. -/
def shardsOf (s : State) (index : Nat) : List (Nat × Nat) :=
  match s.cell.shards.filter (·.index == index) with
  | [] => [(0, devno s)]
  | l => l.map fun x => (x.rank, x.active)

def fanOutOf (home : Nat) (w : Work) (vec : List Nat) : FanOut :=
  let p := w.prof
  { handle := w.handle, home := home, rank := w.rank, indexId := p.indexId, shardK := p.shardK, ef := p.ef, evalMax := p.evalMax,
    pfDepth := p.pfDepth, rerankN := p.rerankN, rerankUs := p.rerankUs, tableWaitUs := p.tableWaitUs,
    filterId := dFilter w.desc, vec := vec }

/-- R17, R194, R198, R199: the fan-out is sent, and the merge takes a free Sextant list. -/
def startFanOut (s : State) (slot : Nat) (w : Work) (vec : List Nat) : State :=
  let sh := shardsOf s w.prof.indexId
  let s := forEach s sh fun s x => deliver s x.2 w.handle.part (.fanOut (fanOutOf (devno s) w vec))
  let s := seatMerge s w
  let s := modWork s slot fun w => { w with
    vec := vec, fanoutAt := s.now, wanted := sh.map (·.1), got := [], merge := []
    sentTo := (sh.map (·.2)).foldl (fun l d => insertNat d l) w.sentTo }
  enterStage s slot 8

/-- EMBEDDING (R19): the query vector is complete and sent to the shard devices, once no stream of the embedder runs for it. -/
def execEmbedding (slot t : Nat) (vec : List Nat) (s : State) : Host.Outcome State Fault Refusal :=
  let s' := tick s t
  match atStage s' slot 3 with
  | none => .next s
  | some w =>
    if streamRuns s' 0 w.handle then .next s else
    let s := startStage s' slot 4
    if !movesUp s then .next (failReq s slot .domainOff 0) else .next (startFanOut s slot w vec)

/-! ### Stage 8: the merge (R198-R202) -/

/-- R198: the order of the merge list. -/
def elemAbove (a b : Elem) : Bool := rankAbove32 false a.key b.key || (rankEq32 a.key b.key && decide (a.seq < b.seq))

def elemsOf (rank : Nat) (rs : List ShardRec) : List Elem :=
  rs.zipIdx.map fun r => ⟨r.1.score, rank * 1024 + r.2, r.1.item, rank, r.1.flags % 8⟩

/-- R192: elements enter a list of bounded capacity. -/
def putElems (cap : Nat) (l es : List Elem) : List Elem := es.foldl (fun acc x => (insertBy elemAbove x acc).take cap) l

def candOf (e : Elem) : Cand :=
  { item := e.item, rank := e.rank, flags := e.flags, score := e.key, fetch := .wanted, retried := false, text := [],
    keys := [], retToks := [], genToks := [], ce := none }

/-- The device a candidate's text is fetched from (R17). -/
def ownerOf (s : State) (w : Work) (rank : Nat) : Nat := ((shardsOf s w.prof.indexId).find? (·.1 == rank)).elim (devno s) (·.2)

/-- Texts have all come or been given up: stage 10. A passage without text degrades the request (R240). -/
def tryTexts (s : State) (slot : Nat) : State :=
  match atStage s slot 9 with
  | none => s
  | some w =>
    if w.cands.any fun c => c.fetch = .wanted then s
    else
      let s := if w.cands.any fun c => c.fetch = .absent then modWork s slot degrade else s
      enterStage s slot 10

/-- R163: an item's number stands within its shard: a candidate is known by both. -/
def modCand (s : State) (slot rank item : Nat) (f : Cand → Cand) : State :=
  modWork s slot fun w => { w with cands := w.cands.map fun c => if c.rank = rank ∧ c.item = item then f c else c }

/-- R240: a passage has no text. -/
def loseText (s : State) (slot rank item : Nat) : State :=
  tryTexts (modCand s slot rank item fun c => { c with fetch := if c.fetch = .wanted then .absent else c.fetch }) slot

/-- Stage 9 starts (R232): one fetch per item of the merged list, to its owner. -/
def startFetch (s : State) (slot : Nat) (w : Work) : State :=
  let s := enterStage s slot 9
  let s := modWork s slot fun w => { w with fetchAt := s.now }
  let s := forEach s w.cands fun s c =>
    let d := ownerOf s w c.rank
    if reachable s d then
      let s := deliver s d w.handle.part (.fetch w.handle w.prof.indexId c.item (s.now + w.prof.fetchUs * 1000))
      modWork s slot fun w => { w with sentTo := insertNat d w.sentTo }
    else modCand s slot c.rank c.item fun c => { c with fetch := .absent }
  tryTexts s slot

/-- R194: the list a merge holds. -/
def listOf (s : State) (h : Handle) : Option Nat := (s.lists.find? fun x => x.2 == h).map (·.1)

/-- R200, R202: the merge ends. -/
def endMerge (s : State) (slot : Nat) (w : Work) : State :=
  let p := w.handle.part
  let missing := w.wanted.length - w.got.length
  let s := countEv s 3 4 ((listOf s w.handle).getD 0) (some p) missing
  let s := dropList s w.handle
  if w.got.length < w.prof.minShards then failReq s slot .dataError missing
  else
    let s := modWork s slot fun w => { w with
      missing := missing, cands := w.merge.map candOf
      quals := { w.quals with
        degraded := w.quals.degraded || missing != 0 || w.merge.any fun e => bit e.flags 1
        short := w.quals.short || decide (w.merge.length < dSearchK w.desc) } }
    match work s slot with
    | none => s
    | some w => if dLast w.desc = 0 then writeUnits s slot 16 (searchUnits w) else startFetch s slot w

/-- R200, R27: a list that arrives after its merge has ended. -/
def lateList (s : State) (h : Handle) : State := countEv (lateResult s (entry s h.slot).cls h.part) 3 2 0 (some h.part) 1

/-- R198, R191, R192, R185: the records of one list enter the merge in list l, which its last one ends. A substituted score
on any shard degrades the request. -/
def mergeList (s : State) (slot l : Nat) (w : Work) (rank : Nat) (recs : List ShardRec) (subs : Nat) : State :=
  let p := some w.handle.part
  let all := elemsOf rank recs
  let m := putElems (dSearchK w.desc) w.merge all
  let s := countEv s 3 0 l p (w.merge.length + all.length - m.length)
  let s := countEv s 3 1 l p ((all.filter fun e => (dec32 e.key).isNan).length)
  let s := modWork s slot fun w =>
    let w := if subs = 0 then w else degrade w
    { w with got := insertNat rank w.got, merge := m }
  match work s slot with
  | none => s
  | some w => if w.got.length = w.wanted.length then endMerge s slot w else s

/-- SHARD_LIST_RECEIVE (R198, R201): a list enters the merge; the last one ends it. One past the merge's deadline, which has
then ended (R200), or of a rank merged already, is discarded and counted. A merge that has no Sextant list yet waits for
one, and its input with it (R194). -/
def execShardListReceive (h : Handle) (rank t : Nat) (recs : List ShardRec) (short : Bool) (subs : Nat) (s : State) :
    Host.Outcome State Fault Refusal :=
  let s' := tick s t
  let s' := { s' with links := { s'.links with inbox := s'.links.inbox.filter fun m =>
    match m.2 with
    | .shardList h' r' rs' sh' _ su' _ => !(h' == h && r' == rank && rs' == recs && sh' == short && su' == subs)
    | _ => true } }
  match (liveSlot s' h).bind fun slot => (atStage s' slot 8).map fun w => (slot, w) with
  | none => .next (lateList s' h)
  | some (slot, w) =>
    if w.fanoutAt + w.prof.mergeUs * 1000 < s'.now then .next (lateList (endMerge s' slot w) h)
    else if w.got.contains rank then .next (countEv s' 3 3 ((listOf s' h).getD 0) (some h.part) 1)
    else if !w.wanted.contains rank then .next s'
    else
      match listOf s' h with
      | none => .next s
      | some l => .next (mergeList s' slot l w rank recs subs)

/-- MERGE_DEADLINE (R200). -/
def execMergeDeadline (slot t : Nat) (s : State) : Host.Outcome State Fault Refusal :=
  let s' := tick s t
  match atStage s' slot 8 with
  | none => .next s
  | some w => if w.fanoutAt + w.prof.mergeUs * 1000 ≤ s'.now then .next (endMerge s' slot w) else .next s

/-- R29, R200: a shard device refused, or its search failed. -/
def onStageRefused (s : State) (h : Handle) (stage : Nat) (st : Status) : State :=
  if st = .domainOff ∨ st = .notReady then s
  else
    match liveSlot s h with
    | some slot => if (atStage s slot 8).isSome then failSearch s h stage st else s
    | none => s

/-! ### Stage 9: texts (R240, R304, R332) -/

/-- PASSAGE_TEXT_RECEIVE (R240): the text, a late one discarded, or a refusal: with the flash group off, a twin member
that holds the shard is asked once (R332). -/
def execPassageTextReceive (slot rank item t : Nat) (st : Status) (text : List Byte) (keys : List Nat) (s : State) :
    Host.Outcome State Fault Refusal :=
  let s := tick s t
  let mine := fun (m : Nat × Msg) => match m.2 with
    | .text h r i st' tx _ => (liveSlot s h == some slot) && r == rank && i == item && st' == st && tx == text
    | _ => false
  let s := { s with links := { s.links with inbox := s.links.inbox.filter fun m => !mine m } }
  match atStage s slot 9 with
  | none => .next (lateFor s slot)
  | some w =>
    match w.cands.find? fun c => c.rank == rank && c.item == item && c.fetch = .wanted with
    | none => .next (lateResult s (entry s slot).cls w.handle.part)
    | some c =>
      if w.fetchAt + w.prof.fetchUs * 1000 < s.now then
        .next (loseText (lateResult s (entry s slot).cls w.handle.part) slot rank item)
      else if st = .ok then
        .next (tryTexts (modCand s slot rank item fun c => { c with fetch := .here, text := text, keys := keys }) slot)
      else if (st = .domainOff ∨ st = .cancelled) ∧ !c.retried then
        match twinOf s (ownerOf s w c.rank) with
        | some d =>
          if reachable s d then
            let s := modCand s slot rank item fun c => { c with retried := true }
            .next (deliver s d w.handle.part (.fetch w.handle w.prof.indexId item (w.fetchAt + w.prof.fetchUs * 1000)))
          else .next (loseText s slot rank item)
        | none => .next (loseText s slot rank item)
      else .next (loseText s slot rank item)

/-- R304: a passage fetch, or a lookup of feature rows, still queued past its deadline. -/
def lateRead (now : Nat) : Msg → Bool
  | .fetch _ _ _ d | .lookup _ d _ => decide (d < now)
  | _ => false

/-- R304, R305: reads still queued at their deadline are removed, and their consumers told; the home device stops waiting
for texts past FETCH_DEADLINE_US. The prefix read-back is never removed. -/
def removeReads (s : State) : State :=
  let late := s.tiers.reads.filter fun r => r.kind != 1 && decide (r.deadline < s.now)
  let s := { s with tiers := { s.tiers with reads := s.tiers.reads.filter fun r => !late.contains r } }
  let s := forEach s late fun s r => countEv s 8 4 0 (some r.h.part) 1
  let s := forEach s (s.links.inbox.filter fun m => lateRead s.now m.2) fun s m =>
    let s := { s with links := { s.links with inbox := s.links.inbox.erase m } }
    match m.2 with
    | .lookup h _ items => deliver (countEv s 8 4 0 (some h.part) 1) m.1 h.part (.lookupRefused h items .dataError)
    | .fetch h index item _ =>
      deliver (countEv s 9 6 0 (some h.part) 1) m.1 h.part (.text h (shardRank s index) item .dataError [] [])
    | _ => s
  let s := forEach s (late.filter (·.kind == 0)) fun s r => substitute s r.h r.item
  forEach s s.lb.work fun s e =>
    match atStage s e.1 9 with
    | none => s
    | some w =>
      if w.fetchAt + w.prof.fetchUs * 1000 < s.now then
        forEach s (w.cands.filter fun c => c.fetch = .wanted) fun s c => loseText s e.1 c.rank c.item
      else s

/-! ### Stage 10 (R223, R233) -/

/-- R233, R223: tokens of one passage's text. Answers whether a line of a vocabulary could not be read. -/
def tokeniseCand (slot : Nat) (w : Work) (a : State × Bool) (c : Cand) : State × Bool :=
  if c.fetch ≠ .here then a
  else
    let p := w.handle.part
    let (s, b) := limited a.1 slot p c.text w.prof.passageMax
    let s := countEv s 5 0 0 (some p) (illFormed b)
    let r := tokensOf s slot p (heldVocab s w w.prof.retVocab) b none
    let g := if twoVocabs w then tokensOf r.1 slot p (heldVocab s w (genVocabId w.prof)) b none else (r.1, r.2.1, false)
    (modCand g.1 slot c.rank c.item fun c => { c with retToks := r.2.1, genToks := g.2.1 }, a.2 || r.2.2 || g.2.2)

/-- R208: the candidates scored: positions in the merged list. -/
def scoredPos (w : Work) : List Nat :=
  (List.range (min w.prof.ceCands w.cands.length)).filter fun i =>
    match w.cands[i]? with | some c => c.fetch = .here | none => false

/-- R208, R237: the pairs of the candidates scored. -/
def pairsFor (t : TemplateObj) (v : VocabObj) (w : Work) : List (Nat × List Nat × Nat) :=
  (scoredPos w).filterMap fun i =>
    (w.cands[i]?).map fun c => (i, pairTokens t v.pad w.prof.cePairLen w.retToks c.retToks)

/-- R237: the Plotter builds a request's pairs. -/
def buildPairs (s : State) (slot : Nat) : State :=
  match work s slot with
  | none => s
  | some w =>
    match heldTemplate s w w.prof.pairTemplate, heldVocab s w w.prof.retVocab with
    | some t, some v => modWork s slot fun w => { w with pairs := pairsFor t v.2 w }
    | _, _ => s

/-! ### Stage 11: features (R212-R216) and re-rank (R203, R208) -/

def heldSet (s : State) (w : Work) : List Lookup :=
  match heldObj s w.refs 8 w.prof.featSet with
  | some o => (match o.body with | .featSet l => l | _ => [])
  | none => []

def heldFeatObj (s : State) (w : Work) (id : Nat) : Option (Obj × FeatTable) :=
  (heldObj s w.refs 8 id).bind fun o => match o.body with | .featTable t => some (o, t) | _ => none

def heldFeat (s : State) (w : Work) (id : Nat) : Option FeatTable := (heldFeatObj s w id).map (·.2)

/-- R214: the work of one (candidate, lookup): the rows of each shard, and whether they are here. -/
def lookupParts (s : State) (w : Work) (pos j : Nat) (l : Lookup) : List (Nat × Bool × LookupItem) :=
  match heldFeat s w l.table, w.cands[pos]? with
  | some t, some c =>
    let rows := (lookupKeys l c).filter (keyValid t)
    if !t.sharded then (if rows.isEmpty then [] else [(0, true, ⟨pos, j, l.table, rows⟩)])
    else
      (List.range t.shards).filterMap fun sh =>
        let rs := rows.filter fun r => r % t.shards == sh
        if rs.isEmpty then none else some (sh, sh == t.thisShard && (shardOwners s t sh).contains (devno s), ⟨pos, j, l.table, rs⟩)
  | _, _ => []

/-- R213: keys skipped. -/
def skippedKeys (s : State) (w : Work) (pos : Nat) (l : Lookup) : Nat :=
  match heldFeat s w l.table, w.cands[pos]? with
  | some t, some c => ((lookupKeys l c).filter fun k => !keyValid t k).length
  | _, _ => 0

/-- R210, R17: the active member of a device's pair. -/
def activeOf (s : State) (dev : Nat) : Nat :=
  match s.cell.shards.find? fun x => x.active == dev || x.twin == dev with
  | some x => x.active
  | none => dev

/-- R208, R207: the context of a request's head: that of its ROLE 1 model. -/
def headCtx (s : State) (w : Work) : Nat := (((heldObj s w.refs 1 w.prof.ceModel).bind modelOf).map (·.ctxId)).getD 0

/-- R213, R215: the pooled vectors of each candidate, at its feature row. -/
def featureRows (s : State) (w : Work) : List (Nat × List Byte) :=
  (scoredPos w).map fun pos =>
    let row := (heldSet s w).zipIdx.flatMap fun l =>
      match heldFeat s w l.1.table with
      | some t => pooled t l.1.mean (w.featGot.filter fun p => p.cand == pos && p.lookup == l.2)
      | none => []
    (w.prof.featAddr + pos * w.prof.featStride, f32Bytes row)

/-- R213, R215: the feature rows are ready once every partial is in; they are written in the head's context (R208), at once
if it is loaded. -/
def tryFeatures (s : State) (slot : Nat) : State :=
  match atStage s slot 11 with
  | none => s
  | some w =>
    if !w.featWait.isEmpty ∨ w.prof.featSet = 0 then s
    else flushFeatRows (modWork s slot fun w => { w with featRows := featureRows s w, featCtx := headCtx s w })

/-- R213: bytes of a feature set's pooled vectors. -/
def featureBytes (s : State) (w : Work) : Nat :=
  sumN ((heldSet s w).map fun l => match heldFeat s w l.table with | some t => 4 * rowElts t | none => 0)

/-- R214: one (candidate, lookup) pooled here; R297: a row that cannot be read fails the stage. -/
def poolHere (slot : Nat) (w : Work) (s : State) (x : Nat × Bool × LookupItem) : State :=
  if (atStage s slot 11).isNone then s
  else
    match poolItem s w.handle.part x.2.2 (heldFeatObj s w x.2.2.table) with
    | (s, .ok p) => modWork s slot fun w => { w with featGot := w.featGot ++ [{ p with shard := x.1 }] }
    | (s, .error st) => failReq s slot st 0

/-- R214, R216: the lookups that other devices own: waited for from now on, one message to each. -/
def sendLookups (s : State) (slot : Nat) (w : Work) (far : List (Nat × Bool × LookupItem)) : State :=
  if (atStage s slot 11).isNone then s
  else
    let s := modWork s slot fun w => { w with featWait := far.map fun x => ⟨x.2.2.cand, x.2.2.lookup, x.1, x.2.2.rows.length⟩ }
    let dest := fun (x : Nat × Bool × LookupItem) => match heldFeat s w x.2.2.table with
      | some t => activeOf s (t.owners.getD x.1 0xFFFF)
      | none => 0xFFFF
    forEach s (far.foldl (fun l x => insertNat (dest x) l) []) fun s d =>
      let s := modWork s slot fun w => { w with sentTo := insertNat d w.sentTo }
      sendMsg s d w.handle.part
        (.lookup w.handle (s.now + w.prof.featUs * 1000) ((far.filter fun x => dest x == d).map (·.2.2)))

/-- Stage 11 starts (R212-R214): lookups grouped by owning shard; local ones pooled here. -/
def startFeatures (s : State) (slot : Nat) : State :=
  match atStage s slot 11 with
  | none => s
  | some w =>
    if w.prof.featSet = 0 then s
    else if w.prof.featStride < featureBytes s w then failReq s slot .limitExceeded 0
    else
      let ls := (heldSet s w).zipIdx
      let items := (scoredPos w).flatMap fun pos => ls.flatMap fun l => lookupParts s w pos l.2 l.1
      let s := forEach s (scoredPos w) fun s pos => forEach s ls fun s l =>
        countEv s 4 0 l.1.table (some w.handle.part) (skippedKeys s w pos l.1)
      let s := modWork s slot fun w => { w with featAt := s.now }
      let s := forEach s (items.filter (·.2.1)) (poolHere slot w)
      tryFeatures (sendLookups s slot w (items.filter fun x => !x.2.1)) slot

/-- PASSAGE_TOKENISATION (R233, R237): every passage text, and the pairs; then stage 11 starts. -/
def execPassageTokenisation (slot t : Nat) (s : State) : Host.Outcome State Fault Refusal :=
  let s' := tick s t
  match atStage s' slot 10 with
  | none => .next s
  | some w =>
    let r := w.cands.foldl (tokeniseCand slot w) (s', false)
    if r.2 then .next (regulated s (failReq r.1 slot .dataError 0) w.handle.part)
    else .next (regulated s (startFeatures (enterStage (buildPairs r.1 slot) slot 11) slot) w.handle.part)

/-- FEATURE_PARTIAL_RECEIVE (R215): a partial in time takes its place; a later one is a late result. -/
def execFeaturePartialReceive (slot : Nat) (p : Partial) (t : Nat) (s : State) : Host.Outcome State Fault Refusal :=
  let s := tick s t
  let s := match work s slot with
    | some w => { s with links := { s.links with inbox := s.links.inbox.filter fun m => m.2 != .partialSum w.handle p } }
    | none => s
  match atStage s slot 11 with
  | none => .next (lateFor s slot)
  | some w =>
    match w.featWait.find? fun x => x.cand == p.cand && x.lookup == p.lookup && x.shard == p.shard with
    | none => .next (lateResult s (entry s slot).cls w.handle.part)
    | some x =>
      if w.featAt + w.prof.featUs * 1000 < s.now then .next (lateResult s (entry s slot).cls w.handle.part)
      else .next (tryFeatures (modWork s slot fun w => { w with featWait := w.featWait.erase x, featGot := w.featGot ++ [p] }) slot)

/-- R216: partials given up are replaced by k × the default row. -/
def replacePartials (s : State) (slot : Nat) (which : FeatWait → Bool) : State :=
  match atStage s slot 11 with
  | none => s
  | some w =>
    let out := w.featWait.filter which
    if out.isEmpty then s
    else
      let tbl := fun (x : FeatWait) => ((heldSet s w)[x.lookup]?).bind fun l => (heldFeat s w l.table).map fun t => (l.table, t)
      let s := forEach s out fun s x => match tbl x with
        | some t => countEv s 4 1 t.1 (some w.handle.part) 1
        | none => s
      let ps := out.filterMap fun x => (tbl x).map fun t => defaultPartial t.2 x
      tryFeatures (modWork s slot fun w => degrade { w with
        featWait := w.featWait.filter fun x => !which x, featGot := w.featGot ++ ps }) slot

/-- FEATURE_DEADLINE (R216). -/
def execFeatureDeadline (slot t : Nat) (s : State) : Host.Outcome State Fault Refusal :=
  let s' := tick s t
  match atStage s' slot 11 with
  | none => .next s
  | some w =>
    if w.featAt + w.prof.featUs * 1000 ≤ s'.now then .next (replacePartials s' slot fun _ => true) else .next s

/-- R210: the shard whose rows a lookup's part names. -/
def shardOfItem (s : State) (w : Work) (i : LookupItem) : Nat :=
  match heldFeat s w i.table with
  | some t => if t.sharded then i.rows.headD 0 % t.shards else 0
  | none => 0

/-- R216, R29, R305: a lookup refused, or late or unreadable at its owner: its partials are replaced; with its domains off, the owner's twin member is asked, and
without one the request completes CANCELLED. -/
def onLookupRefused (s : State) (src : Nat) (h : Handle) (items : List LookupItem) (st : Status) : State :=
  match liveSlot s h with
  | none => s
  | some slot =>
    match atStage s slot 11 with
    | none => s
    | some w =>
      if st = .domainOff ∨ st = .cancelled then
        match twinOf s src with
        | some d =>
          if activeOf s src = src ∧ reachable s d then
            deliver s d h.part (.lookup h (w.featAt + w.prof.featUs * 1000) items)
          else failReq s slot .cancelled 0
        | none => failReq s slot .cancelled 0
      else replacePartials s slot fun x => items.any fun i =>
        i.cand == x.cand && i.lookup == x.lookup && shardOfItem s w i == x.shard

/-- R28, R240, R216: a device is lost: the texts that were asked of it will not come, and its partials are replaced. -/
def lostOwner (s : State) (dev : Nat) : State :=
  forEach s s.lb.work fun s e =>
    match atStage s e.1 9, atStage s e.1 11 with
    | some w, _ =>
      let asked := fun (c : Cand) =>
        if c.retried then twinOf s (ownerOf s w c.rank) == some dev else ownerOf s w c.rank == dev
      forEach s (w.cands.filter fun c => c.fetch = .wanted && asked c) fun s c => loseText s e.1 c.rank c.item
    | none, some w => replacePartials s e.1 fun x =>
        match ((heldSet s w)[x.lookup]?).bind fun l => heldFeat s w l.table with
        | some t => activeOf s (t.owners.getD x.shard 0xFFFF) == dev
        | none => false
    | none, none => s

/-- R399: when the active member of a shard's pair is lost, later work for the shard goes to the other. -/
def switchMembers (s : State) (dev : Nat) : State :=
  { s with cell := { s.cell with shards := s.cell.shards.map fun x =>
      if x.active = dev ∧ x.twin ≠ 0xFFFF then { x with active := x.twin, twin := x.active } else x } }

/-- R203, R208: the re-rank order: scored candidates by score, ties in merged order, then every other item. -/
def rerankOrder (n : Nat) (scored : List (Nat × Nat)) : List Nat :=
  let above := fun (a b : Nat × Nat) => rankAbove32 false a.2 b.2 || (rankEq32 a.2 b.2 && decide (a.1 < b.1))
  let top := (sortBy above scored).map (·.1)
  top ++ (List.range n).filter fun i => !top.contains i

/-- CROSS_ENCODER_RERANK (R203): scores of the scored candidates, in merged order, once the features are in the head's context
and no stream of the encoder or the head runs for the request; the selection needs a free list (R194). -/
def execCrossEncoderRerank (slot t : Nat) (scores : List Nat) (s : State) : Host.Outcome State Fault Refusal :=
  let s' := tick s t
  match atStage s' slot 11 with
  | none => .next s
  | some w =>
    match freeList s' with
    | none => .next s
    | some l =>
      if !w.featWait.isEmpty || !w.featRows.isEmpty || streamRuns s' 1 w.handle || streamRuns s' 2 w.handle then .next s else
      let pos := scoredPos w
      let sc := pos.zipIdx.map fun x => (x.1, scores.getD x.2 nan32)
      let s := countEv s' 3 1 l (some w.handle.part) ((sc.filter fun x => (dec32 x.2).isNan).length)
      let s := modWork s slot fun w => { w with
        cands := w.cands.zipIdx.map fun c => { c.1 with ce := sc.lookup c.2 }
        order := rerankOrder w.cands.length sc }
      match work s slot with
      | none => .next s
      | some w => if dLast w.desc = 1 then .next (writeUnits s slot 16 (rerankUnits w)) else .next (enterStage s slot 12)

/-! ### Stage 12 (R238) -/

/-- PACKING (R238, R239): the prompt under the budget, in the prompt record (R63); a PACK request's output is its token IDs. -/
def execPacking (slot t : Nat) (s : State) : Host.Outcome State Fault Refusal :=
  let s' := tick s t
  match atStage s' slot 12 with
  | none => .next s
  | some w =>
    match heldTemplate s' w w.prof.promptTemplate, heldVocab s' w (genVocabId w.prof) with
    | some tp, some v =>
      let b := workBudget w
      let fixed := fixedTokens tp w.genToks
      if b < fixed then .next (failReq s' slot .limitExceeded 0)
      else
        let ps := if tp.segs.any (·.1 == 2) then
            (w.order.take w.prof.packMax).map fun i =>
              (w.cands[i]?).bind fun c => if c.fetch = .here then some c.genToks else none
          else []
        let r := packLoop v.2 w.prof.packFill w.prof.minFragment (tp.psgHead.length + tp.psgTail.length) ps ⟨[], b - fixed, 0, 0, []⟩
        let v := touchVocab s' w.handle.part v (r.texts.flatMap (stringLines v.2))
        if v.2 then .next (regulated s (failReq v.1 slot .dataError 0) w.handle.part) else
        let s'' := countEv (countEv v.1 5 2 0 (some w.handle.part) r.cuts) 5 3 0 (some w.handle.part) r.misses
        let prompt := assemble tp w.genToks r.psgs
        let s'' := writePrompt (modWork s'' slot fun w => { w with prompt := prompt }) slot
        let s'' := mirrorOut s'' slot (.prompt w.handle prompt)
        .next (regulated s (if dLast w.desc = 2 then writeUnits s'' slot 4 (prompt.map (le 4)) else enterStage s'' slot 13)
          w.handle.part)
    | _, _ => .next s

end Sys2Proof.Machine
end

