-- ==== Sys2Proof/Machine/KvData.lean ====
section
/-! DEFINITION. Where key/value data stands (R246, R247): inside a block in the decode layout, in the split layout of a prefill
group's members, and in a member's scratch (R266); how a slice is gathered from a block and placed in one (R266, R267). -/

namespace Sys2Proof.Machine

/-! ### Decode layout (R247) -/

/-- R247: the byte of one element of a block: layer, then keys before values, then head, position, dimension. -/
def kvOffset (m : ModelObj) (layer : Nat) (value : Bool) (head pos dim : Nat) : Nat :=
  layer * layerBytes m + (if value then layerBytes m / 2 else 0) + head * (64 * m.headDim * kvEltBytes m.kvFmt)
    + (pos * m.headDim + dim) * kvEltBytes m.kvFmt

/-! ### Split layout (R247): member j of S -/

/-- R247: bytes of one of a member's two runs of a layer, and of both. -/
def runBytes (m : ModelObj) (S : Nat) : Nat := layerBytes m / (2 * S)
def splitBytes (m : ModelObj) (S : Nat) : Nat := 2 * runBytes m S

/-- R247: where a member's run of a layer's keys or values stands in a block: its heads follow those of the members before it. -/
def runOffset (m : ModelObj) (S j layer : Nat) (value : Bool) : Nat := kvOffset m layer value 0 0 0 + j * runBytes m S

/-- R247: a member's data of one layer of the block at an address: its keys, then its values. -/
def gatherSlice (s : State) (a : Nat) (m : ModelObj) (S j layer : Nat) : Mem :=
  let r := runBytes m S
  (s.mem.slice (a + runOffset m S j layer false) r).place r r (s.mem.slice (a + runOffset m S j layer true) r)

/-- R267: a member's data of one layer is written into the block at an address. -/
def placeSlice (s : State) (a : Nat) (m : ModelObj) (S j layer : Nat) (d : Mem) : State :=
  let r := runBytes m S
  devPlace (devPlace s (a + runOffset m S j layer false) r (d.slice 0 r)) (a + runOffset m S j layer true) r (d.slice r r)

/-- R266: a member's data of every layer of a block, in ascending layer. -/
def gatherBlock (s : State) (a : Nat) (m : ModelObj) (S j : Nat) : Mem :=
  (List.range m.layers).foldl (fun d l => d.place (l * splitBytes m S) (splitBytes m S) (gatherSlice s a m S j l)) []

/-! ### A member's scratch (R266) -/

/-- The place of a device in a group (R265): ascending DEVNO. -/
def memberIdx (group : List Nat) (d : Nat) : Nat := group.findIdx (· == d)

/-- R266: S slices of a block to each scratch block, in ascending block (DESIGN CHOICE, assumption log 79): the address of a
prompt block's slice of a layer. None where the scratch has no block for it. -/
def scratchAddr (s : State) (j : PrefillJob) (m : ModelObj) (b layer : Nat) : Option Nat :=
  let S := j.o.group.length
  (j.scratch[b / S]?).map fun i =>
    kvAddr s false j.gslot i + (b % S) * (m.layers * splitBytes m S) + layer * splitBytes m S

/-- The model a job or a sequence runs. -/
def modelFor (s : State) (refs : List Nat) (id : Nat) : Option ModelObj := (pickObj s refs 1 id).bind modelOf

/-- R266: the slices of reused blocks are written into this member's scratch. -/
def fillScratch (s : State) (j : PrefillJob) (data : List (Nat × Mem)) : State :=
  match modelFor s j.refs j.o.model with
  | none => s
  | some m => forEach s data fun s x => match scratchAddr s j m x.1 0 with
      | some a => devPlace s a (m.layers * splitBytes m j.o.group.length) x.2
      | none => s

end Sys2Proof.Machine
end

