-- ==== Sys2Proof/Machine/Sampling.lean ====
section
/-! DEFINITION. What decides a token: the grammar's mask and transitions (R275-R277), the sampler (R204, R281) and its
draw (R205). -/

namespace Sys2Proof.Machine

/-! ### Compass (R275-R277) -/

/-- R273: TOP of an empty stack. -/
def topOf (stack : List Nat) : Nat := stack.headD 0xFFFF

def stateOf (g : GrammarObj) (st : Nat) : GState := g.states.getD st ⟨0, 0, 0, 0, 0⟩

/-- R276: the tokens allowed in a state with a stack, rising. -/
def maskOf (g : GrammarObj) (r : CompassRec) : List Nat :=
  let st := stateOf g r.state
  let m := g.bitmaps.getD (if r.stack.length = 64 then st.full else st.bitmap) []
  let base := (List.range g.vocabSize).filter (bitmapBit m)
  ((cdsOf g st).filter fun c => c.top == topOf r.stack).foldl (fun l c => insertNat c.token l) base

/-- R277: an ACTION on the stack: 0 NONE, 1 POP, 2 POP then PUSH. A push at depth 64 has no room and is dropped. -/
def actStack (stack : List Nat) (pop push : Bool) (sym : Nat) : List Nat :=
  let s := if pop then stack.drop 1 else stack
  if push && decide (s.length < 64) then sym :: s else s

/-- R277: the record after token t has been sampled. -/
def advance (g : GrammarObj) (r : CompassRec) (t : Nat) : CompassRec :=
  let st := stateOf g r.state
  match (cdsOf g st).find? fun c => c.token == t && c.top == topOf r.stack with
  | some c => { r with state := c.next, stack := actStack r.stack (c.action == 1 || c.action == 2) (c.action == 2) c.sym }
  | none =>
    match g.trans.find? fun x => x.state == r.state && x.token == t with
    | some x => { r with state := x.next, stack := actStack r.stack false x.push x.sym }
    | none => { r with state := st.dflt }

/-! ### The sampler (R204, R205, R281) -/

/-- R205: the draw u for position `pos`, as an FP32 code. -/
def drawU (seed pos : Nat) : Nat := round32 (.fin false (mix ((seed * 2 ^ 32 + pos) % 2 ^ 64) >>> 40) (-24))

/-- What a sample gives: the token, NaN logits counted, whether z_0 was +∞ (step 4), whether R281 chose, and the elements its
selection discarded (R192). -/
structure Sampled where
  tok : Nat
  nans : Nat
  top : Bool
  fallback : Bool
  discards : Nat
  deriving DecidableEq, Repr

/-- A selection's order: higher value first, lower token among equals (R191). -/
def pairAbove (a b : Nat × Nat) : Bool := rankAbove32 false a.2 b.2 || (rankEq32 a.2 b.2 && decide (a.1 < b.1))

/-- R204 step 1: the allowed tokens with their logits, NaN as −∞. A masked token stands at −∞ and never enters a list. -/
def allowedRow (allowed : Option (List Nat)) (row : List Nat) : List (Nat × Nat) :=
  (row.zipIdx.map fun x => (x.2, x.1)).filter fun x => match allowed with | none => true | some l => l.contains x.1

/-- R204 steps 4 to 6 over the selected list: the cumulative sums. -/
def cumulative : Nat → List Nat → List Nat
  | _, [] => []
  | acc, e :: es => let c := add32 acc e; c :: cumulative c es

/-- R204 steps 5 and 6: the kept entries and the choice among them. -/
def chooseToken (list : List (Nat × Nat)) (topP u : Nat) : Nat :=
  let z0 := (list.head?.map (·.2)).getD 0
  let cs := cumulative 0 (list.map fun x => exp32 (sub32 x.2 z0))
  let last := cs.getLastD 0
  let bound := mul32 topP last
  let kept := if (dec32 topP).isZero then cs.length
    else min cs.length ((cs.takeWhile fun c => (dec32 c).lt (dec32 bound)).length + 1)
  let t := mul32 u ((cs.take kept).getLastD 0)
  let j := min (kept - 1) ((cs.take kept).takeWhile fun c => !(dec32 t).lt (dec32 c)).length
  (list.map (·.1)).getD j 0

/-- R204: the token for one logit row, with fields as the descriptor holds them (R39): TEMPERATURE and TOP_P in BF16. -/
def sampleRow (allowed : Option (List Nat)) (row : List Nat) (temp topP topK seed pos : Nat) : Sampled :=
  let raw := allowedRow allowed row
  let nans := (raw.filter fun x => (dec32 x.2).isNan).length
  let ls := raw.map fun x => (x.1, if (dec32 x.2).isNan then ninf32 else x.2)
  let greedyTok := ((leastBy pairAbove ls).map (·.1)).getD 0
  let t32 := bf16To32 ((bf16Field temp).getD 0)
  let r := recip32 t32
  if (dec32 t32).isZero || r == pinf32 then
    ⟨greedyTok, nans, false, !ls.any fun x => x.2 != ninf32, ls.length - 1⟩
  else
    let zs := (ls.map fun x => (x.1, mul32 x.2 r)).filter fun x => x.2 != ninf32
    let list := (sortBy pairAbove zs).take (if topK = 0 then 1024 else topK)
    match list with
    | [] => ⟨greedyTok, nans, false, true, ls.length - 1⟩
    | x :: _ =>
      let d := zs.length - list.length
      if x.2 = pinf32 then ⟨x.1, nans, true, false, d⟩
      else ⟨chooseToken list (bf16To32 ((bf16Field topP).getD 0)) (drawU seed pos), nans, false, false, d⟩

end Sys2Proof.Machine
end

