-- ==== Sys2Proof/Machine/Generation.lean ====
section
/-! DEFINITION. Generation (12_generation, 13_compass): prefix look-up, read-back, registration and ageing (R251-R261),
split prefill (R265, R266), the re-shard (R267-R269), sampling, masks and decode steps (R24, R204, R270, R276-R283), and
the output of tokens on the home device (R23, R75-R77, R242, R243). -/

namespace Sys2Proof.Machine

/-! ### Prefill orders -/

/-- R271: the prompt prefill runs over: the packed prompt, then the tokens committed before a takeover. -/
def fullPrompt (w : Work) : List Nat := w.prompt ++ w.out

def heldModel (s : State) (w : Work) : Option ModelObj := (heldObj s w.refs 1 w.prof.genModel).bind modelOf

/-- R266, R270: what the group and the decode device must know of a request. -/
def orderOf (s : State) (slot : Nat) (w : Work) (decodeDev : Nat) : GenOrder :=
  let d := w.desc
  { h := w.handle, home := devno s, rank := w.rank, toks := fullPrompt w, hashes := w.hashes, reuse := w.reuse,
    late := w.late, decodeDev := decodeDev, group := groupOf s, model := w.prof.genModel, variant := dVariant d,
    grammar := dGrammar d, temp := dTemp d, topP := dTopP d, topK := dTopK d, seed := dSeed d, maxOut := dMaxOut d,
    eos := ((heldVocab s w (genVocabId w.prof)).map fun v => v.2.eos).getD 0, pfxMode := w.prof.prefixMode,
    committed := w.out.take (entry s slot).tokens }

/-- R271: tokens of the packed prompt; those after it are generated. -/
def promptLen (o : GenOrder) : Nat := o.toks.length - o.committed.length

/-- R258, R253: the blocks prefill computes: those from the reuse run on, those late, and with every block reused the
private copy of the tail. -/
def computedBlocks (o : GenOrder) : List Nat :=
  let n := nBlocks o.toks.length
  ((List.range n).filter fun b => decide (o.reuse ≤ b) || o.late.contains b || (o.reuse == n && b + 1 == n))

/-- R73, R258: the positions prefill computes. -/
def computedPositions (o : GenOrder) : Nat :=
  let l := o.toks.length
  let n := nBlocks l
  sumN ((computedBlocks o).map fun b =>
    if o.reuse = n ∧ b + 1 = n ∧ !o.late.contains b then 1 else filledOf l b)

def jobOf (s : State) (h : Handle) : Option PrefillJob := s.gen.jobs.find? fun j => j.o.h == h

def modJob (s : State) (h : Handle) (f : PrefillJob → PrefillJob) : State :=
  { s with gen := { s.gen with jobs := s.gen.jobs.map fun j => if j.o.h = h then f j else j } }

/-- R18, R266: the objects of an order as this device holds them. -/
def residentRefs (s : State) (o : GenOrder) : Option (List Nat) :=
  (allSome [one (resident s 1 o.model), variantNeeds s o.variant o.model,
            (match o.grammar with | none => some [] | some g => one (resident s 5 g))]).map fun l => l.flatten.map (·.uid)

/-- R257, R266: a prefill command reaches a member: its job, or the decode device and reuse run of the job it has. -/
def openJob (s : State) (o : GenOrder) (prefixIn : Bool) : State :=
  if s.gen.jobs.any fun j => j.o.h == o.h then modJob s o.h fun j => { j with o := o, prefixIn := j.prefixIn || prefixIn }
  else
    { s with gen := { s.gen with jobs := s.gen.jobs ++
      [⟨o, false, prefixIn, [], (gslotOf s o.model).getD 0, false, [], [], (residentRefs s o).getD []⟩] } }

/-! ### Stage 13: prefix look-up and read-back (R253, R255-R258) -/

/-- A request of this device at stage 13: in FRONT, or resumed in WAIT_PREFILL (R397). -/
def atPrefix (s : State) (slot : Nat) : Option Work :=
  match work s slot with
  | none => none
  | some w =>
    let e := entry s slot
    if isReady s && e.stage == 13 && (e.st = .admitted || e.st = .front || e.st = .waitPrefill) && w.ending.isNone && !w.waitKv then some w
    else none

/-- R65, R73: stage 13 ends: the front half is measured, the entry waits for prefill, and every member gets the command
with the hashes (R257). -/
def endPrefix (s : State) (slot : Nat) : State :=
  match atPrefix s slot with
  | none => s
  | some w =>
    let e := entry s slot
    let s := modPart s w.handle.part fun P => { P with
      frontEst := tmod 0 P.frontEst e.cls fun x => ema x (sinceArrival e s.now * 65536 / 1000) }
    let s := if e.st = .waitPrefill then modEntry s slot fun e => { e with stage := 14 }
             else modEntry (setSt s slot .waitPrefill) slot fun e => { e with stage := 14 }
    let o := orderOf s slot w 0xFFFF
    let s := openJob s o (o.reuse == 0)
    let others := o.group.filter (· != devno s)
    let s := modWork s slot fun w => { w with
      admittedBy := [], sentTo := others.foldl (fun l d => insertNat d l) w.sentTo }
    forEach s others fun s d => sendMsg s d w.handle.part (.prefillCmd o)

/-- R253: nothing of stage 13 is outstanding. -/
def tryPrefix (s : State) (slot : Nat) : State :=
  match atPrefix s slot with
  | none => s
  | some w => if w.readBacks.isEmpty && w.hashes != [] then endPrefix s slot else s

/-- R258: pin an entry: PIN rises, AGE becomes 0. -/
def pinEntry (s : State) (e : PfxEntry) : State :=
  modPfx s (bucketOf e.hash) fun x => if sameBlock x e then { x with pin := x.pin + 1, age := 0 } else x

/-- R253, R304: the number of a read-back among the deadline reads. -/
def readBackItem (g spill : Nat) : Nat := spill * 8 + g

/-- R253: a reused block in board memory: its read-back, once. -/
def startReadBack (s : State) (slot : Nat) (h : Handle) (b : Nat) (e : PfxEntry) (deadline : Nat) : State :=
  let s := modWork s slot fun w => { w with readBacks := w.readBacks ++ [(b, e.idx)] }
  let it := readBackItem e.g e.idx
  if s.tiers.reads.any fun r => r.kind == 1 && r.item == it then s
  else { s with tiers := { s.tiers with reads := s.tiers.reads ++ [⟨1, h, it, deadline⟩] } }

/-- R257, R258: every block looked up; the reuse run pinned, in ascending order. -/
def lookUpAll (s : State) (slot : Nat) (w : Work) (o : GenOrder) : State :=
  let looks := (List.range (nBlocks o.toks.length)).map fun b => lookUp s o b
  let p := some w.handle.part
  let cls := (entry s slot).cls
  let s := countEv s 7 7 cls p ((looks.filter fun x => x.1.isSome).length)
  let s := countEv s 7 8 cls p ((looks.filter fun x => x.2).length)
  let run := (looks.takeWhile fun x => x.1.isSome).filterMap (·.1)
  let s := modWork s slot fun w => { w with reuse := run.length, pins := w.pins ++ run.map fun e => (e.spill, e.g, e.idx) }
  forEach s run.zipIdx fun s x =>
    let s := pinEntry s x.1
    if x.1.spill then startReadBack s slot w.handle x.2 x.1 (s.now + w.prof.prefixUs * 1000) else s

/-- PREFIX_LOOKUP (R257, R258, R250): stage 13. With PREFIX_MODE 0 no look-up is made. -/
def execPrefixLookup (slot t : Nat) (s : State) : Host.Outcome State Fault Refusal :=
  let s' := tick s t
  match atPrefix s' slot with
  | none => .next s
  | some w =>
    if w.hashes != [] then .next s
    else
      match heldModel s' w with
      | none => .next s
      | some m =>
        let toks := fullPrompt w
        if m.maxContext ≤ toks.length then .next (failReq s' slot .limitExceeded 0)
        else
          let hs := promptHashes w.prof.genModel (dVariant w.desc) toks
          let s := modWork s' slot fun w => { w with hashes := hs, prefixAt := s'.now, reuse := 0, late := [], readBacks := [] }
          match work s slot with
          | none => .next s
          | some w =>
            let s := if w.prof.prefixMode = 0 then s else lookUpAll s slot w (orderOf s slot w 0xFFFF)
            .next (tryPrefix s slot)

/-- R253: an entry's block is in the pool from now on; whoever pinned its spill block has it pinned there. -/
def movePins (s : State) (g spill idx : Nat) : State :=
  { s with lb := { s.lb with work := s.lb.work.map fun e =>
      (e.1, { e.2 with pins := e.2.pins.map fun x => if x = (true, g, spill) then (false, g, idx) else x }) } }

/-- R253, R21: a block that prefill recomputes because its read-back is late. -/
def lateBlock (w : Work) (b : Nat) : Work := degrade { w with late := insertNat b w.late }

/-- R253: a read-back's data has arrived for every request that waited on it. -/
def readBackHere (s : State) (g spill : Nat) : State :=
  forEach s s.lb.work fun s e =>
    match atPrefix s e.1, gslotOf s e.2.prof.genModel with
    | some w, some g' =>
      if g' ≠ g then s
      else
        match w.readBacks.find? fun r => r.2 == spill with
        | none => s
        | some r =>
          let late := decide (w.prefixAt + w.prof.prefixUs * 1000 < s.now)
          let s := modWork s e.1 fun w =>
            let w := { w with readBacks := w.readBacks.filter fun x => x.2 != spill }
            if late then lateBlock w r.1 else w
          tryPrefix s e.1
    | _, _ => s

/-- R253, R305: a block in board memory cannot be read: every request that waits for it recomputes it. -/
def readBackLost (s : State) (g spill : Nat) : State :=
  forEach s s.lb.work fun s e =>
    match atPrefix s e.1, gslotOf s e.2.prof.genModel with
    | some w, some g' =>
      (match w.readBacks.find? fun r => r.2 == spill with
       | some r =>
         if g' ≠ g then s
         else tryPrefix (modWork s e.1 fun w => lateBlock { w with readBacks := w.readBacks.filter fun x => x.2 != spill } r.1) e.1
       | none => s)
    | _, _ => s

/-- R253: a read-back completes: the block and its tag are in the pool, the board copy is kept, the entry is clean. -/
def finishReadBack (s : State) (rd : DRead) (g spill i b : Nat) (e : PfxEntry) : State :=
  let s := { copyBlock s g true spill false i with tiers := { (copyBlock s g true spill false i).tiers with
    reads := s.tiers.reads.erase rd } }
  let s := match tagOf s true g spill with
    | some tg => putTag s false g i tg
    | none => s
  let s := modPfx s b fun x =>
    if sameBlock x e then { x with spill := false, idx := i, copy := some spill, dirty := false } else x
  let s := if rd.deadline < s.now then countEv s 8 5 0 (some rd.h.part) 1 else s
  readBackHere (movePins s g spill i) g spill

/-- PREFIX_READ_BACK (R253): it waits where no pool block is free (R251), and on the regulators of the request that asked
(R93, R94). Data past its deadline is a late result (R304). R297, R305: units that cannot be read, those listed or poisoned
before, leave the block where it is, and prefill recomputes it. -/
def execPrefixReadBack (g spill t : Nat) (bad : List Nat) (s : State) : Host.Outcome State Fault Refusal :=
  let s' := tick s t
  let it := readBackItem g spill
  match s'.tiers.reads.find? fun r => r.kind == 1 && r.item == it with
  | none => .next s
  | some rd =>
    match (pfxAll s').find? fun e => e.2.g == g && e.2.spill && e.2.idx == spill with
    | none => .next { s' with tiers := { s'.tiers with reads := s'.tiers.reads.erase rd } }
    | some (b, e) =>
      let n := blockBytesMax s'
      let a := kvAddr s' true g spill
      let p := rd.h.part
      if !(regOpen s' p 1 n && regOpen s' p 0 n) then .next s
      else
        let s1 := charge s' p 1 n
        if !bad.isEmpty || poisoned s1 a n then
          let s1 := forEach s1 bad fun s x => badUnit s (a + x % n)
          .next (readBackLost { s1 with tiers := { s1.tiers with reads := s1.tiers.reads.erase rd } } g spill)
        else
          match takeBlock s1 g with
          | none => .next s
          | some (i, s2) => .next (finishReadBack (charge s2 p 0 n) rd g spill i b e)

/-- READ_DEADLINE_REMOVAL (R304, R305): reads still queued at their deadline, and at stage 13 the blocks whose read-back is
late, which prefill recomputes (R253). -/
def execReadDeadlineRemoval (t : Nat) (s : State) : Host.Outcome State Fault Refusal :=
  let s := removeReads (tick s t)
  .next (forEach s s.lb.work fun s e =>
    match atPrefix s e.1 with
    | none => s
    | some w =>
      if w.readBacks.isEmpty || decide (s.now ≤ w.prefixAt + w.prof.prefixUs * 1000) then s
      else
        tryPrefix (modWork s e.1 fun w =>
          { (w.readBacks.foldl (fun w r => lateBlock w r.1) w) with readBacks := [] }) e.1)

/-- R259, R427. -/
def prefixAgeNs (s : State) : Nat := regBits s (rMem 0x1C) 23 0 * 1000
def prefixAgeMax (s : State) : Nat := regBits s (rMem 0x20) 7 0

/-- PREFIX_AGEING (R259): AGE of each unpinned entry rises; at PREFIX_AGE_MAX the entry is invalidated. -/
def execPrefixAgeing (t : Nat) (s : State) : Host.Outcome State Fault Refusal :=
  let s' := tick s t
  if s'.now < s'.gen.ageAt + prefixAgeNs s' then .next s
  else
    let s := { s' with gen := { s'.gen with
      ageAt := s'.now
      pfx := s'.gen.pfx.map fun b => (b.1, b.2.map fun e => if e.pin = 0 then { e with age := min 255 (e.age + 1) } else e) } }
    .next (forEach s ((pfxAll s).filter fun e => e.2.pin == 0 && decide (prefixAgeMax s ≤ e.2.age)) fun s e =>
      dropEntry s e.1 e.2)

/-- KV_SPILL (R251): a write-back completes; while free blocks are still low, the next one starts. -/
def execKvSpill (g : Nat) (s : State) : Host.Outcome State Fault Refusal :=
  if (pool s g).spilling.isSome then .next (startSpill (endSpill s g) g 64) else .next s

/-! ### Registration (R260) -/

/-- R260: a place in a block's bucket: free, or the unpinned entry of highest AGE, whose block is freed. -/
def bucketPlace (s : State) (bucket : Nat) : Option State :=
  let l := tget [] s.gen.pfx bucket
  if l.length < 4 then some s
  else
    match leastBy (fun (a b : PfxEntry) => decide (b.age < a.age)) (l.filter fun e => e.pin == 0) with
    | some e => some (dropEntry s bucket e)
    | none => none

def addPfx (s : State) (e : PfxEntry) : State :=
  { s with gen := { s.gen with pfx := tmod [] s.gen.pfx (bucketOf e.hash) fun l => l ++ [e] } }

/-- R256: the tag of block b. -/
def tagFor (o : GenOrder) (g b : Nat) : Tag :=
  { slot := g, toks := blockToks o.toks b, parent := if b = 0 then 0 else o.hashes.getD (b - 1) 0, model := o.model,
    variant := o.variant, block := b, filled := filledOf o.toks.length b, split := o.group.length, owner := o.h.part }

/-- R260: an immutable copy of the request's private tail block, in a free pool block. -/
def copyTail (s : State) (g from_ : Nat) : Option (Nat × State) :=
  (freshBlock s g).map fun r => (r.1, startSpill (copyBlock r.2 g false from_ false r.1) g 64)

/-- R260: register one computed block of a request. A block that holds generated positions is never registered; the tail only
if a free pool block exists at that moment (R250). -/
def registerBlock (o : GenOrder) (g cls : Nat) (s : State) (b : Nat) : State :=
  match tableOf s o.h with
  | none => s
  | some (_, t) =>
    if promptLen o < min (64 * (b + 1)) o.toks.length || (lookUp s o b).1.isSome then s
    else
      let full := filledOf o.toks.length b = 64
      let skip := countEv s 7 9 cls (some o.h.part) 1
      let hash := o.hashes.getD b 0
      let mine := (tget (0, 0) t.entries b).2
      if !full && (freshBlock s g).isNone then skip
      else
        match bucketPlace s (bucketOf hash) with
        | none => skip
        | some s =>
          match (if full then some (mine, setBlock s o.h b 2 mine) else copyTail s g mine) with
          | none => skip
          | some (i, s) =>
            putTag (addPfx s ⟨hash, g, false, i, none, b2n full, 0, true, true, !full⟩) false g i (tagFor o g b)

/-! ### Sequences -/

def seqOf (s : State) (h : Handle) : Option Sequence := s.gen.seqs.find? fun q => q.o.h == h

def modSeq (s : State) (h : Handle) (f : Sequence → Sequence) : State :=
  { s with gen := { s.gen with seqs := s.gen.seqs.map fun q => if q.o.h = h then f q else q } }

/-- The grammar a sequence decodes under, by the object it was admitted with. -/
def seqGrammarObj (s : State) (q : Sequence) : Option (Obj × GrammarObj) :=
  q.o.grammar.bind fun id => (heldObj s q.refs 5 id).bind fun o => match o.body with | .grammar g => some (o, g) | _ => none

def seqGrammar (s : State) (q : Sequence) : Option GrammarObj := (seqGrammarObj s q).map (·.2)

def seqModel (s : State) (q : Sequence) : Option ModelObj := (heldObj s q.refs 1 q.o.model).bind modelOf

def modRec (s : State) (h : Handle) (f : CompassRec → CompassRec) : State :=
  { s with compass := { s.compass with recs := s.compass.recs.map fun r => if r.h = h then f r else r } }

/-- R286: the record set to START with an empty stack, and the committed tokens replayed. -/
def replay (g : GrammarObj) (toks : List Nat) (r : CompassRec) : CompassRec :=
  toks.foldl (fun r t => advance g r t) { r with state := g.start, stack := [] }

/-- R72, R249: the reservation asked for by a home device; another device is told the table's index (assumption log 84). -/
def onReserve (s : State) (home : Nat) (h : Handle) (model blocks : Nat) (variant : Nat) (grammar : Option Nat) : State :=
  match gslotOf s model with
  | some g =>
    if (tableOf s h).isNone && canReserve s g blocks grammar.isSome then
      let r := makeReservation s h g model variant blocks grammar []
      if home = devno s then r.2 else sendMsg r.2 home h.part (.reserved h r.1)
    else s
  | none => s

/-- R271, R397: what this device holds of a request for a home device that another has replaced goes. -/
def dropLost (s : State) (home : Nat) (h : Handle) : State :=
  if holdsGen s h && homeOf s h != home then releaseGen s h else s

/-- R62, R249: the reservation's block table on the KV_DEVNO device is known at home. -/
def onReserved (s : State) (src : Nat) (h : Handle) (table : Nat) : State :=
  match liveSlot s h with
  | some slot => if (entry s slot).kvDev = src then modEntry s slot fun e => { e with kvtRef := table } else s
  | none => s

/-- R18: key/value blocks of the prompt and the maximum output. -/
def orderBlocks (o : GenOrder) : Nat := cdiv (promptLen o + o.maxOut) 64

/-- R286: the Compass record of a new sequence: START, and the committed tokens replayed. -/
def startRecord (s : State) (q : Sequence) : State :=
  match seqGrammar s q with
  | some g => modRec s q.o.h (replay g q.o.committed)
  | none => s

/-- R271: what is left of a request that another home device decoded here goes before the survivor's sequence opens. -/
def dropOld (s : State) (o : GenOrder) : State :=
  if s.gen.seqs.any fun q => q.o.h == o.h && q.o.home != o.home then releaseGen s o.h else s

/-- The sequence opens on its decode device: its reservation, its block table, and at home the reused blocks, shared
(R258). With no room the request completes NO_RESOURCE (R18). -/
def openSeq (s : State) (o : GenOrder) (refs : List Nat) (shared : List (Nat × Nat)) : State :=
  let s := dropOld s o
  if s.gen.seqs.any fun q => q.o.h == o.h then modSeq s o.h fun q => { q with o := o }
  else
    let s := if (tableOf s o.h).isSome then s else onReserve s o.home o.h o.model (orderBlocks o) o.variant o.grammar
    match tableOf s o.h with
    | none => failHandle s o.h .noResource
    | some (_, t) =>
      let s := modTable s o.h fun t => { t with promptLen := o.toks.length }
      let s := forEach s shared fun s x => setBlock s o.h x.1 2 x.2
      let q : Sequence := ⟨o, t.gslot, refs, .reshard, o.committed.length, [], [], [], [], none, false⟩
      startRecord { s with gen := { s.gen with seqs := s.gen.seqs ++ [q] } } q

/-- A prefill command arrives from the home device: the member's job, and the sequence where this is the decode device.
A device that lacks the request's objects ends it NO_RESOURCE. -/
def onPrefillCmd (s : State) (o : GenOrder) : State :=
  let s := if o.group.contains (devno s) then openJob s o (o.reuse == 0) else s
  if o.decodeDev ≠ devno s then s
  else
    match residentRefs s o with
    | some refs => openSeq s o refs []
    | none => sendMsg s o.home o.h.part (.genEnd o.h .noResource 0)

/-- R266: the slices of the reuse run have arrived at a member: they are in its scratch, and it may start. -/
def onPrefixSlices (s : State) (h : Handle) (data : List (Nat × Mem)) : State :=
  match jobOf s h with
  | none => lateResult s (entry s h.slot).cls h.part
  | some j => modJob (fillScratch s j data) h fun j => { j with prefixIn := true }

/-- R261: the copy of the reuse run to the decode device has completed: the home device lets its pins go. -/
def pinsDone (s : State) (h : Handle) : State :=
  match liveSlot s h with
  | none => s
  | some slot =>
    match work s slot with
    | none => s
    | some w => modWork (forEach s w.pins fun s x => unpin s x.1 x.2.1 x.2.2) slot fun w => { w with pins := [] }

/-! ### Stage 14: split prefill (R265, R266, R18) -/

/-- Whether a device has been declared lost (R338). -/
def devLost (s : State) (d : Nat) : Bool := s.links.tx.any fun x => x.dev == d && x.lost

/-- R18, R72: the decode device. -/
def chooseDecode (s : State) (slot : Nat) (o : GenOrder) : Option Nat :=
  let e := entry s slot
  let n := orderBlocks o
  let grammar := o.grammar.isSome
  if (tableOf s o.h).isSome then some (devno s)
  else if e.kvDev ≠ devno s ∧ reachable s e.kvDev ∧ !devLost s e.kvDev ∧ o.group.contains e.kvDev then some e.kvDev
  else if ((gslotOf s o.model).map fun g => canReserve s g n grammar).getD false then some (devno s)
  else
    ((reportOrder (·.free o.model) (s.gen.reports.filter fun r => o.group.contains r.dev && r.dev != devno s)).find? fun r =>
      decide (n ≤ r.free o.model) && r.slot && (!grammar || r.room)).map (·.dev)

/-- R258: the reused blocks that the home device's own block table shares: those in the pool, but for late blocks and the
tail that gets a private copy. -/
def sharedBlocks (w : Work) (o : GenOrder) : List (Nat × Nat) :=
  let own := computedBlocks o
  ((w.pins.take o.reuse).zipIdx.filter fun x => !x.1.1 && !own.contains x.2).map fun x => (x.2, x.1.2.2)

/-- R258, R266: the reused blocks in the home device's pool, but for those late: block and pool index. -/
def reusedBlocks (w : Work) (o : GenOrder) : List (Nat × Nat) :=
  ((w.pins.take o.reuse).zipIdx.filter fun x => !x.1.1 && !o.late.contains x.2).map fun x => (x.2, x.1.2.2)

/-- R266: what the home device sends a member of the reuse run. -/
def prefixData (s : State) (g : Nat) (m : ModelObj) (o : GenOrder) (src : List (Nat × Nat)) (d : Nat) : List (Nat × Mem) :=
  src.map fun x => (x.1, gatherBlock s (kvAddr s false g x.2) m o.group.length (memberIdx o.group d))

/-- R266: the reuse run goes to every member, this one included, in the split layout; blocks that prefill does not compute go
whole to a decode device that is not the home device. -/
def sendPrefix (s : State) (slot : Nat) (w : Work) (o : GenOrder) : State :=
  match gslotOf s o.model, heldModel s w with
  | some g, some m =>
    let src := reusedBlocks w o
    let own := computedBlocks o
    if src.any fun x => poisoned s (kvAddr s false g x.2) (blockBytes m) then failReq s slot .dataError 0
    else
      let p := w.handle.part
      let s := charge s p 0 (src.length * blockBytes m)
      let s := forEach s (o.group.filter (· != devno s)) fun s d =>
        sendMsg s d p (.prefixSlices o.h (prefixData s g m o src d))
      let s := onPrefixSlices s o.h (prefixData s g m o src (devno s))
      if o.decodeDev = devno s then s
      else sendMsg s o.decodeDev p (.prefixCopy o ((src.filter fun x => !own.contains x.1).map fun x =>
        (x.1, s.mem.slice (kvAddr s false g x.2) (blockBytes m))))
  | _, _ => s

/-- R18, R266: the decode device is told, or, at home, opens the sequence over the shared blocks. -/
def openDecode (s : State) (slot : Nat) (w : Work) (o : GenOrder) : State :=
  let dev := o.decodeDev
  if dev = devno s then
    let sh := sharedBlocks w o
    let s := modWork s slot fun w => { w with pins := w.pins.filter fun x => x.1 || !sh.any fun y => y.2 == x.2.2 }
    let s := openSeq s o w.refs sh
    modEntry s slot fun e => { e with kvtRef := ((tableOf s o.h).map (·.1)).getD 0xFFFFFFFF }
  else if o.group.contains dev then s
  else sendMsg s dev w.handle.part (.prefillCmd o)

/-- R65, R18, R266: every member has admitted the request: the decode device is chosen and the prefill runs. -/
def enterPrefill (s : State) (slot : Nat) (w : Work) : State :=
  let o0 := orderOf s slot w 0xFFFF
  match chooseDecode s slot o0 with
  | none => failReq s slot .noResource 0
  | some dev =>
    let s := setSt s slot .prefill
    if !stageUnitUp s 14 then failReq s slot .domainOff 0
    else
      let o := { o0 with decodeDev := dev }
      let s := modEntry s slot fun e => { e with kvDev := dev }
      let s := modJob s o.h fun j => { j with o := o }
      let s := forEach s (o.group.filter (· != devno s)) fun s d => sendMsg s d w.handle.part (.prefillCmd o)
      let s := modWork s slot fun w => { w with sentTo := if dev = devno s then w.sentTo else insertNat dev w.sentTo }
      let s := openDecode s slot w o
      if o.reuse = 0 then s else sendPrefix s slot w o

/-- A member's admission reaches the home device. -/
def memberAdmitted (s : State) (h : Handle) (member : Nat) : State :=
  match liveSlot s h with
  | none => s
  | some slot =>
    if (entry s slot).st ≠ .waitPrefill ∨ (entry s slot).stage ≠ 14 ∨ !(groupOf s).contains member then s
    else
        let s := modWork s slot fun w => { w with admittedBy := insertNat member w.admittedBy }
        match work s slot with
        | none => s
        | some w => if (groupOf s).all fun d => w.admittedBy.contains d then enterPrefill s slot w else s

/-- Take pool blocks as scratch. -/
def takeMany (s : State) (g : Nat) : Nat → Option (List Nat × State)
  | 0 => some ([], s)
  | n + 1 =>
    match takeBlock s g with
    | none => none
    | some (i, s) => (takeMany s g n).map fun r => (i :: r.1, r.2)

/-- PREFILL_ADMISSION (R266): this member's long queue has reached the request and it takes its scratch, which reserved
blocks do not serve; or, on the home device, another member's admission arrives. -/
def execPrefillAdmission (h : Handle) (member t : Nat) (s : State) : Host.Outcome State Fault Refusal :=
  let s' := tick s t
  if !isReady s' then .next s
  else if member ≠ devno s' then .next (memberAdmitted (takeMsg s' member (.prefillAdmit h)) h member)
  else
    match jobOf s' h with
    | none => .next s
    | some j =>
      if j.admitted then .next s
      else
        match gslotOf s' j.o.model with
        | none => .next (failHandle s' h .noResource)
        | some g =>
          if !stageUnitUp s' 14 ∧ j.o.home ≠ devno s' then .next (failHandle s' h .cancelled)
          else
            let n := cdiv (nBlocks j.o.toks.length) j.o.group.length
            if unreserved s' g < n then .next s
            else
              match takeMany s' g n with
              | none => .next s
              | some (l, s) =>
                let s := modJob s h fun j => { j with admitted := true, scratch := l, gslot := g }
                if j.o.home = devno s then .next (memberAdmitted s h member)
                else .next (sendMsg s j.o.home h.part (.prefillAdmit h))

/-- R265: from +0 in ascending member order, one rounding per addition. -/
def sumRows (rows : List (List Nat)) : List Nat :=
  match rows with
  | [] => []
  | r :: _ => rows.foldl (fun acc x => List.zipWith add32 acc x) (List.replicate r.length 0)

/-- R265: a row with every member's partial becomes the hidden row. -/
def foldRow (j : PrefillJob) (row : Nat) : PrefillJob :=
  let parts := j.o.group.map fun m => (j.rows.find? fun x => x.1 == row && x.2.1 == m).map (·.2.2)
  match allSome parts with
  | some l => { j with rows := j.rows.filter fun x => x.1 != row, hidden := (row, sumRows l) :: j.hidden.filter fun x => x.1 != row }
  | none => j

/-- PARTIAL_ROWS_RECEIVE (R265): a member's partial rows of a split projection; with no such prefill here a late result (R27). -/
def execPartialRowsReceive (h : Handle) (member row : Nat) (vals : List Nat) (s : State) : Host.Outcome State Fault Refusal :=
  let s := takeMsg s member (.partialRows h row vals)
  if (jobOf s h).isNone then .next (lateResult s (entry s h.slot).cls h.part)
  else
    .next (modJob s h fun j =>
      if j.admitted && j.o.group.contains member then
        foldRow { j with rows := (row, member, vals) :: j.rows.filter fun x => !(x.1 == row && x.2.1 == member) } row
      else j)

/-- R267: the slices a member sends, ascending block, then layer. -/
def sliceList (o : GenOrder) (member layers : Nat) : List SliceId :=
  (computedBlocks o).flatMap fun b => (List.range layers).map fun l => ⟨member, b, l⟩

/-- R73: stage 14 ends as seen at home. -/
def prefillEnded (s : State) (h : Handle) (o : GenOrder) : State :=
  match liveSlot s h with
  | none => s
  | some slot =>
    let s := modWork s slot fun w => { w with prefillEnd := s.now }
    let s := modPart s h.part fun P => { P with winPf := P.winPf + computedPositions o }
    enterStage s slot 15

/-- R267: a slice of a computed block, as it stands in this member's scratch. -/
def sliceData (s : State) (j : PrefillJob) (m : ModelObj) (id : SliceId) : Mem :=
  match scratchAddr s j m id.block id.layer with
  | some a => s.mem.slice a (splitBytes m j.o.group.length)
  | none => []

/-- R297: whether a slice in the scratch cannot be read. -/
def sliceBad (s : State) (j : PrefillJob) (m : ModelObj) (id : SliceId) : Bool :=
  match scratchAddr s j m id.block id.layer with
  | some a => poisoned s a (splitBytes m j.o.group.length)
  | none => false

/-- R267: this member's slices and then its logit share go to the decode device. -/
def sendSlices (s : State) (j : PrefillJob) (m : ModelObj) (logits : List Nat) : State :=
  let o := j.o
  let p := o.h.part
  let l := sliceList o (devno s) m.layers
  if l.any (sliceBad s j m) then failHandle s o.h .dataError
  else
    let s := charge s p 0 (l.length * splitBytes m o.group.length)
    let s := forEach s l fun s x => deliver s o.decodeDev p (.slices o.h x (sliceData s j m x))
    deliver s o.decodeDev p (.logits o.h (devno s) logits)

/-- PREFILL_DONE (R267): a member's last layer is done and no prefill stream runs for the request: its slices and its logit
share go to the decode device. -/
def execPrefillDone (h : Handle) (t : Nat) (logits : List Nat) (s : State) : Host.Outcome State Fault Refusal :=
  let s' := tick s t
  match jobOf s' h with
  | none => .next s
  | some j =>
    let o := j.o
    if !j.admitted || j.sent || !j.prefixIn || o.decodeDev == 0xFFFF || streamRuns s' 3 h then .next s
    else
      match modelFor s' j.refs o.model with
      | none => .next s
      | some m =>
        let s1 := modJob s' h fun j => { j with sent := true }
        let s1 := if o.home = devno s1 then prefillEnded s1 h o else s1
        if !movesUp s1 then .next (if o.home = devno s1 then s1 else failHandle s1 h .cancelled)
        else .next (regulated s (sendSlices s1 j m logits) h.part)

/-! ### Ends of generation (R65, R282, R283) -/

/-- R65: the last token's text is written, or generation has ended by failure with the tokens before it committed. -/
def tryFinish (s : State) (slot : Nat) : State :=
  match work s slot with
  | none => s
  | some w =>
    match w.genEnd with
    | none => s
    | some (st, n) =>
      if (entry s slot).st ≠ .decode ∧ (entry s slot).st ≠ .prefill then s
      else if (entry s slot).tokens < n then s
      else if st = .grammarStuck then failReq s slot .grammarStuck (entry s slot).tokens
      else if w.writes.isEmpty then finishReq s slot
      else s

/-- R22: the qualifier an end of generation brings. -/
def endQuals (q : Quals) (st : Status) : Quals :=
  { q with grammarEnd := q.grammarEnd || st = .okGrammarEnd, truncated := q.truncated || st = .okTruncated }

/-- R243: the home device has ended a sequence that this device decodes for it. -/
def stopSeq (s : State) (h : Handle) : State :=
  let s := modSeq s h fun q => { q with st := .ended, waiting := none }
  { s with compass := { s.compass with masks := s.compass.masks.filter fun m => m.1 != h } }

/-- Generation has ended at the decode device with a code, after n tokens; or, at the decode device, the home device has
ended it (R243). -/
def onGenEnd (s : State) (h : Handle) (st : Status) (n : Nat) : State :=
  match liveSlot s h with
  | none =>
    if s.gen.seqs.any fun q => q.o.h == h && q.o.home != devno s then stopSeq s h
    else lateResult s (entry s h.slot).cls h.part
  | some slot =>
    let e := (entry s slot).st
    if e ≠ .decode ∧ e ≠ .prefill ∧ e ≠ .waitPrefill then lateResult s (entry s slot).cls h.part
    else if st.isSuccess ∨ st = .grammarStuck then
      tryFinish (modWork s slot fun w => { w with
        genEnd := some (w.genEnd.getD (st, n)), quals := if w.genEnd.isSome then w.quals else endQuals w.quals st }) slot
    else failReq s slot st 0

/-- A sequence ends on its decode device. -/
def endSeq (s : State) (q : Sequence) (st : Status) (n : Nat) : State :=
  let s := stopSeq s q.o.h
  if q.o.home = devno s then onGenEnd s q.o.h st n else sendMsg s q.o.home q.o.h.part (.genEnd q.o.h st n)

/-- R65: the first token is sampled: PREFILL to DECODE. -/
def toDecode (s : State) (h : Handle) : State :=
  match liveSlot s h with
  | none => s
  | some slot => if (entry s slot).st = .prefill then startStage (setSt s slot .decode) slot 16 else s

/-- R23: a token leaves for the home device. -/
def emitToken (s : State) (q : Sequence) (tok : Nat) : State :=
  let s := modSeq s q.o.h fun q => { q with st := .decode, pos := q.pos + 1, waiting := none }
  let s := toDecode s q.o.h
  deliver s q.o.home q.o.h.part (.token q.o.h q.pos tok)

/-! ### Sampling a sequence (R24, R204, R280-R283) -/

def maskFor (s : State) (h : Handle) : Option (List Nat) := s.compass.masks.lookup h

def dropMask (s : State) (h : Handle) : State :=
  { s with compass := { s.compass with masks := s.compass.masks.filter fun m => m.1 != h } }

/-- R250: generation has brought LENGTH to MAX_CONTEXT. -/
def contextFull (s : State) (q : Sequence) : Bool :=
  match tableOf s q.o.h, seqModel s q with
  | some (_, t), some m => decide (m.maxContext ≤ t.length)
  | _, _ => false

/-- R250, R283: what follows a sampled token. LENGTH at MAX_CONTEXT ends generation OK_TRUNCATED whatever the token is. -/
def afterToken (s : State) (q : Sequence) (tok : Nat) (mask : Option (List Nat)) : State :=
  let n := q.pos + 1
  if contextFull s q then endSeq s q .okTruncated n
  else if tok = q.o.eos then endSeq s q .ok n
  else if q.o.maxOut ≤ n then
    endSeq s q (match mask with | some l => (if l.contains q.o.eos then .ok else .okTruncated) | none => .okTruncated) n
  else s

/-- R282: a mask that allows no token. -/
def deadEnd (s : State) (q : Sequence) (g : GrammarObj) : State :=
  match g.terminator with
  | some t =>
    let s := countEv s 6 3 ((q.o.grammar).getD 0) (some q.o.h.part) 1
    endSeq (emitToken s q t) q .okGrammarEnd (q.pos + 1)
  | none => endSeq s q .grammarStuck q.pos

/-- R285, R94, R297: Compass reads lines of a grammar for a partition: those not held fill and are counted, and their reads
charged. Answers whether one could not be read. -/
def touchGrammar (s : State) (o : Obj) (p : Nat) (lines : List Nat) : State × Bool :=
  let missed := lines.filter fun l => !s.compass.cache.contains (o.uid, l)
  let reads := missed.map fun l => (⟨o.uid, 64 * l, 64⟩ : ObjRead)
  let s := { s with compass := { s.compass with cache := (lines.map fun l => (o.uid, l)).foldl touchGLine s.compass.cache } }
  (countEv (chargeReads s p reads) 6 4 o.id (some p) missed.length, readsBad s reads)

/-- R276: the lines a mask is built from. -/
def maskLines (g : GrammarObj) (r : CompassRec) : List Nat :=
  let st := stateOf g r.state
  stateLine r.state :: bitmapLines g (if r.stack.length = 64 then st.full else st.bitmap) ++ cdLines g st

/-- R273: the bucket of a transition, in the image. -/
def transRead (o : Obj) (g : GrammarObj) (st tok : Nat) : ObjRead :=
  let at_ := 64 + 32 * g.states.length + g.bitmaps.length * bitmapBytes g + 16 * g.cds.length
  ⟨o.uid, at_ + 64 * (mix (st * 2 ^ 32 + tok) % max 1 ((o.size - 4 - at_) / 64)), 64⟩

/-- R277: what an advance reads: the state and its records, and with no record for the token its transition's bucket. -/
def advanceReads (s : State) (o : Obj) (g : GrammarObj) (r : CompassRec) (p tok : Nat) : State × Bool :=
  let st := stateOf g r.state
  let a := touchGrammar s o p (stateLine r.state :: cdLines g st)
  if (cdsOf g st).any fun c => c.token == tok && c.top == topOf r.stack then a
  else
    let l := [transRead o g r.state tok]
    (chargeReads a.1 p l, a.2 || readsBad a.1 l)

/-- R277: the automaton of a sequence advances by a token. Answers whether a read failed. -/
def advanceSeq (s : State) (q : Sequence) (tok : Nat) : State × Bool :=
  match seqGrammarObj s q, s.compass.recs.find? fun r => r.h == q.o.h with
  | some (o, g), some r =>
    let a := advanceReads s o g r q.o.h.part tok
    (modRec a.1 q.o.h fun c => advance g c tok, a.2)
  | _, _ => (s, false)

/-- R204: one sample, with its counts; its selection takes a list (R194). -/
def sampleNow (s : State) (q : Sequence) (row : List Nat) (mask : Option (List Nat)) : State :=
  let r := sampleRow mask row q.o.temp q.o.topP q.o.topK q.o.seed q.pos
  let p := some q.o.h.part
  let l := (freeList s).getD 0
  let s := countEv s 3 0 l p r.discards
  let s := countEv s 3 5 l p r.nans
  let s := countEv s 3 6 l p (b2n r.top)
  let s := countEv s 6 2 (q.o.grammar.getD 0) p (b2n r.fallback)
  let a := advanceSeq (dropMask (emitToken s q r.tok) q.o.h) q r.tok
  if a.2 then endSeq a.1 q .dataError (q.pos + 1) else afterToken a.1 q r.tok mask

/-- R287: a Compass domain that builds masks, or will: on, powering up, or finishing as it drains. -/
def compassBuilds (s : State) : Bool := compassUp s || domIs s 31 .draining || domIs s 32 .draining

/-- R280, R287: a sequence's logits are ready: it samples, or waits for its mask; with both Compass domains off a
constrained one ends DOMAIN_OFF. -/
def sampleSeq (s : State) (q : Sequence) (row : List Nat) : State :=
  match q.o.grammar with
  | none => sampleNow s q row none
  | some _ =>
    match maskFor s q.o.h, seqGrammar s q with
    | some [], some g => deadEnd s q g
    | some l, _ => sampleNow s q row (some l)
    | none, _ => if compassBuilds s then modSeq s q.o.h fun q => { q with waiting := some row } else endSeq s q .domainOff q.pos

/-! ### Stage 15: the re-shard (R24, R267, R268) -/

/-- R268: every block of the prompt stands in the block table. -/
def allEntered (s : State) (o : GenOrder) : Bool :=
  match tableOf s o.h with
  | some (_, t) => (List.range (nBlocks o.toks.length)).all fun b => (tget (0, 0) t.entries b).1 != 0
  | none => false

/-- R268, R260, R24: every block entered and every logit share in: the first token. -/
def tryFirst (s : State) (h : Handle) : State :=
  match seqOf s h with
  | none => s
  | some q =>
    let own := computedBlocks q.o
    let shares := q.o.group.map fun m => q.shares.lookup m
    match allSome shares with
    | none => s
    | some l =>
      if q.st ≠ .reshard ∨ !allEntered s q.o then s
      else
        let s := modTable s h fun t => { t with length := q.o.toks.length }
        let s := modSeq s h fun q => { q with st := .first }
        let s := if q.o.pfxMode = 1 then forEach s own (registerBlock q.o q.gslot q.o.rank.cls) else s
        if !stageUnitUp s 16 then endSeq s q .domainOff 0 else sampleSeq s q l.flatten

/-- R266: a block copied from the home device is a private block of the decode device. -/
def placeCopy (o : GenOrder) (s : State) (x : Nat × Mem) : State :=
  match tableOf s o.h with
  | none => s
  | some (_, t) =>
    if (tget (0, 0) t.entries x.1).1 ≠ 0 || (computedBlocks o).contains x.1 then s
    else
      match allocFor s o.h x.1 with
      | some r =>
        let n := blockBytesMax r.2
        devPlace (charge r.2 o.h.part 0 n) (kvAddr r.2 false t.gslot r.1) n x.2
      | none => s

/-- R266, R268: the copied blocks of the reuse run are here. -/
def onPrefixCopy (s : State) (o : GenOrder) (data : List (Nat × Mem)) : State :=
  if (seqOf s o.h).isNone then lateResult s (entry s o.h.slot).cls o.h.part
  else tryFirst (forEach s data (placeCopy o)) o.h

/-- R267: the pool block a prompt block's slices are written to: taken from the reservation for its first slice. -/
def fillBlock (s : State) (q : Sequence) (b : Nat) : Option (Nat × State) :=
  match q.filling.lookup b with
  | some i => some (i, s)
  | none => (takeReserved s q.o.h).map fun r => (r.1, modSeq r.2 q.o.h fun q => { q with filling := q.filling ++ [(b, r.1)] })

/-- R267, R268: a distinct slice is written and counted; a block whose slices are all here is entered. -/
def takeSlice (s : State) (q : Sequence) (id : SliceId) (m : ModelObj) (d : Mem) : Option State :=
  let h := q.o.h
  let S := q.o.group.length
  (fillBlock s q id.block).map fun r =>
    let s := charge r.2 h.part 0 (splitBytes m S)
    let s := placeSlice s (kvAddr s false q.gslot r.1) m S (memberIdx q.o.group id.member) id.layer d
    let s := modSeq s h fun q => { q with got := id :: q.got }
    match seqOf s h with
    | none => s
    | some q =>
      if (q.got.filter fun x => x.block == id.block).length < S * m.layers then s
      else
        let s := setBlock s h id.block 1 r.1
        modSeq s h fun q => { q with entered := insertNat id.block q.entered }

/-- R268: a member's last slice is acknowledged on Q0. -/
def ackMember (s : State) (h : Handle) (member layers : Nat) : State :=
  match seqOf s h with
  | none => s
  | some q =>
    if (q.got.filter fun x => x.member == member).length = (computedBlocks q.o).length * layers then
      deliver s member h.part (.reshardAck h)
    else s

/-- R194: a command that would sample while every Sextant list is taken waits. -/
def listWaits (s s' : State) (h : Handle) : Bool :=
  (freeList s).isNone && ((seqOf s h).map (·.pos) != (seqOf s' h).map (·.pos))

/-- What a slice, or a logit share, does at the decode device; none where no pool block is free for it yet (R251). -/
def reshardTake (s : State) (q : Sequence) (id : SliceId) (d : Mem) (logits : Option (List Nat)) : Option State :=
  let h := q.o.h
  match logits with
  | some v =>
    let s := takeMsg s id.member (.logits h id.member v)
    some (tryFirst (modSeq s h fun q => { q with
      shares := if q.shares.any fun x => x.1 == id.member then q.shares else q.shares ++ [(id.member, v)] }) h)
  | none =>
    match seqModel s q with
    | none => some s
    | some m =>
      let s := takeMsg s id.member (.slices h id d)
      if q.got.contains id || !decide (id.layer < m.layers) || !(computedBlocks q.o).contains id.block then some s
      else (takeSlice s q id m d).map fun s => tryFirst (ackMember s h id.member m.layers) h

/-- RESHARD_SLICE_RECEIVE (R267): a slice, or a member's share of the last position's logits. A slice that repeats one
counted is not counted; one whose block no pool block is free for yet waits (R251), as does a first sample for a list (R194).
With no such sequence here it is a late result (R27). -/
def execReshardSliceReceive (h : Handle) (id : SliceId) (t : Nat) (d : Mem) (logits : Option (List Nat)) (s : State) :
    Host.Outcome State Fault Refusal :=
  let s' := tick s t
  match seqOf s' h with
  | none =>
    let s' := match logits with
      | some v => takeMsg s' id.member (.logits h id.member v)
      | none => takeMsg s' id.member (.slices h id d)
    .next (lateResult s' (entry s' h.slot).cls h.part)
  | some q =>
    if q.st ≠ .reshard ∨ !q.o.group.contains id.member then .next s
    else
      match reshardTake s' q id d logits with
      | none => .next s
      | some s2 => if listWaits s' s2 h then .next s else .next (regulated s s2 h.part)

/-- RESHARD_ACK_RECEIVE (R268): the member frees its scratch. -/
def execReshardAckReceive (h : Handle) (s : State) : Host.Outcome State Fault Refusal :=
  let s := { s with links := { s.links with inbox := s.links.inbox.filter fun m => m.2 != .reshardAck h } }
  match jobOf s h with
  | none => .next s
  | some j =>
    if !j.sent then .next s
    else
      let s := forEach s j.scratch fun s i => freeBlock s j.gslot i
      .next { s with gen := { s.gen with jobs := s.gen.jobs.filter fun j => j.o.h != h } }

/-! ### Stage 16: decode steps and masks (R270, R278, R280) -/

/-- R270: the step appends the position to each sequence's open block, or to the next from its reservation. None where a
pool block is not free yet (R251). -/
def openAll (s : State) : List Sequence → Option State
  | [] => some s
  | q :: qs => (openBlock s q.o.h).bind fun s => openAll (modTable s q.o.h fun t => { t with length := t.length + 1 }) qs

/-- R287: with both Compass domains off, the decode steps of constrained sequences complete DOMAIN_OFF. -/
def endBlind (s : State) (model : Nat) : State :=
  if compassBuilds s then s
  else forEach s ((decoding s model).filter fun q => q.waiting.isSome) fun s q => endSeq s q .domainOff q.pos

/-- The step is over. -/
def endStep (s : State) (model : Nat) : State :=
  { s with gen := { s.gen with seqs := s.gen.seqs.map fun q => if q.o.model = model then { q with inStep := false } else q } }

/-- DECODE_STEP (R270): a decode step of one generator ends: every sequence of it has advanced by one position, with a row of
logits for each, and samples. No decode stream of it runs any more. -/
def execDecodeStep (model t : Nat) (rows : List (Handle × List Nat)) (s : State) : Host.Outcome State Fault Refusal :=
  let s' := tick s t
  if !isReady s' then .next s
  else if !stageUnitUp s' 16 then .next (forEach s' (decoding s' model) fun s q => endSeq s q .domainOff q.pos)
  else
    let s1 := beginStep (endBlind s' model) model
    let qs := (decoding s1 model).filter (·.inStep)
    if qs.any (fun q => (rows.lookup q.o.h).isNone || streamRuns s1 4 q.o.h) || (!qs.isEmpty && (freeList s1).isNone) then .next s
    else
      match openAll (endStep s1 model) qs with
      | none => .next s
      | some s2 =>
        .next (regulatedAll s (forEach s2 qs fun s q => sampleSeq s q ((rows.lookup q.o.h).getD [])) (qs.map (·.o.h.part)))

/-- R278: stage 15 has begun for a sequence on its decode device: something of the re-shard has arrived (DEDUCED, assumption
log 85). -/
def reshardBegun (q : Sequence) : Bool := q.st != .reshard || !q.got.isEmpty || !q.shares.isEmpty

/-- R278, R280: the sequences that want a mask, in the order of R85. -/
def wantMask (s : State) : List Sequence :=
  sortBy (fun a b => a.o.rank.lt b.o.rank)
    (s.gen.seqs.filter fun q => q.o.grammar.isSome && q.st != .ended && reshardBegun q && (maskFor s q.o.h).isNone)

/-- R278, R287: Compass domains that build masks, one each at a time; one that drains finishes the one it is building. -/
def compassOn (s : State) : Nat :=
  let one := fun d => b2n (domIs s d .on || domIs s d .draining)
  one 31 + one 32

/-- R276: a sequence's mask is built. Answers whether a read failed. -/
def buildMask (s : State) (q : Sequence) (o : Obj) (g : GrammarObj) (r : CompassRec) : State × Bool :=
  let a := touchGrammar s o q.o.h.part (maskLines g r)
  let s := countEv a.1 6 0 o.id (some q.o.h.part) 1
  ({ s with compass := { s.compass with masks := s.compass.masks ++ [(q.o.h, maskOf g r)] } }, a.2)

/-- MASK_BUILT (R276, R278, R280): a mask of the sequences first in order is ready; a sample that waited for it runs, once a
Sextant list is free (R194). -/
def execMaskBuilt (h : Handle) (t : Nat) (s : State) : Host.Outcome State Fault Refusal :=
  let s' := tick s t
  match ((wantMask s').take (compassOn s')).find? fun q => q.o.h == h with
  | none => .next s
  | some q =>
    match seqGrammarObj s' q, s'.compass.recs.find? fun r => r.h == h with
    | some (o, g), some r =>
      if q.waiting.isSome && (freeList s').isNone then .next s
      else
        let b := buildMask s' q o g r
        if b.2 then .next (regulated s (endSeq b.1 q .dataError q.pos) h.part)
        else
          (match q.waiting with
           | some row => .next (regulated s (sampleSeq b.1 { q with waiting := none } row) h.part)
           | none => .next (regulated s b.1 h.part))
    | _, _ => .next s

/-! ### Stage 17: tokens into text (R23, R40, R75-R77, R80, R242, R243) -/

/-- R40, R243: whole characters that fit in the room left, up to the first that does not; whether one did not. -/
def fitChars (room : Nat) : List (List Byte × Bool) → List (List Byte × Bool) × Bool
  | [] => ([], false)
  | c :: cs =>
    if c.1.length ≤ room then
      let r := fitChars (room - c.1.length) cs
      (c :: r.1, r.2)
    else ([], true)

/-- Bytes of output written and under way. -/
def outIssued (e : Entry) (w : Work) : Nat := e.outBytes + sumN (w.writes.map fun x => x.2.length)

/-- R243: generation ends at the token whose text did not fit: the decode device stops. -/
def stopDecode (s : State) (slot : Nat) (w : Work) : State :=
  let n := (entry s slot).tokens
  let s := modWork s slot fun w => { w with genEnd := some (.okTruncated, n), quals := endQuals w.quals .okTruncated }
  if (entry s slot).kvDev = devno s then stopSeq s w.handle
  else sendMsg s (entry s slot).kvDev w.handle.part (.genEnd w.handle .okTruncated n)

/-- R80, R242: one token is committed at the home device: it counts, and its text is released as whole characters.
R245: with the Plotter off its stage completes DOMAIN_OFF, and a stream already running CANCELLED. -/
def commitToken (s : State) (slot id : Nat) : State :=
  match work s slot with
  | none => s
  | some w =>
    let p := w.handle.part
    let first := (entry s slot).tokens = 0
    let s := modEntry s slot fun e => { e with tokens := e.tokens + 1 }
    let s := modWork s slot fun w => { w with out := w.out ++ [id] }
    if !plotterUp s then failReq s slot (if first then .domainOff else .cancelled) 0
    else
      let s := modEntry s slot fun e => { e with stage := 17 }
      match heldVocab s w (genVocabId w.prof) with
      | none => s
      | some v =>
        let text := if id = v.2.eos then [] else tokText v.2 id
        let v := touchVocab s p v (if id = v.2.eos then [] else stringLines v.2 id)
        if v.2 then failReq v.1 slot .dataError 0 else
        let s := v.1
        let r := releaseText w.hold text
        let e := entry s slot
        let at_ := outIssued e w
        let fit := fitChars (e.outLen - at_) r.1
        let bytes := fit.1.flatMap (·.1)
        let s := countEv s 5 4 0 (some p) ((fit.1.filter (·.2)).length)
        let s := modWork s slot fun w => { w with
          hold := r.2, writes := if bytes.isEmpty then w.writes else w.writes ++ [(at_, bytes)] }
        let s := if fit.2 then stopDecode s slot w else s
        tryFinish s slot

/-- R23, R393: the token next in position order: committed, or, mirrored, held until its record is acknowledged. -/
def takeToken (s : State) (slot pos id : Nat) : State :=
  match work s slot with
  | none => s
  | some w =>
    if mirrored s slot then
      mirrorOut (modWork s slot fun w => { w with held := w.held ++ [id] }) slot (.token w.handle pos id)
    else commitToken s slot id

/-- R23: the position of the next token to take. -/
def nextPos (s : State) (slot : Nat) : Nat :=
  (entry s slot).tokens + (match work s slot with | some w => w.held.length | none => 0)

/-- R243: no token after the one that ended generation is committed. -/
def takesTokens (s : State) (slot pos : Nat) : Bool :=
  ((entry s slot).st = .decode) &&
    (match work s slot with
     | some w => w.ending.isNone && (match w.genEnd with | some (_, n) => decide (pos < n) | none => true)
     | none => false)

/-- R23: tokens that arrived early, now next in order. -/
def takeEarly (s : State) (slot : Nat) : Nat → State
  | 0 => s
  | f + 1 =>
    match work s slot with
    | none => s
    | some w =>
      let n := nextPos s slot
      match w.early.find? fun x => x.1 == n with
      | some x =>
        if takesTokens s slot n then
          takeEarly (takeToken (modWork s slot fun w => { w with early := w.early.filter fun y => y.1 != n }) slot n x.2) slot f
        else s
      | none => s

/-- R23: a token that has arrived: next in order, early, or one already taken. -/
def placeToken (s : State) (slot pos id : Nat) (w : Work) : State :=
  let n := nextPos s slot
  if !takesTokens s slot pos then lateFor s slot
  else if pos = n then takeEarly (takeToken s slot pos id) slot w.early.length
  else if pos < n ∨ w.early.any fun x => x.1 == pos then s
  else modWork s slot fun w => { w with early := w.early ++ [(pos, id)] }

/-- TOKEN_COMMIT (R23, R80): a token ID reaches the home device. After the request has ended it is a late result (R27). R56,
R389: only a READY device commits tokens. -/
def execTokenCommit (slot pos id t : Nat) (s : State) : Host.Outcome State Fault Refusal :=
  let s' := tick s t
  if !isReady s' then .next s
  else
    let s' := { s' with links := { s'.links with inbox := s'.links.inbox.filter fun m => match m.2 with
      | .token h p i => !((liveSlot s' h).getD h.slot == slot && p == pos && i == id)
      | _ => true } }
    match work s' slot with
    | none => .next (lateFor s' slot)
    | some w => .next (regulated s (placeToken (toDecode s' w.handle) slot pos id w) w.handle.part)

/-- R49, R93: an ending that waited for the last write of output is committed. -/
def tryEnding (s : State) (slot : Nat) : State :=
  match work s slot with
  | some w => (match w.ending with | some (st, d) => if w.writes.isEmpty then commitReq s slot st d else s | none => s)
  | none => s

/-- OUTPUT_WRITE_DONE (R49, R75-R77, R94): the oldest write of a request's output completes. R56, R389: only a READY device
writes output. -/
def execOutputWriteDone (slot t : Nat) (s : State) : Host.Outcome State Fault Refusal :=
  let s' := tick s t
  match work s' slot with
  | none => .next s
  | some w =>
    match w.writes with
    | [] => .next s
    | x :: rest =>
      if !isReady s' || !regOpen s' w.handle.part 4 x.2.length then .next s
      else
        let s := modWork (writeDone s' slot x) slot fun w => { w with writes := rest }
        .next (finishAbort (tryEnding (tryFinish s slot) slot) slot)

end Sys2Proof.Machine
end

