-- ==== Sys2Proof/Machine/Passages.lean ====
section
/-! DEFINITION. The passage store (15_passage_store): dies, block sets and the map (R310-R314, R326), passage sets and
batches (R315-R320, R437), fetches (R317, R332), verification, merges, rewrites and patrol (R321, R327-R329). A page's
bytes are held as the current record of each item. -/

namespace Sys2Proof.Machine

/-! ### Dies and block sets (R311, R312, R326) -/

def mergePages (s : State) : Nat := regBits s (rPs 0) 19 4
def verifyBits (s : State) : Nat := regBits s (rPs 0xC) 7 0
def rewriteBits (s : State) : Nat := regBits s (rPs 0xC) 15 8

def modOpen (s : State) (die set : Nat) (f : OpenSet → OpenSet) : State :=
  { s with ps := { s.ps with open_ := s.ps.open_.map fun o => if o.die = die ∧ o.set = set then f o else o } }

def openAt (s : State) (die set : Nat) : Option OpenSet := s.ps.open_.find? fun o => o.die == die && o.set == set

/-- R319, R320: a block set nothing names any more waits for its erase. -/
def releaseSet (s : State) (die set : Nat) : State :=
  { s with ps := { s.ps with
      open_ := s.ps.open_.filter fun o => !(o.die == die && o.set == set)
      closes := s.ps.closes.filter fun c => !(c.die == die && c.set == set)
      rewrites := s.ps.rewrites.filter fun r => !(r == (die, set))
      toErase := s.ps.toErase ++ [(die, set)] } }

def setMap (s : State) (lb : Nat) (v : Option (Nat × Nat)) : State := { s with ps := { s.ps with map := tset none s.ps.map lb v } }

/-- R314: log block sets, full, of which no page is current any more. -/
def releaseLogs (s : State) : State :=
  forEach s (s.ps.open_.filter fun o => o.kind == 3 && o.pages == s.ps.pb) fun s o =>
    if s.ps.logs.any fun e => match e.2 with | some x => x.1 == o.die && x.2.1 == o.set | none => false then s
    else releaseSet s o.die o.set

/-! ### Passage sets (R316, R437) -/

/-- R315: a record's length in 16-byte units. -/
def recUnits (r : PassageRec) : Nat := (80 + r.text.length + 15) / 16

/-- 16-byte units of a logical block. -/
def lbUnits (s : State) : Nat := s.ps.pb * 1024

def setOf (s : State) (index : Nat) : Option PassageSet := s.ps.sets.find? fun x => x.index == index

def putSet (s : State) (x : PassageSet) : State :=
  { s with ps := { s.ps with sets := x :: s.ps.sets.filter fun y => y.index != x.index } }

def dirOf (x : PassageSet) (item : Nat) : Option DirEntry := tget none x.dir item

/-- What writing part of a batch meets: it must wait for a merge, or block sets run out. -/
inductive Stop where
  | wait | full
  deriving DecidableEq, Repr

abbrev Write := Except Stop State

/-- R437: the lowest logical block that no set holds and whose die is usable. -/
def freshLb (s : State) : Option Nat :=
  let held := s.ps.sets.flatMap (·.blocks)
  (List.range (nDies s * s.ps.perDie)).find? fun l => !held.contains l && dieUsable s (lbDie s l)

/-- R321, R326: a fresh block set of a die is opened for a batch; with no stripe free the batch waits for one to be
verified. -/
def openFor (s : State) (die kind : Nat) : Except Stop (OpenSet × State) :=
  match freshSet s die true, freeStripe s die with
  | none, _ => .error .full
  | some _, none => .error .wait
  | some b, some k => let o : OpenSet := ⟨die, b, kind, 0, k⟩; .ok (o, addOpen s o)

/-- R437, R326: the append point takes a fresh logical block, mapped to a fresh block set. -/
def openLb (s : State) (index : Nat) : Write :=
  match setOf s index, freshLb s with
  | some x, some l =>
    (match openFor s (lbDie s l) 0 with
     | .ok (o, s) => .ok (setMap (putSet s { x with blocks := x.blocks ++ [l], append := (l, 0) }) l (some (o.die, o.set)))
     | .error e => .error e)
  | _, _ => .error .full

/-- Whether the append point can be written: it has a logical block, on a usable die. -/
def appendOpen (s : State) (x : PassageSet) : Bool := x.blocks.contains x.append.1 && dieUsable s (lbDie s x.append.1)

/-- R437: `n` units at the append point, from a page's start where `page` is set, not crossing a logical block. Answers
where they lie, in units. -/
def place (s : State) (index n : Nat) (page : Bool) : Except Stop (Nat × State) :=
  let start := fun (x : PassageSet) => if page then alignUp x.append.2 1024 else x.append.2
  let put := fun (s : State) (x : PassageSet) =>
    (x.append.1 * lbUnits s + start x, putSet s { x with append := (x.append.1, start x + n) })
  match setOf s index with
  | none => .error .full
  | some x =>
    if appendOpen s x && decide (start x + n ≤ lbUnits s) then .ok (put s x)
    else
      match openLb s index with
      | .error e => .error e
      | .ok s => (match setOf s index with | some x => .ok (put s x) | none => .error .full)

/-- R314: an update to an LPN goes to the next free page of a log block set of its die. -/
def logPage (s : State) (lpn : Nat) : Write :=
  let die := lbDie s (lpn / s.ps.pb)
  let at_ := fun (s : State) (o : OpenSet) =>
    let s := programRun s die o.set o.pages 1 (some lpn)
    modOpen { s with ps := { s.ps with logs := tset none s.ps.logs lpn (some (die, o.set, o.pages)) } } die o.set
      fun o => { o with pages := o.pages + 1 }
  let ls := s.ps.open_.filter fun o => o.die == die && o.kind == 3
  match ls.find? fun o => decide (o.pages < s.ps.pb) with
  | some o => .ok (at_ s o)
  | none =>
    if logBlocks s ≤ ls.length then .error .wait
    else (openFor s die 3).map fun x => at_ x.2 x.1

/-- Write several in turn. -/
def eachW {α : Type} (l : List α) (s : State) (f : State → α → Write) : Write :=
  l.foldl (fun acc x => match acc with | .ok s => f s x | .error e => .error e) (.ok s)

/-- The LPNs that hold units [u, u + n). -/
def lpnsOf (u n : Nat) : List Nat := (List.range ((u + n - 1) / 1024 + 1 - u / 1024)).map fun i => u / 1024 + i

def entryUnits (e : DirEntry) : Nat := e.lpn * 1024 + e.off16

/-- R313, R314: the die that holds an LPN's current page: that of its log page, else of its block set. -/
def pageDie (s : State) (lpn : Nat) : Nat :=
  match tget none s.ps.logs lpn, lbMap s (lpn / s.ps.pb) with
  | some x, _ => x.1
  | none, some x => x.1
  | none, none => lbDie s (lpn / s.ps.pb)

/-- The dies that hold a record. -/
def recDies (s : State) (e : DirEntry) : List Nat := (lpnsOf (entryUnits e) e.len16).map (pageDie s)

/-- R319, R437: how a record of a batch is written. -/
inductive RecKind where
  | append | inPlace (old : DirEntry) | delete | none
  deriving DecidableEq, Repr

/-- R319: classification against the set as it stands; a fresh set has no entries. -/
def recKind (s : State) (x : PassageSet) (r : PassageRec) : RecKind :=
  match dirOf x r.item with
  | none => if r.text.isEmpty then .none else .append
  | some e =>
    if r.text.isEmpty then .delete
    else if recUnits r ≤ e.len16 ∧ dieUsable s (lbDie s (e.lpn / s.ps.pb)) then .inPlace e
    else .append

/-- Whether a record's directory entry changes. -/
def changesDir (r : PassageRec) : RecKind → Bool
  | .append => true
  | .inPlace e => recUnits r != e.len16
  | .delete => true
  | .none => false

def setDir (x : PassageSet) (item : Nat) (e : Option DirEntry) (r : Option PassageRec) : PassageSet :=
  { x with dir := tset none x.dir item e, recs := tset none x.recs item r }

/-- R319 step 4, R437: one changed directory page: through the log, or at the append point when it is new, its set fresh,
or its die not usable. -/
def writeDirPage (index : Nat) (s : State) (pg : Nat) : Write :=
  match setOf s index with
  | none => .error .full
  | some x =>
    match tget none x.dirPages pg with
    | some lpn =>
      if dieUsable s (lbDie s (lpn / s.ps.pb)) then logPage s lpn else fresh s
    | none => fresh s
where
  fresh (s : State) : Write :=
    match place s index 1024 true with
    | .error e => .error e
    | .ok (u, s) =>
      (match setOf s index with
       | some x => .ok (putSet s { x with dirPages := tset none x.dirPages pg (some (u / 1024)) })
       | none => .error .full)

/-- R319 steps 1 to 3: one record. -/
def writeRec (index : Nat) (s : State) (rk : PassageRec × RecKind) : Write :=
  let r := rk.1
  let dead := fun (s : State) (n : Nat) => { s with ps := { s.ps with dead := (s.ps.dead + 16 * n) % 2 ^ 64 } }
  let store := fun (s : State) (e : Option DirEntry) (r' : Option PassageRec) =>
    match setOf s index with | some x => putSet s (setDir x r.item e r') | none => s
  let oldLen := ((setOf s index).bind fun x => dirOf x r.item).elim 0 (·.len16)
  match rk.2 with
  | .none => .ok s
  | .delete => .ok (store (dead s oldLen) none none)
  | .inPlace e =>
    (match eachW (lpnsOf (entryUnits e) (recUnits r)) s logPage with
     | .ok s => .ok (store s (some { e with len16 := recUnits r }) (some r))
     | .error e => .error e)
  | .append =>
    (match place s index (recUnits r) false with
     | .ok (u, s) => .ok (store (dead s oldLen) (some ⟨u / 1024, u % 1024, recUnits r⟩) (some r))
     | .error e => .error e)

/-- Rising numbers without repeats. -/
def risingSet (l : List Nat) : List Nat := l.foldl (fun acc x => insertNat x acc) []

/-- R319: a REPLACE batch releases the set's previous block sets at its commit. -/
def dropBlocks (s : State) (blocks : List Nat) : State :=
  forEach s blocks fun s l =>
    let s := match lbMap s l with
      | some (d, b) => releaseSet s d b
      | none => s
    let s := setMap s l none
    { s with ps := { s.ps with logs := s.ps.logs.filter fun e => e.1 / s.ps.pb != l } }

/-- R322: filler pages complete the word line in which an open block set ends. -/
def fillLine (s : State) (o : OpenSet) : State :=
  let n := alignUp o.pages (max 1 s.ps.wordLine)
  modOpen (programRun s o.die o.set o.pages (n - o.pages) none) o.die o.set fun o => { o with pages := n }

/-- R313, R321: the pages of a logical block at the append point that a batch has reached are programmed. -/
def programTo (s : State) (l n : Nat) : State :=
  match (lbMap s l).bind fun m => openAt s m.1 m.2 with
  | some o =>
    modOpen (programRun s o.die o.set o.pages (n - o.pages) (some (l * s.ps.pb + o.pages))) o.die o.set fun o =>
      { o with pages := max o.pages n }
  | none => s

/-- R321, R322: pages programmed in the block sets of the append blocks and in the log block sets, their last word lines
completed; the next batch starts on a fresh page. -/
def closePages (s : State) (index : Nat) : State :=
  match setOf s index with
  | none => s
  | some x =>
    let n := alignUp x.append.2 1024 / 1024
    let s := forEach s x.blocks fun s l => programTo s l (if l = x.append.1 then n else s.ps.pb)
    let s := putSet s { x with append := (x.append.1, 1024 * alignUp n (max 1 s.ps.wordLine)) }
    forEach s s.ps.open_ fillLine

/-- R319, R437: everything a batch writes, as its commit makes it current. -/
def applyBatch (s : State) (b : Batch) : Write :=
  let old := setOf s b.index
  let isFresh := b.replace || old.isNone
  let x0 : PassageSet := if isFresh then ⟨b.index, [], [], [], [], (0, 0)⟩ else old.getD ⟨b.index, [], [], [], [], (0, 0)⟩
  let gone := if isFresh then (old.map (·.blocks)).getD [] else []
  -- the blocks of a set being replaced stay held until the commit
  let s1 := if isFresh then { s with ps := { s.ps with
      sets := x0 :: (s.ps.sets.map fun y => if y.index = b.index then { y with index := 65536 + b.index } else y) } } else s
  let kinds := b.recs.map fun r => (r, recKind s1 x0 r)
  let pages := risingSet ((kinds.filter fun k => changesDir k.1 k.2).map fun k => k.1.item / 2048)
  match eachW pages s1 (writeDirPage b.index) with
  | .error e => .error e
  | .ok s =>
    match eachW kinds s (writeRec b.index) with
    | .error e => .error e
    | .ok s =>
      let s := { s with ps := { s.ps with sets := s.ps.sets.filter fun y => y.index != 65536 + b.index } }
      .ok (releaseLogs (closePages (dropBlocks s gone) b.index))

/-! ### Loading a batch (R318) -/

/-- R315: one record at the front of a body, and the bytes after it. -/
def parseRec (b : List Byte) : Option (PassageRec × List Byte) :=
  let len := u16 b 4
  let n := (80 + len + 15) / 16 * 16
  if b.length < n ∨ 32768 < len ∨ !zeros b 6 16 ∨ !zeros b (80 + len) n then none
  else some (⟨u32 b 0, (List.range 16).map fun i => u32 b (16 + 4 * i), slice b 80 len⟩, b.drop n)

def parseRecs : Nat → List Byte → Option (List PassageRec)
  | 0, b => if b.isEmpty then some [] else none
  | n + 1, b =>
    if b.isEmpty then some []
    else
      match parseRec b with
      | none => none
      | some (r, rest) => (parseRecs n rest).map fun l => r :: l

/-- R318: what a batch image spells, with the code of its first fault in R43's order. -/
def checkBatch (s : State) (b : List Byte) : Except Status (Nat × Bool × List PassageRec) :=
  if !crcTailOk b then .error .dataError
  else
    let index := u16 b 2
    let body := slice b 64 (b.length - 68)
    let rs := parseRecs (body.length / 80 + 1) body
    let others := risingSet (s.ps.sets.map (·.index) ++ s.ps.batches.map (·.index))
    let count := match rs with | some l => l.length != u32 b 4 | none => false
    if count || (!others.contains index && decide (16 ≤ others.length)) then .error .limitExceeded
    else
      match rs with
      | none => .error .dataError
      | some l =>
        let ids := l.map (·.item)
        if b.length < 68 ∨ u8 b 0 ≠ 1 ∨ u8 b 1 ≠ 1 ∨ 1 < u8 b 8 ∨ !zeros b 9 64 ∨ !rising ids ∨ ids.contains 0xFFFFFFFF then
          .error .dataError
        else .ok (index, bit (u8 b 8) 0, l)

/-- R318: what other batches hold of the staging area. -/
def stagedOthers (s : State) (id : Nat) : Nat :=
  sumN ((s.obj.loads.filter fun l => l.kind == 9 && l.id != id).map fun l => coverBytes l.cover) + sumN (s.obj.staged.map (·.2))

/-- R318: PS_STAGE_BYTES. -/
def batchSpace (s : State) (l : Load) : Option Status :=
  let n := coverBytes l.cover
  if psStageBytes s < n then some .limitExceeded
  else if psStageBytes s < n + stagedOthers s l.id then some .noResource
  else none

/-- R318, R319, R437: at the LAST piece: the batch joins those that wait to commit, and its completion waits with it. With
every flash group off it completes CANCELLED (R29). -/
def queueBatch (s : State) (p : Nat) (d : Taken) (l : Load) (size : Nat) : State :=
  let s := dropLoad s l.kind l.id
  if !coverOk l size then endTaken s p d .dataError
  else
    match checkBatch s (l.bytes.image 0 size) with
    | .error st => endTaken s p d st
    | .ok (index, replace, rs) =>
      if nDies s ≠ 0 ∧ (List.range (nDies s)).all (fun i => !dieUsable s i) then endTaken s p d .cancelled
      else
        { s with
          ps := { s.ps with batches := s.ps.batches ++ [⟨l.id, p, d.sq, d.count, dTag d.bytes, index, replace, rs⟩] }
          obj := { s.obj with staged := s.obj.staged ++ [(l.id, size)] } }

/-- LOAD_PASSAGE_BATCH (R318, R43): one piece of a batch. -/
def execLoadPassageBatch (p : Nat) (data : HostRead) (s : State) : Host.Outcome State Fault Refusal :=
  match nextPiece s p 9 with
  | none => .next s
  | some d =>
    let id := lId d.bytes
    if !isReady s then .next s
    else if pieceBad s p d || s.ps.batches.any fun b => b.id == id && b.part != p then .next (endTaken (dropTaken s p d) p d .badDescriptor)
    else if !regOpen s p 4 (lLen d.bytes) then .next s
    else
      let s := charge (dropTaken s p d) p 4 (lLen d.bytes)
      match stagePiece s p d.bytes data (batchSpace s) with
      | .ended s st =>
        let s := endTaken s p d st
        .next (if lLast d.bytes then refuseLater s 9 id else s)
      | .kept s l =>
        if lLast d.bytes then .next (refuseLater (queueBatch s p d l (lOff d.bytes + lLen d.bytes)) 9 id)
        else .next (endTaken s p d .ok)

/-- A batch leaves the queue, its staging freed, its LAST piece's completion written. -/
def endBatch (s : State) (b : Batch) (st : Status) : State :=
  let s := { s with
    ps := { s.ps with batches := s.ps.batches.erase b }
    obj := { s.obj with staged := s.obj.staged.eraseP fun x => x.1 == b.id } }
  completeDesc s b.part b.sq b.count b.tag 0 st

/-- R332: batches not yet committed complete CANCELLED. -/
def cancelBatches (s : State) : State := forEach s s.ps.batches fun s b => endBatch s b .cancelled

/-- R323: a durable commit; after 65,536 of them a checkpoint. -/
def countCommit (s : State) : State :=
  let s := { s with ps := { s.ps with
    seq := (s.ps.seq + 1) % 2 ^ 64, sinceCkpt := if s.ps.sinceCkpt = 65535 then 0 else s.ps.sinceCkpt + 1 } }
  countEv s 9 5 0 none 1

/-- Bytes a batch programs: its records and their pages' shares (R94). -/
def batchBytes (b : Batch) : Nat := sumN (b.recs.map fun r => 16 * recUnits r)

/-- R321, R331: a failed block set: rebuilt and rewritten to a fresh one, retired as grown bad, charged to its die. -/
def failSet (s : State) (die set : Nat) : State :=
  let k := ((openAt s die set).map (·.stripe)).getD ((freeStripe s die).getD 0)
  let s := match freshSet s die false, openAt s die set with
    | some f, some o => addOpen (renameSet s die set die f) { o with set := f }
    | some f, none => addOpen (renameSet s die set die f) ⟨die, f, 2, s.ps.pb, k⟩
    | none, _ => s
  let s := { s with ps := { s.ps with
    open_ := s.ps.open_.filter fun o => !(o.die == die && o.set == set)
    closes := s.ps.closes.filter fun c => !(c.die == die && c.set == set)
    rewrites := s.ps.rewrites.filter fun r => !(r == (die, set))
    toErase := s.ps.toErase.filter fun r => !(r == (die, set))
    bad := s.ps.bad ++ [(die, set)] } }
  chargeCorrected (countEv s 9 4 die none 1) clsDie die

/-- PASSAGE_BATCH_COMMIT (R319, R320, R322): the first batch becomes current as a whole, once its pages are read back: an open
block set of which they fail is rebuilt first. One that waits for a merge or a stripe goes on waiting; one that would take a
die's last FREE_FLOOR block sets completes NO_RESOURCE (R326). -/
def execPassageBatchCommit (t : Nat) (bad : List (Nat × Nat)) (s : State) : Host.Outcome State Fault Refusal :=
  let s' := tick s t
  match s'.ps.batches with
  | [] => .next s
  | b :: _ =>
    if !isReady s' || s'.ps.stopped || !regOpen s' b.part 2 (batchBytes b) then .next s
    else
      match applyBatch s' b with
      | .error .wait => .next s
      | .error .full => .next (endBatch s' b .noResource)
      | .ok s =>
        let s := forEach s (bad.filter fun x => (openAt s x.1 x.2).isSome) fun s x => failSet s x.1 x.2
        .next (endBatch (countCommit (charge s b.part 2 (batchBytes b))) b .ok)

/-! ### Fetches (R317, R327, R332) -/

/-- A fetched passage goes back on Q5. -/
def sendText (s : State) (home : Nat) (h : Handle) (index item : Nat) (st : Status) (text : List Byte) (keys : List Nat) :
    State :=
  deliver s home h.part (.text h (shardRank s index) item st text keys)

/-- A fetch request leaves the queue. -/
def takeFetch (s : State) (home : Nat) (h : Handle) (index item : Nat) : State :=
  let mine := fun (m : Nat × Msg) => match m.2 with
    | .fetch h' i' it' _ => m.1 == home && h' == h && i' == index && it' == item
    | _ => false
  { s with links := { s.links with inbox := s.links.inbox.filter fun m => !mine m } }

/-- R304: a fetch still queued at its deadline is removed, and its home told. -/
def fetchLate (s : State) (home : Nat) (h : Handle) (index item : Nat) : Bool :=
  s.links.inbox.any fun m => m.1 == home && (match m.2 with
    | .fetch h' i it d => h' == h && i == index && it == item && decide (d < s.now)
    | _ => false)

/-- R327, R94: bytes of the codewords that cover a record. -/
def codewordBytes (e : DirEntry) : Nat :=
  let lo := e.off16 * 16
  let hi := lo + e.len16 * 16
  ((hi - 1) / 4096 + 1 - lo / 4096) * 4096

/-- R317 step 3: the record's header agrees with the entry. -/
def headerOk (r : PassageRec) (item : Nat) (e : DirEntry) : Bool := r.item == item && decide (recUnits r ≤ e.len16)

/-- PASSAGE_FETCH (R317, R332): the owner serves one fetch: DATA_ERROR where there is no passage, its die is lost, or a
codeword failed; DOMAIN_OFF where its flash group is fenced or off. -/
def execPassageFetch (home : Nat) (h : Handle) (index item t : Nat) (good : Bool) (s : State) :
    Host.Outcome State Fault Refusal :=
  let s' := tick s t
  let no := fun (s : State) (st : Status) => sendText (takeFetch s home h index item) home h index item st [] []
  if !isReady s' then .next (no s' .notReady)
  else if fetchLate s' home h index item then .next (countEv (no s' .dataError) 9 6 0 (some h.part) 1)
  else
    match setOf s' index with
    | none => .next (no s' .dataError)
    | some x =>
      match dirOf x item with
      | none => .next (no s' .dataError)
      | some e =>
        let dies := recDies s' e
        if dies.any fun d => s'.ps.deadDies.contains d then .next (no s' .dataError)
        else if dies.any fun d => !domIs s' (flashDom s' d) .on then .next (no s' .domainOff)
        else if !regOpen s' h.part 2 (codewordBytes e) then .next s
        else
          let s := charge s' h.part 2 (codewordBytes e)
          match tget none x.recs item with
          | some r =>
            if good && headerOk r item e then
              .next (sendText (takeFetch s home h index item) home h index item .ok r.text r.keys)
            else .next (no s .dataError)
          | none => .next (no s .dataError)

/-! ### Thresholds (R328) -/

/-- The place of a value among the upper bounds of bins. -/
def binOf {α : Type} (below : α → Bool) (l : List α) : Nat := (l.takeWhile fun b => !below b).length

/-- R328: the retention bin, for a time in ns since close: 1 hour, 1 day, 1 week, 1 month, 3 months, 1 year, 3 years (a month
taken as 30 days and a year as 365, DESIGN CHOICE, assumption log 88). -/
def retentionBin (ns : Nat) : Nat := binOf (fun h => decide (ns < h * 3600000000000)) [1, 24, 168, 720, 2160, 8760, 26280]

/-- R328: the bin of read temperature minus write temperature; at 0 the upper bin, at 20 the third (assumption log 88). -/
def tempBin (d : Int) : Nat := if d < -20 then 0 else if d < 0 then 1 else if d ≤ 20 then 2 else 3

/-- R328: the quarter of RATED_CYCLES in which an erase count lies. -/
def wearBin (erases rated : Nat) : Nat := min 3 (4 * erases / max 1 rated)

/-- R328: the entry of PS_THRESHOLD_TABLE for a read of a block set at a temperature; a set not closed yet is read as one that
closes now. The spec numbers the entries 0 to 127 and not their bins (DESIGN CHOICE, assumption log 88). -/
def thresholdEntry (s : State) (die set : Nat) (temp : Int) : Nat :=
  let c := s.ps.closes.find? fun c => c.die == die && c.set == set
  16 * retentionBin (s.now - (c.map (·.time)).getD s.now) + 4 * tempBin (temp - (c.map (·.temp)).getD temp)
    + wearBin (tget 0 s.ps.erases (eraseKey die set)) (regBits s (rPs 0x14) 16 0)

/-- R328: the offsets go to the die with SET FEATURES when they are not those it had last. -/
def sendOffsets (s : State) (die set : Nat) (temp : Int) : State :=
  { s with ps := { s.ps with thr := tset none s.ps.thr die (some (thresholdEntry s die set temp)) } }

/-! ### Codewords, verification, merges, rewrites (R314, R321, R327-R329) -/

/-- R329: a block set is scheduled for rewrite. -/
def scheduleRewrite (s : State) (die set : Nat) : State :=
  if s.ps.rewrites.contains (die, set) then s
  else countEv { s with ps := { s.ps with rewrites := s.ps.rewrites ++ [(die, set)] } } 9 3 die none 1

/-- R327-R329: one codeword read at a temperature: its thresholds, its counts, a rewrite where it took re-reads or too many
corrections, and a transient error of the die where it failed for good. -/
def codeword (s : State) (die set corrected rereads : Nat) (temp : Int) (good : Bool) : State :=
  let n := min 4 rereads
  let s := countEv (countEv (countEv (sendOffsets s die set temp) 9 0 die none 1) 9 1 die none corrected) 9 2 die none n
  let s := if rewriteBits s < corrected ∨ n ≠ 0 then scheduleRewrite s die set else s
  if good then s else chargeTransient s clsDie die

/-- FLASH_CODEWORD_READ (R327). -/
def execFlashCodewordRead (die set _page corrected rereads t : Nat) (temp : Int) (good : Bool) (s : State) :
    Host.Outcome State Fault Refusal :=
  let s' := tick s t
  if isReady s' && dieUsable s' die then .next (codeword s' die set corrected rereads temp good) else .next s

/-- R321: a page read back passes when no codeword took more than VERIFY_BITS corrections and every CRC matched. -/
def pageFails (s : State) (r : Nat × Nat × Bool) : Bool := decide (verifyBits s < r.2.1) || !r.2.2

/-- BLOCK_SET_VERIFY (R321, R328): every page of a full open block set read back, those that took corrections listed: (page,
most corrected in a codeword, CRCs right); it closes, or fails. -/
def execBlockSetVerify (die set t : Nat) (temp : Int) (pages : List (Nat × Nat × Bool)) (s : State) :
    Host.Outcome State Fault Refusal :=
  let s' := tick s t
  match openAt s' die set with
  | none => .next s
  | some o =>
    if o.pages ≠ s'.ps.pb ∨ !dieUsable s' die ∨ s'.ps.stopped then .next s
    else if pages.any (pageFails s') then .next (failSet s' die set)
    else if o.kind = 3 then .next s'
    else
      .next { s' with ps := { s'.ps with
        open_ := s'.ps.open_.filter fun x => !(x.die == die && x.set == set)
        closes := s'.ps.closes.filter (fun c => !(c.die == die && c.set == set)) ++ [⟨die, set, s'.now, temp, 0, s'.now⟩] } }

/-- PROGRAM_OR_ERASE_DONE (R321, R331): a failed program or erase retires its block set; an erase that ends leaves it
free, once more worn (R326). -/
def execProgramOrEraseDone (die set t : Nat) (erase good : Bool) (s : State) : Host.Outcome State Fault Refusal :=
  let s' := tick s t
  if s'.ps.deadDies.contains die then .next s
  else if erase then
    if !s'.ps.toErase.contains (die, set) then .next s
    else if good then
      .next { s' with ps := { s'.ps with
        spare := s'.ps.spare.filter fun r => !(r.die == die && r.set == set)
        toErase := s'.ps.toErase.erase (die, set), erases := tmod 0 s'.ps.erases (eraseKey die set) (· + 1) } }
    else .next (failSet s' die set)
  else if good ∨ (openAt s' die set).isNone then .next s
  else .next (failSet s' die set)

/-- R314: current log pages of a logical block. -/
def logCount (s : State) (lb : Nat) : Nat := (s.ps.logs.filter fun e => e.2.isSome && e.1 / s.ps.pb == lb).length

/-- R314: logical blocks of a die with current log pages. -/
def loggedLbs (s : State) (die : Nat) : List Nat :=
  risingSet ((s.ps.logs.filter fun e => e.2.isSome && lbDie s (e.1 / s.ps.pb) == die).map fun e => e.1 / s.ps.pb)

/-- R314: every log block set of the die is full, or a logical block has more than MERGE_PAGES log pages. -/
def mergeDue (s : State) (die : Nat) : Bool :=
  let ls := s.ps.open_.filter fun o => o.die == die && o.kind == 3
  (decide (logBlocks s ≤ ls.length) && ls.all fun o => o.pages == s.ps.pb)
    || (loggedLbs s die).any fun l => decide (mergePages s < logCount s l)

/-- LOG_MERGE (R314): the logical block with the most log pages moves to a fresh block set. -/
def execLogMerge (die t : Nat) (s : State) : Host.Outcome State Fault Refusal :=
  let s' := tick s t
  if !isReady s' || s'.ps.stopped || !dieUsable s' die || !mergeDue s' die then .next s
  else
    match leastBy (fun a b => decide (logCount s' b < logCount s' a)) (loggedLbs s' die), openable s' die false with
    | some l, some (f, k) =>
      let old := lbMap s' l
      let s := addOpen (setMap s' l (some (die, f))) ⟨die, f, 1, s'.ps.pb, k⟩
      let s := programRun s die f 0 s.ps.pb (some (l * s.ps.pb))
      let s := { s with ps := { s.ps with logs := s.ps.logs.filter fun e => e.1 / s.ps.pb != l } }
      let s := match old with
        | some (d, b) => releaseSet s d b
        | none => s
      .next (countCommit (releaseLogs s))
    | _, _ => .next s

/-- BLOCK_SET_REWRITE (R329): a scheduled block set is copied to a fresh one, committed and released for its erase. -/
def execBlockSetRewrite (die set t : Nat) (s : State) : Host.Outcome State Fault Refusal :=
  let s' := tick s t
  if !isReady s' || s'.ps.stopped || !dieUsable s' die || !s'.ps.rewrites.contains (die, set) then .next s
  else
    match openable s' die false with
    | none => .next s
    | some (f, k) =>
      let o := (openAt s' die set).getD ⟨die, set, 2, s'.ps.pb, k⟩
      .next (countCommit (releaseSet (addOpen (renameSet s' die set die f) { o with set := f, stripe := k }) die set))

/-- R329, R428: PATROL_PERIOD in ns. -/
def patrolNs (s : State) : Nat := regBits s (rPs 0x10) 9 0 * 3600000000000

/-- R329: the patrol of a block set has read its next page. -/
def patrolled (s : State) (die set : Nat) : State :=
  { s with ps := { s.ps with closes := s.ps.closes.map fun c =>
      if c.die = die ∧ c.set = set then { c with patrol := (c.patrol + 1) % max 1 s.ps.pb, patrolAt := s.now } else c } }

/-- PATROL_READ (R329): the next page of a verified block set, one every PATROL_PERIOD, under the same rule. -/
def execPatrolRead (die set t corrected rereads : Nat) (temp : Int) (good : Bool) (s : State) :
    Host.Outcome State Fault Refusal :=
  let s' := tick s t
  if isReady s' && dieUsable s' die
      && s'.ps.closes.any fun c => c.die == die && c.set == set && decide (c.patrolAt + patrolNs s' ≤ s'.now) then
    .next (codeword (patrolled s' die set) die set corrected rereads temp good)
  else .next s

end Sys2Proof.Machine
end

