-- ==== Sys2Proof/Machine/Links.lean ====
section
/-! DEFINITION. Links between devices: gate control lists (R345-R349), queues, credits and flows (R342-R344), frames and
the transport (R336-R340), and what the loss of a receiver means to its users (R28, R98, R200, R216, R240, R269). -/

namespace Sys2Proof.Machine

/-! ### Registers of a port (R429) -/

def gateEn (s : State) (q : Nat) : Bool := bit (reg s (rPort q 0)) 14
def vlanEn (s : State) (q : Nat) : Bool := bit (reg s (rPort q 0)) 1
def gateBase (s : State) (q : Nat) : Nat := reg s (rPort q 0x44) * 2 ^ 32 + reg s (rPort q 0x40)
def recalNs (s : State) (q : Nat) : Nat := regBits s (rPort q 0x48) 15 0 * 1000000
def qWeight (s : State) (q k : Nat) : Nat := regBits s (rPort q (0x20 + 4 * (k - 3))) 7 0
def qBurst (s : State) (q k : Nat) : Nat := 1024 * regBits s (rPort q (0x20 + 4 * (k - 3))) 20 8
/-- R344: FLOW_RATE of queue k and partition n, in 0.1 Gb/s. -/
def flowRate (s : State) (q k n : Nat) : Nat := regBits s (rPort q (0x100 + 4 * (12 * k + n))) 12 0

/-! ### Wire time (R336) -/

/-- Frame bytes for a payload: 54 with the tag, 50 without. -/
def frameBytes (s : State) (q p : Nat) : Nat := p + (if vlanEn s q then 54 else 50)

/-- R336: padded to the 64-byte Ethernet minimum, with preamble and inter-frame gap. -/
def wireBytes (s : State) (q p : Nat) : Nat := max 64 (frameBytes s q p) + 20

/-- Picoseconds on the wire at a width of `w` lanes of 200 Gb/s. -/
def wirePs (bytes w : Nat) : Nat := bytes * 40 / max 1 w

/-! ### Gate control lists (R345-R348) -/

def gclNs (e : W32) : Nat := 8 * bits e.toNat 31 9
def gclRecal (e : W32) : Bool := bit e.toNat 8
def gclOpen (k : Nat) (e : W32) : Bool := bit e.toNat k
def cycleOf (l : List W32) : Nat := sumN (l.map gclNs)

/-- R345, R348: how far into a cycle of the active list a time lies. -/
def cyclePos (s : State) (q t : Nat) : Nat :=
  let P := port s q
  (((t : Int) - (P.base.getD (gateBase s q) : Nat)) % (max 1 (cycleOf P.active) : Nat)).toNat

/-- The entry in force at a position of the cycle, and the ns left in it. -/
def entryAt : List W32 → Nat → Nat → Nat × Nat
  | [], i, _ => (i, 0)
  | e :: l, i, pos => if pos < gclNs e then (i, gclNs e - pos) else entryAt l (i + 1) (pos - gclNs e)

/-- The time of the leading entries that leave a queue open. -/
def runOpen (k : Nat) : List W32 → Nat
  | [] => 0
  | e :: l => if gclOpen k e then gclNs e + runOpen k l else 0

def rotate (l : List W32) (i : Nat) : List W32 := l.drop i ++ l.take i

/-- R346: a queue's open window now; none when it never closes. -/
def openWindow (s : State) (q k : Nat) : Option Nat :=
  let P := port s q
  if !gateEn s q then none
  else
    let e := entryAt P.active 0 (cyclePos s q s.now)
    let w := if !gclOpen k (P.active.getD e.1 0) then some 0
      else if P.active.all (gclOpen k) then none
      else some (e.2 + runOpen k ((rotate P.active (e.1 + 1)).take (P.active.length - 1)))
    match P.switch with
    | some x => some (min (w.getD (x.at_ - s.now)) (x.at_ - s.now))
    | none => w

/-- R346, R347: the longest window of a queue in a list; none when it never closes. -/
def longestWindow (l : List W32) (k : Nat) : Option Nat :=
  if l.all (gclOpen k) then none
  else some (((List.range l.length).map fun i => runOpen k (rotate l i)).foldl max 0)

def fitsIn (ps : Nat) : Option Nat → Bool
  | none => true
  | some ns => decide (ps ≤ ns * 1000)

/-- R347: a list is accepted when every queue opens and its longest window takes a full frame at ×4. -/
def gclOk (s : State) (q : Nat) (l : List W32) : Bool :=
  (List.range 8).all fun k => l.any (gclOpen k) && fitsIn (wirePs (wireBytes s q (maxPayload s)) 4) (longestWindow l k)

def pendList (P : Port) : List W32 := (List.range P.pendLen).map fun e => (tget none P.pend e).getD 0x2FF

/-- R348: the first entry boundary of the active list at or after a time. -/
def boundaryFrom (s : State) (q t : Nat) : Nat :=
  let P := port s q
  let pos := cyclePos s q t
  let e := entryAt P.active 0 pos
  if e.2 = gclNs (P.active.getD e.1 0) then t else t + e.2

/-- R347, R348: a switch of the pending list is asked for from a time on; a refused list is flagged. -/
def askSwitch (s : State) (q t : Nat) : State :=
  let l := pendList (port s q)
  if gclOk s q l then
    modPort s q fun P => { P with refused := false, switch := some ⟨boundaryFrom s q t, l⟩ }
  else modPort s q fun P => { P with refused := true }

/-- LIST_SWITCH_NOW (R348): at the first entry boundary at least 64 ns after the request. -/
def execListSwitchNow (port t : Nat) (s : State) : Host.Outcome State Fault Refusal :=
  let s' := tick s t
  if !barOpen s' 0x400000 || decide (nPorts s' ≤ port) then .next s else .next (askSwitch s' port (s'.now + 64))

/-- LIST_SWITCH_AT_TIME (R348): SWITCH_TIME rounded up to an entry boundary. -/
def execListSwitchAtTime (port t : Nat) (s : State) : Host.Outcome State Fault Refusal :=
  let s' := tick s t
  if !barOpen s' 0x400000 || decide (nPorts s' ≤ port) then .next s
  else .next (askSwitch s' port (max s'.now (reg s' (rPort port 0x54) * 2 ^ 32 + reg s' (rPort port 0x50))))

/-- R348: a switch whose time has come: the pending list becomes active, and the old list pending. -/
def applySwitch (s : State) (q : Nat) : State :=
  match (port s q).switch with
  | none => s
  | some x =>
    if s.now < x.at_ then s
    else modPort s q fun P => { P with
      active := x.list, base := some x.at_, switch := none, entry := 0, pendLen := P.active.length,
      pend := P.active.zipIdx.foldl (fun t e => tset none t e.2 (some e.1)) [] }

/-- R349: an entry in which a port may recalibrate. -/
def recalEntry (e : W32) : Bool := gclRecal e && bits e.toNat 7 0 == 0 && decide (1000 ≤ gclNs e)

/-- R349: once a period, in its first qualifying entry; a period of a list with none is counted as missed. -/
def recalibrate (s : State) (q : Nat) : State :=
  let P := port s q
  if s.now < P.recalAt + recalNs s q then s
  else if gateEn s q && recalEntry (P.active.getD P.entry 0) then modPort s q fun P => { P with recalAt := s.now }
  else if gateEn s q && P.active.any recalEntry then s
  else countEv (modPort s q fun P => { P with recalAt := P.recalAt + recalNs s q }) 0xA 8 q none 1

/-- GATE_ENTRY_BOUNDARY (R345, R348, R349). -/
def execGateEntryBoundary (port t : Nat) (s : State) : Host.Outcome State Fault Refusal :=
  let s' := tick s t
  if nPorts s' ≤ port then .next s
  else
    let s := applySwitch s' port
    let s := modPort s port fun P => { P with entry := (entryAt P.active 0 (cyclePos s port s.now)).1 }
    .next (recalibrate s port)

/-! ### Flows and credits (R343, R344) -/

def flowKey (k n : Nat) : Nat := 12 * k + n

/-- R344: a flow stands in the calendar wheel until its slot comes round. -/
def flowReady (s : State) (q k n : Nat) : Bool :=
  flowRate s q k n == 0 || !((port s q).wheel.any fun e => e.2.contains (flowKey k n))

/-- R344: enter a flow in the slot of its next eligible time (`v` ns × rate), at most 4,095 slots ahead. -/
def enterWheel (s : State) (q f v rate : Nat) : State :=
  let slot := min (cdiv v (64 * max 1 rate)) (s.now / 64 + 4095)
  modPort s q fun P => { P with
    flows := tset 0 P.flows f v
    wheel := tmod [] P.wheel (slot % 4096) (insertNat f) }

/-- R344: a frame of `b` wire bytes sent now on a flow. -/
def spendFlow (s : State) (q k n b : Nat) : State :=
  let r := flowRate s q k n
  if r = 0 then s
  else enterWheel s q (flowKey k n) (max (s.now * r) (tget 0 (port s q).flows (flowKey k n)) + b * 80) r

/-- CALENDAR_SLOT (R344): the flows of the slot are eligible; one whose time lies further ahead is entered again. -/
def execCalendarSlot (port t : Nat) (s : State) : Host.Outcome State Fault Refusal :=
  let s := tick s t
  let P := Sys2Proof.Machine.port s port
  let slot := s.now / 64
  let fs := tget [] P.wheel (slot % 4096)
  let s := modPort s port fun P => { P with wheel := tset [] P.wheel (slot % 4096) [] }
  .next (forEach s fs fun s f =>
    let r := flowRate s port (f / 12) (f % 12)
    let v := tget 0 P.flows f
    if r ≠ 0 ∧ slot < cdiv v (64 * r) then enterWheel s port f v r else s)

/-- The five weighted queues. -/
def weightedQs : List Nat := [3, 4, 5, 6, 7]

/-- R343: credits, in 2^-16 of a byte, after queue k sends b wire bytes. -/
def spendCredit (s : State) (q k b : Nat) : State :=
  if k < 3 then s
  else
    let total := sumN (weightedQs.map (qWeight s q))
    let lo : Int := -(2 * ((maxPayload s + 74 : Nat) : Int) * 65536)
    modPort s q fun P => { P with credit := weightedQs.foldl (fun c j =>
      let gain : Int := if total = 0 then 0 else ((b * qWeight s q j * 65536 / total : Nat) : Int)
      tmod 0 c j fun v =>
        max lo (min ((qBurst s q j * 65536 : Nat) : Int) (v + gain - (if j = k then ((b * 65536 : Nat) : Int) else 0)))) P.credit }

/-! ### What the loss of a receiver or the refusal of a message means -/

/-- A step of a stream waits for its message and fails with a code. -/
def failStep (s : State) (sid step : Nat) (st : Status) : State :=
  let s := { s with feat := { s.feat with acks := s.feat.acks.filter fun a => a != (sid, step) } }
  match stream s sid with
  | some x => if x.done.contains step then s else failStream s sid st
  | none => s

/-- A message to a device fails with a code: its user's rule applies (R98, R218, R439, R200, R216, R240, R28, R82). -/
def failMsg (s : State) (dev : Nat) (m : Msg) (st : Status) : State :=
  match m with
  | .wpSignal _ sid step _ _ => failStep s sid step st
  | .bulk sid step .. => failStep s sid step st
  | .update sid step _ => failStep s sid step st
  | .fetch h index item _ =>
    { s with links := { s.links with inbox := (dev, .text h (rankOn s index dev) item st [] []) :: s.links.inbox } }
  | .lookup h _ items => onLookupRefused s dev h items st
  | .fanOut f => if st = .linkLost then s else onStageRefused s f.handle 5 st
  | .prefillCmd o => failHandle s o.h st
  | .prefixCopy o _ => failHandle s o.h st
  | .prefixSlices h .. => failHandle s h st
  | .partialRows h .. => failHandle s h st
  | .slices h .. => failHandle s h st
  | .logits h .. => failHandle s h st
  | .reserve h .. => failHandle s h st
  | .reserved h _ => releaseGen s h
  | .prefillAdmit h => releaseGen s h
  | .token h .. => releaseGen s h
  | .genEnd h .. => releaseGen s h
  | .abort h => released s h dev
  | _ => s

/-- Queued messages to a device that match, taken out of every egress queue. -/
def takeQueued (s : State) (sel : Nat → Nat × Nat × Msg → Bool) : State :=
  { s with links := { s.links with ports := s.links.ports.map fun e =>
      (e.1, { e.2 with queues := (e.2.queues.map fun k => (k.1, k.2.filter fun m => !sel k.1 m)).filter fun k => k.2 != [] }) } }

def queuedTo (s : State) (sel : Nat → Nat × Nat × Msg → Bool) : List Msg :=
  s.links.ports.flatMap fun e => e.2.queues.flatMap fun k => (k.2.filter (sel k.1)).map (·.2.2)

/-- Messages wholly sent and not acknowledged. -/
def unackedMsgs (x : Tx) : List Msg := x.unacked.filterMap (·.msg)

/-- R28: a member of the prefill group or the decode device is lost during stages 14 to 16 of a request. -/
def lostWork (s : State) (dev : Nat) (e : Nat × Work) : Bool :=
  let n := entry s e.1
  14 ≤ n.stage && n.stage ≤ 17 && e.2.genEnd.isNone && n.st != .committing
    && ((groupOf s).contains dev || n.kvDev == dev)

/-- R98: a signal step whose receiver has not answered. -/
def awaitsDev (dev : Nat) (x : Stream) (i : Nat) : Bool :=
  let b := x.steps.getD i []
  decide (i < x.next) && !x.done.contains i && stepKind b == 5 && u8 b 1 == 2 && u16 b 6 == dev

/-- R338: every message queued or in flight to a device fails, and its sequences restart at 0 (R338, Restart) or stand
(Loss); with a loss, what was asked of it will not come (R216, R240), and its shards go to their other members (R399). -/
def loseReceiver (s : State) (dev : Nat) (st : Status) (restart : Bool) : State :=
  let txs := s.links.tx.filter (·.dev == dev)
  let sel := fun (_ : Nat) (m : Nat × Nat × Msg) => m.1 == dev
  let msgs := txs.flatMap unackedMsgs ++ queuedTo s sel
  let s := takeQueued s sel
  let s := { s with links := { s.links with
    ports := s.links.ports.map fun e => (e.1, { e.2 with midMsg := e.2.midMsg.filter fun k => k.1 % 65536 != dev })
    tx := s.links.tx.filterMap fun x =>
      if x.dev != dev then some x
      else if restart then none
      else some { x with unacked := [], retries := 0, alt := false, lost := true }
    rx := if restart then s.links.rx.filter fun r => r.dev != dev else s.links.rx } }
  let s := forEach s msgs fun s m => failMsg s dev m st
  let s := forEach s (s.lb.work.filter (lostWork s dev)) fun s e => failReq s e.1 st 0
  let s := if restart then s else switchMembers (lostOwner s dev) dev
  let s := forEach s s.streams fun s e =>
    match e.2 with
    | some x => forEach s ((List.range x.next).filter (awaitsDev dev x)) fun s i => failStep s e.1 i st
    | none => s
  let s := forEach s (s.lb.work.filter fun e => e.2.releases.contains dev) fun s e => released s e.2.handle dev
  let s := forEach s (s.gen.seqs.filter fun q => q.st = .reshard && q.o.group.contains dev) fun s q => failHandle s q.o.h st
  let gone := (s.gen.seqs.filter fun q => q.o.home == dev).map (·.o.h)
    ++ (s.gen.jobs.filter fun j => j.o.home == dev).map (·.o.h)
    ++ (s.bearing.queries.filter fun q => q.f.home == dev).map (·.f.handle)
  settled (forEach s gone fun s h => releaseGen (stopWork s h) h)

/-! ### Routes (R339, R340, R395) -/

/-- The port a message of queue k to a device takes now: twin traffic on the twin ports. -/
def routePort (s : State) (dev k : Nat) : Option Nat :=
  if k = 2 ∧ twinEn s ∧ dev = twinDev s ∧ portUp s (twinPort0 s) then some (twinPort0 s)
  else if k = 2 ∧ twinEn s ∧ dev = twinDev s ∧ portUp s (twinPort1 s) then some (twinPort1 s)
  else pickPort s dev k

/-- Move what is queued for one receiver and queue to another port. -/
def moveQueued (s : State) (q dev k dst : Nat) : State :=
  if q = dst then s
  else
    let l := (tget [] (port s q).queues k).filter fun m => m.1 == dev
    let n := tget 0 (port s q).midMsg (k * 65536 + dev)
    let s := modPort s q fun P => { P with
      queues := tmod [] P.queues k fun l => l.filter fun m => m.1 != dev
      midMsg := tset 0 P.midMsg (k * 65536 + dev) 0 }
    modPort s dst fun P => { P with
      queues := tmod [] P.queues k fun x => l ++ x
      midMsg := if n = 0 then P.midMsg else tset 0 P.midMsg (k * 65536 + dev) n }

/-- R429, R336: the MAC a route entry gives for a device by a port: the alternate's by the alternate port, else the
primary's; 0 with no entry. -/
def routeMac (s : State) (dev q : Nat) : Nat :=
  match routeEntry s dev with
  | none => 0
  | some (o, w) =>
    if bits w 20 16 ≠ q ∧ bits w 28 24 = q then reg s (o + 12) + 2 ^ 32 * regBits s (o + 8) 31 16
    else reg s (o + 4) + 2 ^ 32 * regBits s (o + 8) 15 0

/-- R354: LINK_ETHERTYPE. -/
def linkEtype (s : State) : Nat := regBits s (rLink 0) 15 0

/-- R336: the Ethernet fields of a frame of queue k to a device by port q. -/
def ethOf (s : State) (q dev k : Nat) : Eth :=
  { dst := routeMac s dev q
    src := reg s (rPort q 8) + 2 ^ 32 * reg s (rPort q 0xC)
    tag := if vlanEn s q then some (regBits s (rPort q 0) 13 2, bits (reg s (rPort q 0x10)) (3 * k + 2) (3 * k)) else none
    etype := linkEtype s }

/-- R338: the unacknowledged frames of one receiver and queue are sent again, in order; without charge. -/
def replayTx (s : State) (x : Tx) : State :=
  match routePort s x.dev x.q with
  | none => s
  | some q =>
    let s := { s with links := { s.links with sent :=
      (x.unacked.map fun f => (q, { f with eth := ethOf s q f.dst f.queue })).reverse ++ s.links.sent } }
    countEv s 0xA 3 q none x.unacked.length

/-- R339: traffic toward the receivers of a port moves to where their route now leads. -/
def reroutePort (s : State) (q : Nat) (cancel : Bool) : State :=
  let heads := (port s q).queues.flatMap fun k => k.2.map fun m => (k.1, m.1)
  let s := forEach s heads fun s kd =>
    match routePort s kd.2 kd.1 with
    | some dst => if portUp s dst then moveQueued s q kd.2 kd.1 dst else s
    | none => s
  let s := forEach s (s.links.tx.filter fun x => x.unacked != [] &&
      match routeOf s x.dev with | some r => r.1 == q || r.2 == q | none => false) replayTx
  if cancel then
    let left := (port s q).queues.flatMap fun k => k.2
    let s := modPort s q fun P => { P with queues := [], midMsg := [] }
    forEach s left fun s m => failMsg s m.1 m.2.2 .cancelled
  else s

/-- R339: receivers and queues whose traffic went to its alternate while its primary, this port, was out of use: frames
unacknowledged, or messages queued there. -/
def awayFrom (s : State) (q : Nat) : List (Nat × Nat) :=
  let alt := fun (dev : Nat) => match routeOf s dev with
    | some r => if r.1 = q ∧ r.2 ≠ q ∧ portUp s r.2 = true then some r.2 else none
    | none => none
  ((s.links.tx.filter fun x => x.unacked != [] && (alt x.dev).isSome).map fun x => (x.dev, x.q))
    ++ s.links.ports.flatMap fun e => e.2.queues.flatMap fun k =>
      (k.2.filter fun m => alt m.1 == some e.1).map fun m => (m.1, k.1)

/-- R339: traffic moves back to a primary that is up again only once nothing of its receiver and queue is outstanding. -/
def stayAlternate (s : State) (q : Nat) : State :=
  forEach s (awayFrom s q) fun s x => setTx s { txOf s x.1 x.2 with alt := true }

/-! ### The topology check and READY (R372-R374) -/

/-- R372: class a port, hold it out or disable it; what its queues held goes to other routes (R339). -/
def classify (e : Etr) (s : State) (q : Nat) : State :=
  let c := classOf s e q
  let s := { s with boot := { s.boot with portClass := tset 4 s.boot.portClass q c } }
  let s := modPort s q fun P => { P with heldOut := c == clNarrow }
  if classOff e c && (port s q).en then
    reroutePort (eventFree (modPort s q fun P => { P with en := false, st := .down, width := 0, lanes := [] }) 7 q) q false
  else s

/-- R373, R374, R55, R70, R73, R343, R382, R425: the device becomes READY; the first epoch
of updates starts (R219). -/
def becomeReady (s : State) : State :=
  let s := { s with
    boot := { s.boot with st := .ready, readyAt := s.now }
    flash := { s.flash with devno := devno s }
    faults := { s.faults with transient := [], corrected := [] }
    parts := s.parts.map fun e => (e.1, if e.2.st = .ready then seedEstimates s e.1 e.2 else e.2)
    links := { s.links with ports := s.links.ports.map fun e => (e.1, { e.2 with credit := [] }) } }
  dsbState (startEpochs s)

/-- R373: the check runs; READY is set the moment it passes and PWR_FAIL_N does not hold it. -/
def topoCheck (s : State) : State :=
  match s.boot.etr with
  | none => s
  | some e =>
    let s := forEach s (List.range (nPorts s)) (classify e)
    if s.boot.st = .bringup ∧ s.boot.stage = 4 ∧ s.boot.setupDone = true ∧ s.boot.etrWait = false then
      if topoPass s e && !pwrFail s then becomeReady s else s
    else s

/-! ### A port's state (R334) -/

/-- R334, R51: a port's state changes; LINK_STATE is raised, and a port that goes DOWN or off hands its traffic on (one
that is fenced sends what its queues hold first, R340). R373: every port change runs the topology check. -/
def setPortSt (s : State) (q : Nat) (st : PortSt) : State :=
  let was := (port s q).st
  if was = st then s
  else
    let s := if upDegraded st && !upDegraded was then stayAlternate s q else s
    let s := eventFree (modPort s q fun P => { P with st := st }) 7 q
    topoCheck (if (upDegraded was || was = .fenced) && (st = .down || st = .off) then reroutePort s q (decide (st = .off)) else s)

/-! ### Lanes (R383, R334) -/

/-- R383: a link lane is permanent-faulty: it is retired, and the port retrains on its other lanes. -/
def retireLane (s : State) (q lane : Nat) : State :=
  if (port s q).badLanes.contains lane then s
  else
    let s := modPort s q fun P => { P with badLanes := insertNat lane P.badLanes, lanes := [], width := 0 }
    setPortSt (retireFree s clsLink (q * 4 + lane)) q .down

/-- R383: an FCS failure is charged to a lane. -/
def chargeFcs (s : State) (q lane : Nat) : State :=
  let k := errKey clsLink (q * 4 + lane)
  let s := { s with faults := { s.faults with corrected := tmod 0 s.faults.corrected k (· + 1) } }
  if 1000 < tget 0 s.faults.corrected k then retireLane s q lane else s

/-! ### The sender's side (R338) -/

/-- Whether count a comes before count b. -/
def seqBefore (a b : Nat) : Bool := a != b && decide ((b + 2 ^ 32 - a) % 2 ^ 32 < 2 ^ 31)

def setStepAcks (s : State) (acks : List (Nat × Nat)) : State := { s with feat := { s.feat with acks := acks } }

/-- R218, R439: steps whose last message has been acknowledged complete; R261: so does the copy of a reuse run. -/
def stepsAcked (s : State) (msgs : List Msg) : State :=
  let ready := s.feat.acks.filter fun a => !stepOutstanding s a.1 a.2
  let s := setStepAcks s (s.feat.acks.filter fun a => !ready.contains a)
  let s := forEach s ready fun s a => stepDone s a.1 a.2
  settled (forEach s msgs fun s m => match m with | .prefixCopy o _ => pinsDone s o.h | _ => s)

/-- R338, R339: ACK_SEQ acknowledges every frame before it; traffic moves back to the primary when none is left. -/
def ackUpTo (s : State) (dev k n : Nat) : State :=
  let x := txOf s dev k
  let gone := x.unacked.takeWhile fun f => seqBefore f.seq n
  if gone.isEmpty then s
  else
    let rest := x.unacked.drop gone.length
    let s' := setTx s { x with unacked := rest, retries := 0, sentAt := s.now, lost := false, alt := x.alt && !rest.isEmpty }
    let s' := if x.alt && rest.isEmpty then
        (match routePort s dev k, routePort s' dev k with
         | some a, some b => moveQueued s' a dev k b
         | _, _ => s')
      else s'
    stepsAcked s' (gone.filterMap (·.msg))

/-- R338: a sender gives a receiver up for its alternate route: what is queued and unacknowledged goes there. -/
def toAlternate (s : State) (dev k : Nat) : State :=
  let old := routePort s dev k
  let s := setTx s { txOf s dev k with alt := true }
  let s := match old, routePort s dev k with
    | some a, some b => moveQueued s a dev k b
    | _, _ => s
  replayTx s (txOf s dev k)

/-- ACK_TIMEOUT (R338): the oldest frame is not acknowledged in time: all are replayed; after LINK_RETRY_MAX timeouts
the receiver moves to its alternate route, and after as many more it is lost. -/
def execAckTimeout (dev q t : Nat) (s : State) : Host.Outcome State Fault Refusal :=
  let s' := tick s t
  let x := txOf s' dev q
  if x.unacked = [] ∨ s'.now < x.sentAt + ackTimeoutUs s' * 1000 then .next s
  else
    let n := x.retries + 1
    let s := setTx s' { x with retries := n, sentAt := s'.now }
    if 2 * linkRetryMax s ≤ n then .next (loseReceiver s dev .linkLost false)
    else if n = linkRetryMax s then .next (toAlternate s dev q)
    else .next (replayTx s (txOf s dev q))

/-- The frames of the message that holds a sequence number: those up to and with its LAST, from its FIRST. -/
def splitMsg (seq : Nat) : List Frame → List Frame → List Frame × List Frame × List Frame
  | acc, [] => (acc.reverse, [], [])
  | acc, f :: l =>
    if f.seq = seq then
      let before := acc.dropWhile fun g => !g.last
      let mine := (acc.takeWhile fun g => !g.last).reverse
      let tail := l.takeWhile fun g => !f.last && !g.first
      (before.reverse, mine ++ f :: tail, l.drop tail.length)
    else splitMsg seq (f :: acc) l

/-- R340: a refused message leaves the window, and the frames after it take its numbers. -/
def dropRefused (s : State) (dev k seq : Nat) (st : Status) : State :=
  let x := txOf s dev k
  let r := splitMsg seq [] x.unacked
  if r.2.1.isEmpty then s
  else
    let n := r.2.1.length
    let whole := r.2.1.any (·.last)
    let later := r.2.2.map fun f => { f with seq := (f.seq + 2 ^ 32 - n) % 2 ^ 32 }
    let s := setTx s { x with unacked := r.1 ++ later, seq := (x.seq + 2 ^ 32 - n) % 2 ^ 32, retries := 0, sentAt := s.now }
    if whole then forEach s (r.2.1.filterMap (·.msg)) fun s m => failMsg s dev m st
    else
      match (routePort s dev k).bind fun q => ((tget [] (port s q).queues k).find? fun m => m.1 == dev).map fun m => (q, m) with
      | none => s
      | some (q, m) =>
        let s := modPort s q fun P => { P with
          queues := tmod [] P.queues k fun l => l.erase m
          midMsg := tset 0 P.midMsg (k * 65536 + dev) 0 }
        failMsg s dev m.2.2 st

/-- FRAME_RECEIVE_NAK (R338, R340, R335, R389): a frame is refused. -/
def execFrameReceiveNak (port : Nat) (f : Frame) (t : Nat) (s : State) : Host.Outcome State Fault Refusal :=
  let s' := tick s t
  if f.kind ≠ 3 ∨ f.dst ≠ devno s' ∨ !(Sys2Proof.Machine.port s' port).en then .next s
  else
    let s := countEv s' 0xA 4 port none 1
    let other := match routeOf s f.src with
      | some r => if r.1 = port then portUp s r.2 && r.2 != port else portUp s r.1 && r.1 != port
      | none => false
    if f.status = .internalFault then .next (loseReceiver s f.src .linkLost false)
    else if f.status = .domainOff then
      if other && !(txOf s f.src f.queue).alt then .next (toAlternate (ackUpTo s f.src f.queue f.seq) f.src f.queue)
      else .next (settled (dropRefused s f.src f.queue f.seq .cancelled))
    else .next (settled (dropRefused s f.src f.queue f.seq f.status))

/-- FRAME_RECEIVE_ACK (R338). -/
def execFrameReceiveAck (port : Nat) (f : Frame) (t : Nat) (s : State) : Host.Outcome State Fault Refusal :=
  let s' := tick s t
  if f.kind ≠ 2 ∨ f.dst ≠ devno s' ∨ !(Sys2Proof.Machine.port s' port).en then .next s
  else .next (ackUpTo s' f.src f.queue f.ackSeq)

/-! ### The receiver's side (R338, R340) -/

/-- A control frame of the transport: an ACK, or a NAK of a frame refused, on the port given. -/
def sendControl (s : State) (q dev k kind seq : Nat) (st : Status) : State :=
  let f : Frame :=
    { dst := dev, src := devno s, queue := k, part := 0, kind := kind, len := 0, seq := seq, ackSeq := (rxOf s dev k).next
      status := st, first := false, last := false, handle := none, msgType := 0, eth := ethOf s q dev 0, msg := none }
  { s with links := { s.links with sent := (q, f) :: s.links.sent } }

/-- ACK_SEND (R338, R341): an accepted frame not acknowledged by a reverse DATA frame within ACK_DELAY_NS: its ACK frame
joins Q0. -/
def execAckSend (dev q t : Nat) (s : State) : Host.Outcome State Fault Refusal :=
  let s' := tick s t
  let r := rxOf s' dev q
  match r.owed, routePort s' dev 0 with
  | some _, some p => .next (enqueue (setRx s' { r with owed := none }) p dev 0 (.ackFrame q))
  | _, _ => .next s

/-- R341: a message delivered whole. What has a command of its own waits for it; the rest is taken at once. -/
def onMessage (s : State) (src : Nat) (m : Msg) : State :=
  match m with
  | .prefillCmd o => onPrefillCmd s o
  | .prefixSlices h d => onPrefixSlices s h d
  | .prefixCopy o d => onPrefixCopy s o d
  | .genEnd h st n => onGenEnd s h st n
  | .reserve h model variant blocks grammar => onReserve (dropLost s src h) src h model blocks variant grammar
  | .reserved h table => onReserved s src h table
  | .stageRefused h _ n st => onStageRefused s h n st
  | .lookupRefused h items st => onLookupRefused s src h items st
  | .bulk _ _ _ a bytes => devWrite s a bytes
  | .telemetry => s
  | m => { s with links := { s.links with inbox := (src, m) :: s.links.inbox } }

/-- R439, R340, R372: why a new frame is refused, if it is. -/
def refusal (s : State) (q : Nat) (f : Frame) : Option Status :=
  if (port s q).st = .fenced ∨ (port s q).heldOut then some .domainOff
  else
    match f.msg with
    | some (.bulk _ _ _ a bytes) => if inWindow s a bytes.length then none else some .badDescriptor
    | _ => none

/-- FRAME_RECEIVE_DATA (R337, R338, R340, R383): every frame is refused NOT_READY before READY (R335), and
INTERNAL_FAULT in FAULTED (R389). PAUSE and priority-flow-control frames, MAC control frames of EtherType 0x8808, are counted and
discarded (R333); a frame of another EtherType than LINK_ETHERTYPE is none of the transport's (R336). -/
def execFrameReceiveData (port : Nat) (f : Frame) (fcsOk : Bool) (lane t : Nat) (s : State) :
    Host.Outcome State Fault Refusal :=
  let s' := tick s t
  if !(Sys2Proof.Machine.port s' port).en then .next s
  else if !fcsOk then .next (chargeFcs (countEv s' 0xA 2 port none 1) port lane)
  else if f.eth.etype = 0x8808 then .next (countEv s' 0xA 6 port none 1)
  else if f.eth.etype ≠ linkEtype s' then .next s'
  else if f.kind = 0 ∨ 3 < f.kind then .next (countEv s' 0xA 7 port none 1)
  else if f.kind ≠ 1 ∨ f.dst ≠ devno s' then .next s
  else
    let r := rxOf s' f.src f.queue
    if !isReady s' then
      .next (sendControl s' port f.src f.queue 3 f.seq (if s'.boot.st = .faulted then .internalFault else .notReady))
    else if f.seq ≠ r.next then
      if seqBefore f.seq r.next then .next (ackUpTo (setRx s' { r with owed := some s'.now }) f.src f.queue f.ackSeq)
      else .next (ackUpTo s' f.src f.queue f.ackSeq)
    else
      match refusal s' port f with
      | some st => .next (sendControl s' port f.src f.queue 3 f.seq st)
      | none =>
        let s := setRx s' { r with next := (r.next + 1) % 2 ^ 32, owed := some s'.now }
        let s := ackUpTo s f.src f.queue f.ackSeq
        match (if f.last then f.msg else none) with
        | some m => .next (settled (onMessage s f.src m))
        | none => .next s

/-! ### FRAME_TRANSMIT (R342, R343, R346) -/

/-- R338: an ACK frame stands in a queue as no message does: no window holds it, and no regulator or rate limit. -/
def isAck : Msg → Bool
  | .ackFrame _ => true
  | _ => false

/-- R335, R389: DATA frames are sent on a READY device; one in FAULTED sends FAILOVER and nothing else. -/
def maySend (s : State) (m : Msg) : Bool := isReady s || (decide (s.boot.st = .faulted) && m == .failover)

/-- R338, R85: the first message of a queue that may be sent and whose receiver's window is not full. -/
def headMsg (s : State) (q k : Nat) : Option (Nat × Nat × Msg) :=
  (tget [] (port s q).queues k).find? fun m =>
    isAck m.2.2 || (maySend s m.2.2 && decide ((txOf s m.1 k).unacked.length < linkWindow s))

/-- R94: link egress charges a partition's traffic; mirroring and telemetry are not charged. -/
def egressCharged (k : Nat) : Bool := k != 2 && k != 7

/-- R346, R347: the frame fits no window of its queue at the port's width. -/
def fitsNone (s : State) (q k len : Nat) : Bool :=
  gateEn s q && !fitsIn (wirePs (wireBytes s q len) (port s q).width) (longestWindow (port s q).active k)

/-- R342: whether a queue is a candidate for a frame of `len` payload bytes. -/
def candidate (s : State) (q k len : Nat) : Bool :=
  match headMsg s q k with
  | none => false
  | some (_, p, m) =>
    let len := if isAck m then 0 else len
    (!gateEn s q || gclOpen k ((port s q).active.getD (entryAt (port s q).active 0 (cyclePos s q s.now)).1 0))
      && (fitsNone s q k len || fitsIn (wirePs (wireBytes s q len) (port s q).width) (openWindow s q k))
      && (isAck m || (flowReady s q k p && (!egressCharged k || regOpen s p 3 (frameBytes s q len))))

/-- R343: the weighted queue that sends: of weight above 0 if there is one, the highest credit, then the lowest
number. -/
def pickWeighted (s : State) (q : Nat) (ks : List Nat) : Option Nat :=
  let pos := ks.filter fun k => qWeight s q k != 0
  leastBy (fun a b => decide (tget 0 (port s q).credit b < tget 0 (port s q).credit a)) (if pos.isEmpty then ks else pos)

/-- R342: the queue that sends. -/
def pickQueue (s : State) (q len : Nat) : Option Nat :=
  match [0, 1, 2].find? fun k => candidate s q k len with
  | some k => some k
  | none => pickWeighted s q (weightedQs.filter fun k => candidate s q k len)

/-- R336-R338: queue k sends the next frame of its head message. -/
def sendFrame (s : State) (q k len : Nat) (last : Bool) (m : Nat × Nat × Msg) : State :=
  let dev := m.1
  let x := txOf s dev k
  let r := rxOf s dev k
  let n := tget 0 (port s q).midMsg (k * 65536 + dev)
  let f : Frame :=
    { dst := dev, src := devno s, queue := k, part := m.2.1, kind := 1, len := len, seq := x.seq, ackSeq := r.next
      status := .ok, first := n == 0, last := last, handle := m.2.2.handle
      msgType := Config.openResult 337 m.2.2.kind, eth := ethOf s q dev k, msg := if last then some m.2.2 else none }
  let gone := fitsNone s q k len
  let s := setRx s { r with owed := none }
  let s := setTx s { x with
    seq := (x.seq + 1) % 2 ^ 32, unacked := x.unacked ++ [f], sentAt := if x.unacked = [] then s.now else x.sentAt }
  let s := modPort s q fun P => { P with
    midMsg := tset 0 P.midMsg (k * 65536 + dev) (if last then 0 else n + 1)
    queues := if last then tmod [] P.queues k fun l => l.erase m else P.queues }
  if gone then countEv s 0xA 5 q none 1
  else
    let b := wireBytes s q len
    let s := { s with links := { s.links with sent := (q, f) :: s.links.sent } }
    let s := if egressCharged k then charge s m.2.1 3 (frameBytes s q len) else s
    let s := spendCredit (spendFlow s q k m.2.1 b) q k b
    countEv (countEv s 0xA 0 q (some m.2.1) 1) 0xA 1 q (some m.2.1) len

/-- R338, R341: an ACK frame leaves its queue. -/
def sendAck (s : State) (q k : Nat) (m : Nat × Nat × Msg) (of_ : Nat) : State :=
  sendControl (modPort s q fun P => { P with queues := tmod [] P.queues k fun l => l.erase m }) q m.1 of_ 2 0 .ok

/-- FRAME_TRANSMIT (R342): at a frame boundary, first a waiting IEEE 1588 message, then the queue R342 and R343 name. -/
def execFrameTransmit (port t len : Nat) (last : Bool) (s : State) : Host.Outcome State Fault Refusal :=
  let s' := tick s t
  let P := Sys2Proof.Machine.port s' port
  if !P.en ∨ !(upDegraded P.st || P.st = .fenced) ∨ maxPayload s' < len then .next s
  else if P.ptp ≠ 0 then .next (modPort s' port fun P => { P with ptp := P.ptp - 1 })
  else
    match pickQueue s' port len with
    | none => .next s
    | some k =>
      match headMsg s' port k with
      | none => .next s
      | some m =>
        match m.2.2 with
        | .ackFrame of_ => .next (sendAck s' port k m of_)
        | _ => .next (sendFrame s' port k len last m)

end Sys2Proof.Machine
end

