-- ==== Sys2Proof/Machine/Power.lean ====
section
/-! DEFINITION. Device reset (R355), power domains (R405-R409), the array clock and its limits (R411-R414), and the
sideband inputs (R416). -/

namespace Sys2Proof.Machine

/-! ### Device reset (R355, R356) -/

/-- R355, R356: everything returns to its reset value but the part, package flash, the passage store, host memory, what
the pins and rails show, and the commands waiting. -/
def resetDevice (s : State) : State :=
  { State.reset with
    pending := s.pending
    free := s.free
    ident := s.ident
    flash := s.flash
    cell := s.cell
    host := { State.reset.host with mem := s.host.mem }
    ps := { s.ps with batches := [], rewrites := [], thr := [] }
    boot := { State.reset.boot with rails := s.boot.rails, noClock := s.boot.noClock, tripped := s.boot.tripped }
    power := { State.reset.power with refLost := s.power.refLost, pwrTarget := gradeMHz s.ident.grade }
    pins := { State.reset.pins with side := s.pins.side.map fun e => (e.1, { e.2 with count := 0 }) } }

/-- R416: PERST_N or SYS_RST_N settled active. -/
def resetPin (s : State) : Bool := (side s 2).active || (side s 3).active

/-- DEVICE_RESET (R355): a rail leaves its range, or a reset input has settled active. -/
def execDeviceReset (rail : Option Nat) (s : State) : Host.Outcome State Fault Refusal :=
  match rail with
  | some r => .next (resetDevice { s with boot := { s.boot with rails := insertNat r s.boot.rails } })
  | none => if resetPin s then .next (resetDevice s) else .next s

/-! ### The array clock (R411, R412) -/

/-- R412: the least target. On a G1 part the clock never leaves 1.40 GHz. -/
def clockTarget (s : State) : Nat :=
  let a := if (side s 0).active then 1400 else gradeMHz s.ident.grade
  let b := if s.power.thermal then 1400 else gradeMHz s.ident.grade
  min (min a b) s.power.pwrTarget

/-- R411: CK_ARR follows its target (its glide of 10 MHz per µs is timing, and left out). -/
def setClock (s : State) : State := { s with power := { s.power with ckArr := if s.boot.fw then clockTarget s else 0 } }

def tjThrottle (s : State) : Nat := regBits s rTJ_CTRL 7 0
def pwrLimit (s : State) : Nat := regBits s rPWR_LIMIT 11 0

/-- TEMPERATURE_CROSSING (R412): a target of 1.40 GHz from TJ_THROTTLE up, until every sensor reads 5 degrees below. -/
def execTemperatureCrossing (temp : Nat) (s : State) : Host.Outcome State Fault Refusal :=
  let th := if tjThrottle s ≤ temp then true else if temp + 5 ≤ tjThrottle s then false else s.power.thermal
  .next (setClock { s with power := { s.power with tj := temp % 256, tjMax := max s.power.tjMax (temp % 256), thermal := th } })

/-- R412: the power target after 1 ms at an average. -/
def nextTarget (s : State) (watts : Nat) : Nat :=
  let p := s.power.pwrTarget
  if pwrLimit s < watts then max 1400 (p - 50)
  else if watts * 100 < 95 * pwrLimit s then min (gradeMHz s.ident.grade) (p + 50)
  else p

/-- R412: sixteenths of busy time given up after 1 ms. -/
def nextDelay (s : State) (watts : Nat) : Nat :=
  let d := s.helm.delay
  if (s.power.pwrTarget = 1400 ∧ pwrLimit s < watts) ∨ tjThrottle s + 10 ≤ s.power.tj then min 16 (d + 1)
  else if watts * 100 < 95 * pwrLimit s then d - 1
  else d

/-- POWER_LIMIT_TICK (R412, R434): the 1 ms adjustment, and the count of each limit in force. -/
def execPowerLimitTick (t watts : Nat) (s : State) : Host.Outcome State Fault Refusal :=
  let s' := tick s t
  if !s'.boot.fw then .next s
  else
    let target := nextTarget s' watts
    let s := { s' with
      helm := { s'.helm with delay := nextDelay s' watts }
      power := { s'.power with pwrTarget := target, avg := watts % 4096, limiting := decide (target < gradeMHz s'.ident.grade) } }
    let s := countEv s 0xC 0 0 none (b2n (side s 0).active)
    let s := countEv s 0xC 1 0 none (b2n s.power.thermal)
    let s := countEv s 0xC 2 0 none (b2n s.power.limiting)
    .next (setClock (countEv s 0xC 3 0 none (b2n (s.helm.delay != 0))))

/-! ### Trip and reference clocks (R410, R413) -/

/-- THERMTRIP (R413): at 115 degrees C every clock stops and the device enters reset, until every rail has been removed
and restored. -/
def execThermtrip (temp : Nat) (s : State) : Host.Outcome State Fault Refusal :=
  if temp < 115 then .next s
  else .next (resetDevice { s with boot := { s.boot with tripped := true, rails := [] } })

/-- REFCLK_LOSS (R410): without REFCLK_SYS the device is in reset; without REFCLK_SERDES every port reads DOWN. -/
def execRefclkLoss (clk : Nat) (present : Bool) (t : Nat) (s : State) : Host.Outcome State Fault Refusal :=
  let s := tick s t
  let lost := if present then s.power.refLost.filter (· != clk) else insertNat clk s.power.refLost
  let s := { s with power := { s.power with refLost := lost } }
  if clk = 1 then
    let s := { s with boot := { s.boot with noClock := !present } }
    .next (if present then s else resetDevice s)
  else if clk = 2 ∧ !present then
    .next (forEach s (List.range (nPorts s)) fun s q =>
      if upDegraded (port s q).st then setPortSt (modPort s q fun P => { P with width := 0, lanes := [] }) q .down else s)
  else .next s

/-! ### Power domains (R405-R409) -/

/-- R406, R51: a domain enters a state; DOMAIN_STATE is raised but at POWERING_UP. -/
def setDom (s : State) (d : Nat) (st : DomSt) : State :=
  let s := modDom s d fun x => { x with st := st }
  if st = .poweringUp then s else eventFree s 4 d

/-- R409: the domains switched with d. -/
def domGroup (d : Nat) : List Nat := if d ≤ 14 then List.range 15 else [d]

/-- R409: the domains of I/O die i. -/
def iodDoms (i : Nat) : List Nat := (List.range 11).map fun k => 51 + 11 * i + k

/-- R409: an EN of 0 that is ignored and flagged. -/
def enRefused (s : State) (d : Nat) : Bool :=
  let k := (d - 51) % 11
  d == 95 || d == 60 || d == 61 || (43 ≤ d && d ≤ 50)
    || (51 ≤ d && d < 95 && (k == 6 || k == 7 || (k == 10 && (iodDoms ((d - 51) / 11)).any fun x => x != d && !domIs s x .off)))

/-- The logical port a domain switches. -/
def domPort (d : Nat) : Option Nat :=
  if 51 ≤ d ∧ d < 95 ∧ (d - 51) % 11 < 6 then some ((d - 51) / 11 * 6 + (d - 51) % 11) else none

/-- The I/O die whose flash group a domain is. -/
def domFlash (d : Nat) : Option Nat := if 51 ≤ d ∧ d < 95 ∧ (d - 51) % 11 = 8 then some ((d - 51) / 11) else none

/-- R407: streams whose head step waits at a unit that drains end CANCELLED. -/
def cancelHeads (s : State) (kind : Nat) : State :=
  forEach s ((tkeys s.streams).filter fun sid => (headStep s sid kind).isSome) fun s sid => failStream s sid .cancelled

/-- R222: lookups queued here complete CANCELLED, and contributions not applied are discarded, leaving STALE tables. -/
def drainFeature (s : State) : State :=
  let s := cancelHeads s 4
  let ls := s.links.inbox.filterMap fun m => match m.2 with | .lookup h _ items => some (m.1, h, items) | _ => none
  let s := { s with links := { s.links with inbox := s.links.inbox.filter fun m => match m.2 with | .lookup .. => false | _ => true } }
  let s := forEach s ls fun s x => deliver s x.1 x.2.1.part (.lookupRefused x.2.1 x.2.2 .cancelled)
  let s := forEach s s.feat.contribs dropContrib
  { s with feat := { s.feat with contribs := [] } }

/-- R245: text and packing jobs queued at the Plotter complete CANCELLED. -/
def drainPlotter (s : State) : State :=
  forEach s (s.lb.work.filter fun e => (entry s e.1).st = .front && [2, 10, 12].contains (entry s e.1).stage) fun s e =>
    failReq s e.1 .cancelled 0

/-- R332: batches not committed, and queued fetches of records on the group's dies, complete CANCELLED. -/
def drainFlash (s : State) (iod : Nat) : State :=
  let s := cancelBatches s
  let mine := fun (m : Nat × Msg) => match m.2 with
    | .fetch _ index item _ =>
      (match (setOf s index).bind fun x => dirOf x item with
       | some e => (recDies s e).any fun d => flashDom s d == 59 + 11 * iod
       | none => false)
    | _ => false
  let gone := s.links.inbox.filter mine
  let s := { s with links := { s.links with inbox := s.links.inbox.filter fun m => !mine m } }
  forEach s gone fun s m =>
    match m.2 with
    | .fetch h index item _ => sendText s m.1 h index item .cancelled [] []
    | _ => s

/-- R189, R29: search work that the drain of the last Bearing domain catches completes CANCELLED. -/
def drainBearing (s : State) : State :=
  forEach s (s.bearing.queries.filter fun q => q.st = .walking ∨ q.st = .scanning ∨ q.st = .rerank) fun s q =>
    refuseQuery s q .cancelled

/-- R206: jobs queued for a list of Sextant complete CANCELLED: steps, and merges that hold none yet. -/
def drainSextant (s : State) : State :=
  forEach (cancelHeads s 3) (waitingMerges s none) fun s w => failHandle s w.handle .cancelled

/-- R407: what a drain completes CANCELLED once no domain of the unit is on: each unit's own rule (R122, R189, R206, R222,
R245, R287, R332, R340). -/
def startDrainOf (s : State) (d : Nat) : State :=
  settled <|
  if 15 ≤ d ∧ d ≤ 22 then (if bearingUp s then s else drainBearing s)
  else if 23 ≤ d ∧ d ≤ 24 then (if sextantUp s then s else drainSextant s)
  else if 25 ≤ d ∧ d ≤ 28 then (if arcUp s then s else cancelHeads s 2)
  else if 29 ≤ d ∧ d ≤ 30 then (if plotterUp s then s else drainPlotter s)
  else if 33 ≤ d ∧ d ≤ 34 then (if featureUp s then s else drainFeature s)
  else if 35 ≤ d ∧ d ≤ 42 then (if movesUp s then s else cancelHeads s 6)
  else
    match domFlash d, domPort d with
    | some i, _ => drainFlash s i
    | none, some q => setPortSt s q .fenced
    | none, none => s

/-- R406: a domain that is ON starts to drain. -/
def drainDom (s : State) (d : Nat) : State := if domIs s d .on then startDrainOf (setDom s d .draining) d else s

/-- DOMAIN_DISABLE (R406, R409): a write of EN = 0. -/
def execDomainDisable (d t : Nat) (s : State) : Host.Outcome State Fault Refusal :=
  let s' := tick s t
  if !s'.boot.fw ∨ !fittedDom s' d then .next s
  else if enRefused s' d then .next (modDom s' d fun x => { x with refused := true })
  else .next (forEach (modDom s' d fun x => { x with en := false }) (domGroup d) drainDom)

/-- R406, R409: a domain that is OFF and may be on powers up: the array only when all 15 EN are 1. -/
def powerUp (s : State) (d : Nat) : State :=
  if domIs s d .off && (domGroup d).all fun x => (dom s x).en then setDom s d .poweringUp else s

/-- DOMAIN_ENABLE (R406, R408): a write of EN = 1; it does not stop a drain. -/
def execDomainEnable (d : Nat) (s : State) : Host.Outcome State Fault Refusal :=
  if !s.boot.fw ∨ !fittedDom s d then .next s
  else .next (forEach (modDom s d fun x => { x with en := true }) (domGroup d) powerUp)

/-- R407, R409, R206: the unit holds no work: for the array, nothing issued, to be re-executed or waiting for a swap; for Sextant, no merge holds
a list of the domain. -/
def idleDom (s : State) (d : Nat) : Bool :=
  if d ≤ 14 then s.helm.issued.isEmpty && s.helm.rerun.isEmpty && s.helm.swap.isNone
  else if d = 23 ∨ d = 24 then !s.lists.any fun l => (if l.1 < 32 then 23 else 24) == d
  else true

/-- DOMAIN_DRAIN_DONE (R406, R340): the unit holds no work: FENCED. Frames a port has not sent move to other routes, or
complete CANCELLED. -/
def execDomainDrainDone (d t : Nat) (s : State) : Host.Outcome State Fault Refusal :=
  let s' := tick s t
  if domIs s' d .draining ∧ idleDom s' d = true then
    let s := setDom s' d .fenced
    .next (match domPort d with | some q => settled (reroutePort s q true) | none => s)
  else .next s

/-- R287: with both Compass domains off no mask comes any more. -/
def endMasks (s : State) : State :=
  forEach s (s.gen.seqs.foldl (fun l q => insertNat q.o.model l) []) endBlind

/-- R407: what a unit loses when its last domain is OFF: its caches, and what Arc holds of a context (R90), whose dirty words
in the tile store are written back. -/
def loseUnit (s : State) (d : Nat) : State :=
  if d ≤ 14 then { s with array := { s.array with groups := 0, fill := false, ws := 0 } }
  else if 15 ≤ d ∧ d ≤ 22 then (if bearingUp s then s else { s with bearing := { s.bearing with lines := [] } })
  else if 25 ≤ d ∧ d ≤ 28 then (if arcUp s then s else let s := writeBackDirty s; { s with helm := { s.helm with ctx := 0, dirty := [] } })
  else if 29 ≤ d ∧ d ≤ 30 then (if plotterUp s then s else { s with vcache := [] })
  else if 31 ≤ d ∧ d ≤ 32 then
    (if compassUp s then s else endMasks { s with compass := { s.compass with cache := [], masks := [] } })
  else if 33 ≤ d ∧ d ≤ 34 then (if featureUp s then s else { s with feat := { s.feat with cache := [] } })
  else
    match domPort d with
    | some q => setPortSt (modPort s q fun P => { P with width := 0, lanes := [] }) q .off
    | none => s

/-- DOMAIN_ISOLATION_DONE (R406-R408): the switches are open: OFF; an EN of 1 written meanwhile powers it up at once. -/
def execDomainIsolationDone (d t : Nat) (s : State) : Host.Outcome State Fault Refusal :=
  let s' := tick s t
  if domIs s' d .fenced then .next (forEach (loseUnit (setDom s' d .off) d) (domGroup d) powerUp) else .next s

/-- DOMAIN_POWER_UP_DONE (R406, R408): ON; an EN of 0 written meanwhile takes effect now, with nothing to drain.
R194: merges that wait for a list of Sextant take one. -/
def execDomainPowerUpDone (d t : Nat) (s : State) : Host.Outcome State Fault Refusal :=
  let s' := tick s t
  if domIs s' d .poweringUp then
    let s := setDom s' d .on
    let s := match domPort d with
      | some q => if (port s q).st = .off then setPortSt s q .down else s
      | none => if 23 ≤ d ∧ d ≤ 24 then seatMerges s none else s
    .next (if (domGroup d).all fun x => (dom s x).en then s else drainDom s d)
  else .next s

/-! ### THROTTLE_N held active (R414) -/

/-- THROTTLE_STUCK (R414): settled active for 100 ms. -/
def execThrottleStuck (t : Nat) (s : State) : Host.Outcome State Fault Refusal :=
  let s' := tick s t
  match s'.power.throttleAt with
  | none => .next s
  | some a =>
    if a + 100000000 ≤ s'.now ∧ !s'.power.stuck then
      let s := { s' with power := { s'.power with stuck := true } }
      .next (eventFree (drawn s) 3 (draw s % 2 ^ 32))
    else .next s

end Sys2Proof.Machine
end

