-- ==== Sys2Proof/Machine/Bringup.lean ====
section
/-! DEFINITION. Bring-up: the start and its kind (R355-R359), training and memory test as they end (R361-R365), the defect
map (R366-R368), the set-up check (R370), the topology record (R371-R373), self-test (R377-R379) and the life cycle
(R380, R381, R424). -/

namespace Sys2Proof.Machine

/-! ### The start (R355-R359) -/

/-- R358: an image whose signature verifies and whose security version is high enough. -/
def imageOk (s : State) (i : Image) : Bool := i.signed && decide (s.ident.minSec ≤ i.sec)

/-- R358: the image the boot ROM runs: true for B. -/
def bootImage (s : State) : Option Bool :=
  match imageOk s s.flash.imgA, imageOk s s.flash.imgB with
  | true, true => some (decide (s.flash.imgA.sec < s.flash.imgB.sec))
  | true, false => some false
  | false, true => some true
  | false, false => none

/-- R357: every condition of a warm start. -/
def warmStart (s : State) (sameParts : Bool) : Bool :=
  s.flash.warmEn && !s.flash.forceCold && s.flash.saved && sameParts && decide (s.flash.warmRuns < s.flash.coldEvery)
    && !s.flash.lastFaulted

/-- R324: block sets of which pages have been programmed, but for those retired: they are erased before they are used again. -/
def programmedSets (s : State) : List (Nat × Nat) :=
  s.ps.spare.foldl (fun l r => if l.contains (r.die, r.set) || s.ps.bad.contains (r.die, r.set) then l else l ++ [(r.die, r.set)]) []

/-- R367, R381: a passage store with nothing in it; wear and bad block sets stay, and what was programmed is to be erased. -/
def emptyStore (s : State) : State :=
  { s with ps := { s.ps with
      sets := [], batches := [], map := [], logs := [], open_ := [], rewrites := [], closes := [], toErase := programmedSets s
      seq := 0, sinceCkpt := 0, dead := 0 } }

/-- R381: a pending transition applies; RETURNED is entered with the passage store and the saved settings erased. -/
def applyLc (s : State) : State :=
  match s.flash.lcPending with
  | none => s
  | some l =>
    let s := { s with flash := { s.flash with lc := l, lcPending := none } }
    if l = 4 then
      let s := emptyStore s
      { s with flash := { s.flash with saved := false } }
    else s

/-- R380: the life-cycle states in which a start runs more than the boot ROM. -/
def fullStart (lc : Nat) : Bool := lc != 0 && lc != 5

/-- R361, R406: the firmware runs: stage 1; every fitted domain powers up. -/
def runFirmware (s : State) (imageB warm : Bool) : State :=
  let s := { s with
    boot := { s.boot with fw := true, imageB := imageB, warm := warm, stage := 1 }
    faults := { s.faults with strike := s.now }
    host := { s.host with hbLastOk := s.now } }
  setClock (forEach s ((List.range 96).filter (fittedDom s)) fun s d => setDom s d .poweringUp)

/-- R413: the rails, 0 to 8 in the order of R402. -/
def allRailsOut (s : State) : Bool := (List.range 9).all fun r => s.boot.rails.contains r

/-- DEVICE_START (R355, R357, R358): no reset condition holds. -/
def execDeviceStart (t : Nat) (sameParts : Bool) (s : State) : Host.Outcome State Fault Refusal :=
  let s' := tick s t
  if s'.boot.st ≠ .reset ∨ s'.boot.noClock = true ∨ resetPin s' = true ∨ (s'.boot.tripped && !allRailsOut s') = true then
    .next s
  else
    let s' := applyLc s'
    let warm := warmStart s' sameParts
    let s := { s' with
      flash := { s'.flash with
        startCount := (s'.flash.startCount + 1) % 2 ^ 32
        warmRuns := if warm then s'.flash.warmRuns + 1 else 0
        forceCold := s'.flash.forceCold && warm, lastFaulted := false }
      boot := { s'.boot with st := .bringup, rails := [], tripped := false } }
    if !fullStart s.flash.lc then .next s
    else
      match bootImage s with
      | none => .next (enterFaulted s 1 0)
      | some b => .next (runFirmware s b warm)

/-- CONFIGURATION_READY (R359): the boot ROM has loaded configuration space. -/
def execConfigurationReady (s : State) : Host.Outcome State Fault Refusal :=
  if s.boot.st = .reset then .next s else .next { s with host := { s.host with cfgReady := true } }

/-- R55: what makes the DSB take effect writes it. -/
def dsbHook (was : Bool) (s : State) : State := if was then s else dsbStart s

/-- CONFIGURATION_REQUEST (R359, R55): answered with retry status before configuration-ready. -/
def execConfigurationRequest (busMaster : Option Bool) (s : State) : Host.Outcome State Fault Refusal :=
  if !s.host.cfgReady then .next { s with host := { s.host with lastRetry := true } }
  else
    .next (dsbHook (dsbOn s) { s with
      host := { s.host with lastRetry := false, busMaster := busMaster.getD s.host.busMaster } })

/-! ### Logic BIST (R378, R379) -/

def inStage (s : State) (n : Nat) : Bool := s.boot.st = .bringup && s.boot.fw && s.boot.stage == n

/-- R376: the outcome of a run. -/
def bistResult (s : State) (failed : List Nat) : State :=
  { s with boot := { s.boot with bistFailed := failed, bistFail := failed != [], bistBusy := false, bistRun := [] } }

/-- LOGIC_BIST (R378, R379): a run ends: the host's, whose domains stay off, without what they held (R407); or that of a cold start, after which a
failing link port is held off and any other failing domain is fatal. -/
def execLogicBist (failed : List Nat) (s : State) : Host.Outcome State Fault Refusal :=
  if s.boot.bistBusy then
    let run := s.boot.bistRun
    let s := bistResult s (run.filter failed.contains)
    .next (forEach s run fun s d => if domIs s d .off then s else loseUnit (setDom s d .off) d)
  else if !inStage s 1 ∨ s.boot.warm = true ∨ s.boot.bistDone = true then .next s
  else
    let s := { s with boot := { s.boot with bistDone := true } }
    let failed := (List.range 96).filter fun d => failed.contains d && fittedDom s d
    let s := bistResult s failed
    match failed.find? fun d => (domPort d).isNone with
    | some d => .next (enterFaulted s 2 d)
    | none => .next { s with boot := { s.boot with heldPorts := failed.filterMap domPort } }

/-- R376: the domains set in BIST_MASK. -/
def bistMask (s : State) : List Nat :=
  (List.range 96).filter fun d => bit (reg s (rBring (0x108 + 4 * (d / 32)))) (d % 32) && fittedDom s d

/-- R379: whether the host may start BIST. -/
def bistOpen (s : State) : Bool := s.flash.lc == 1 || s.flash.lc == 4

/-- BIST_START (R379, R409): a write of START: each selected domain drains first, with those switched with it. -/
def execBistStart (v : W32) (s : State) : Host.Outcome State Fault Refusal :=
  if !s.boot.fw ∨ !bistOpen s ∨ !bit v.toNat 0 ∨ s.boot.bistBusy = true then .next s
  else
    let ds := bistMask s
    let s := { s with boot := { s.boot with bistBusy := true, bistRun := ds } }
    .next (forEach (forEach s ds fun s d => modDom s d fun x => { x with en := false }) (ds.flatMap domGroup) drainDom)

/-! ### Training and memory test (R361-R364) -/

def bringupStage (s : State) (n : Nat) : State := dsbState { s with boot := { s.boot with stage := n } }

/-- R312: the dies on an ONFI channel. -/
def diesOn (s : State) (c : Nat) : List Nat :=
  ((dieList s).zipIdx.filter fun e => e.1 == c).map (·.2)

/-- R311: a target within the limits. -/
def targetOk (x : FlashTarget) : Bool :=
  x.pageBytes == 16384 && decide (2048 ≤ x.spareBytes) && inRange 1 4 x.planes && inRange 512 4096 x.pages
    && inRange 1 2048 x.gbit && x.temp.isSome

/-- R311: the geometry that all targets share: planes, pages per block and capacity. -/
def flashGeometry (x : FlashTarget) : Nat × Nat × Nat := (x.planes, x.pages, x.gbit)

/-- R310, R311: the targets of a channel that are used: at most 8, within the limits, of one geometry, and of at most 1 TiB
(8,192 Gb) together. R312 knows one number of pages to a block set, so every channel takes the geometry of the first target
used (DESIGN CHOICE, assumption log 88). -/
def usedTargets (g : Option (Nat × Nat × Nat)) (l : List FlashTarget) : List FlashTarget × List Nat :=
  let r := l.zipIdx.foldl (fun (a : List FlashTarget × List Nat) x =>
    let g := match g, a.1 with | some g, _ => g | none, y :: _ => flashGeometry y | none, [] => flashGeometry x.1
    if targetOk x.1 && flashGeometry x.1 == g && decide (a.1.length < 8) && decide (sumN (a.1.map (·.gbit)) + x.1.gbit ≤ 8192) then
      (a.1 ++ [x.1], a.2)
    else (a.1, a.2 ++ [x.2])) ([], [])
  r

/-- The targets used and the numbers of those that are not, channel by channel, in ascending order. -/
def allTargets : Option (Nat × Nat × Nat) → List (List FlashTarget) → List (List FlashTarget × List Nat)
  | _, [] => []
  | g, c :: cs =>
    let u := usedTargets g c
    u :: allTargets (match g, u.1 with | some g, _ => some g | none, x :: _ => some (flashGeometry x) | none, [] => none) cs

/-- R310: the rate of a channel: the highest of the four that every target on it reaches; 0 where none does. -/
def flashRate (l : List FlashTarget) : Nat :=
  if l.isEmpty then 0 else ([3600, 3200, 2400, 1600].find? fun r => l.all fun x => x.rates.contains r).getD 0

/-- A set-up register that no one has written takes a value the K4 finds (R428). -/
def setFound (s : State) (off v : Nat) : State := if (tget none s.bar.regs off).isSome then s else setReg s off v

/-- R310-R312, R328, R428: what training finds on the flash channels. -/
def foundFlash (s : State) (chans : List (List FlashTarget)) : State :=
  let us := allTargets none (chans.take (nFlash s))
  let s := { s with ps := { s.ps with
    chans := us.zipIdx.foldl (fun t c => tset (0, 0) t c.2 (flashRate c.1.1, c.1.1.length)) []
    rejected := us.zipIdx.flatMap fun c => c.1.2.map fun i => (c.2, i) } }
  match us.findSome? (·.1.head?) with
  | none => s
  | some x =>
    let pb := x.planes * x.pages
    let s := { s with ps := { s.ps with
      pb := pb, perDie := x.gbit * 2 ^ 27 / (pb * 16384), wordLine := max 1 x.wordLine, defaults := x.thresholds } }
    setFound (setFound s (rPs 0x14) x.cycles) (rPs 0x18) (x.temp.getD 0)

/-- R292: an I/O die's board memory runs at the highest rate all its channels reach; MEM_STATUS has room for one rate, and
shows the lowest (DESIGN CHOICE, assumption log 88). -/
def foundBoard (s : State) (capacity rates : List Nat) : State :=
  let dieRate := fun d => ((List.range 8).map fun j => rates.getD (8 * d + j) 0).filter (· != 0) |>.min?.getD 0
  let rs := (List.range s.ident.iods).map dieRate
  { s with tiers := { s.tiers with
      boardCaps := capacity, dieRates := rs, boardRate := (rs.filter (· != 0)).min?.getD 0 } }

/-- INTERFACE_TRAINING (R361, R362): HBM sites that did not train; of each board channel the capacity in GiB and the rate, 0
where it did not train; of each flash channel the targets that answer. What did not train is failed into stage 3. Training
follows the logic BIST of a cold start (R360). -/
def execInterfaceTraining (hbm capacity rates : List Nat) (chans : List (List FlashTarget)) (t : Nat) (s : State) :
    Host.Outcome State Fault Refusal :=
  let s' := tick s t
  if !inStage s' 1 ∨ (s'.boot.warm || s'.boot.bistDone) = false then .next s
  else
    let s := foundFlash (foundBoard s' capacity rates) chans
    let fails := (hbm.flatMap fun h => (List.range 32).map fun k => (clsHbm, 32 * h + k))
      ++ ((List.range (nChan s 1)).filter fun c => rates.getD c 0 == 0).map (fun c => (clsBoard, c))
      ++ ((List.range (nFlash s)).filter fun c => (tget (0, 0) s.ps.chans c).1 == 0).flatMap fun c =>
        (diesOn s c).map fun d => (clsDie, d)
    .next (bringupStage { s with flash := { s.flash with saved := true }, boot := { s.boot with fails := fails } } 2)

/-- R364, R365: a unit tested fails with any failing unit of its own, or more than a limit of correctable differences. -/
def testFails (limit : Nat) (r : Nat × Bool × Nat) : Bool := r.2.1 || decide (limit < r.2.2)

def mtCorrMax (s : State) : Nat := bits s.flash.mtParams 31 16

/-- MEMORY_TEST (R363-R365): of each channel and bank in which a difference was found: its number, whether a unit differed by
more than its code corrects, and how many differed by less; the same of the Logbook. Every unit is left zero. -/
def execMemoryTest (hbm board banks : List (Nat × Bool × Nat)) (logbook : Bool × Nat) (s : State) :
    Host.Outcome State Fault Refusal :=
  if !inStage s 2 then .next s
  else
    let bad := fun (cls limit : Nat) (l : List (Nat × Bool × Nat)) => (l.filter (testFails limit)).map fun r => (cls, r.1)
    let fails := bad clsHbm (mtCorrMax s) hbm ++ bad clsBoard (mtCorrMax s) board ++ bad clsBank 16 banks
      ++ bad clsLogbook 16 [(0, logbook)]
    .next (bringupStage { s with
      mem := [], tiers := { s.tiers with poison := [] }, boot := { s.boot with fails := s.boot.fails ++ fails } } 3)

/-! ### The defect map (R366, R367, R324) -/

/-- R301, R367: a channel failed at bring-up holds no data: its units stand in spare areas from the start. -/
def leaveInterleave (s : State) (tier ch : Nat) : State :=
  let s := assign s tier ch
  { s with tiers := { s.tiers with retired := s.tiers.retired ++ [(tier, ch)] } }

/-- R366, R334: one entry of the three sources: its spare, or FAULTED past it. -/
def addDefect (s : State) (x : Nat × Nat) : State :=
  let cls := x.1
  let idx := x.2
  if s.boot.st = .faulted ∨ (retiredOf s cls).contains idx = true then s
  else if cls = clsLink then modPort s (idx / 4) fun P => { P with badLanes := insertNat (idx % 4) P.badLanes }
  else if retireLimit s cls ≤ ((retiredOf s cls).filter fun i => retireGroup cls i == retireGroup cls idx).length then
    enterFaulted s cls idx
  else if cls = clsHbm then leaveInterleave s 0 idx
  else if cls = clsBoard then leaveInterleave s 1 idx
  else if cls = clsBank then retireBank s idx
  else if cls = clsLine then
    (if idx < 66 then { s with array := { s.array with rowSpare := some idx } }
     else { s with array := { s.array with colSpare := some idx } })
  else if cls = clsLane then { s with bearing := { s.bearing with retired := s.bearing.retired ++ [idx] } }
  else if cls = clsDie then (dropDie s idx).1
  else s

/-- R366: failures of stages 1 and 2 that neither map nor log names, once each. -/
def newDefects (old fails : List (Nat × Nat)) : List (Nat × Nat) :=
  fails.foldl (fun l x => if old.contains x || l.contains x then l else l ++ [x]) []

/-- R324: a block set that holds a current page. -/
def setCurrent (s : State) (die set : Nat) : Bool :=
  (s.ps.map.any fun e => e.2 == some (die, set))
    || (s.ps.logs.any fun e => match e.2 with | some x => x.1 == die && x.2.1 == set | none => false)

/-- R324: open block sets are open no more; those with no current page are erased, and writing goes on in fresh ones. -/
def closeOpen (s : State) : State :=
  let gone := (s.ps.open_.filter fun o => !setCurrent s o.die o.set).map fun o => (o.die, o.set)
  { s with ps := { s.ps with
      open_ := [], toErase := s.ps.toErase ++ gone.filter fun x => !s.ps.toErase.contains x
      sets := s.ps.sets.map fun x => { x with append := (2 ^ 40, 0) } } }

/-- R316, R331: entries of a directory page that lay on a die now lost are gone. -/
def loseDirPages (s : State) : State :=
  let lost := fun (x : PassageSet) (i : Nat) => match tget none x.dirPages (i / 2048) with
    | some lpn => s.ps.deadDies.contains (pageDie s lpn)
    | none => false
  { s with ps := { s.ps with sets := s.ps.sets.map fun x => { x with
      dir := x.dir.filter fun e => !lost x e.1, recs := x.recs.filter fun e => !lost x e.1 } } }

/-- R328, R367: the threshold table takes the defaults of the die, where the host has written nothing. -/
def loadDefaults (s : State) : State :=
  forEach s ((s.ps.defaults.take 256).zipIdx) fun s x => setFound s (rPs (0x1000 + 4 * x.2)) x.1

/-- R370, R373: stage 4 begins. -/
def beginStage4 (s : State) : State :=
  bringupStage { s with boot := { s.boot with stage4At := some s.now } } 4

/-! ### The set-up check (R370) -/

/-- The rules of R370 in order: whether each holds, and its first register (assumption log 45). BOARD_DATA_BYTES is known
from stage 3. -/
def setupRules (s : State) : List (Bool × Nat) :=
  let quota := sumN (allParts.map (lbQuota s)) + mirrorQuota s
  [(decide (quota ≤ 262144), rPart 0 0x130)]
    ++ allParts.map (fun p => (decide (pfMin s p ≤ pfMax s p) && decide (pfMax s p ≤ 64), rPart p 0x1A0))
    ++ allParts.map (fun p => (wpRangeOk s p, rPart p 0x200))
    ++ [(decide (hbmTaken s ≤ hbmBytes s) && (s.tiers.boardCaps.isEmpty || decide (boardTaken s ≤ boardBytes s)), rMem 0x44)]
    ++ [(decide (1 ≤ regBits s (rMem 0x10) 6 0) && decide (regBits s (rMem 0x10) 6 0 ≤ 64), rMem 0x10)]
    ++ (List.range (nPorts s)).map (fun q => (gclOk s q (port s q).active && gclOk s q (pendList (port s q)), rPort q 0xC00))
    ++ [(!twinEn s || (twinDev s != devno s && twinDev s != 0xFFFF && twinPort0 s != twinPort1 s
          && decide (twinPort0 s < nPorts s) && decide (twinPort1 s < nPorts s)), rTWIN_CTRL)]

/-- R370: a set-up is refused: the register named, SETUP_DONE cleared. -/
def refuseSetup (s : State) (at_ : Nat) : State :=
  { s with boot := { s.boot with refused := true, refusedAt := at_, setupDone := false, etrWait := false, etr := none } }

/-- R370, R371: the rules are checked; when all hold, the ETR is read once. -/
def checkSetup (s : State) : State :=
  match (setupRules s).find? fun r => !r.1 with
  | some r => refuseSetup s r.2
  | none => { s with boot := { s.boot with setupDone := true, etrWait := true } }

/-- R370, R373: stage 4 begins with SETUP_DONE set before: the rules are checked with BOARD_DATA_BYTES known. -/
def startChecks (s : State) : State :=
  match (setupRules s).find? fun r => !r.1 with
  | some r => refuseSetup s r.2
  | none => topoCheck s

/-- DEFECT_MAP_BUILD (R366-R368, R324): stage 3 ends. -/
def execDefectMapBuild (t : Nat) (mapOk : Bool) (s : State) : Host.Outcome State Fault Refusal :=
  let s' := tick s t
  if !inStage s' 3 ∨ s'.boot.mapped = true then .next s
  else
    let old := s'.ident.fused ++ s'.flash.grown
    let fresh := newDefects old s'.boot.fails
    let s := forEach s' (old ++ fresh) addDefect
    let s := { s with flash := { s.flash with grown := s.flash.grown ++ fresh } }
    if s.boot.st = .faulted then .next s
    else
      let s := if mapOk then loseDirPages (closeOpen s)
        else let s := emptyStore s
             { s with boot := { s.boot with mapNew := true } }
      let s := loadDefaults { s with boot := { s.boot with mapped := true } }
      .next (if s.boot.setupDone then startChecks (beginStage4 s) else s)

/-- SETUP_DONE (R370): a write of 1 before READY. -/
def execSetupDone (t : Nat) (s : State) : Host.Outcome State Fault Refusal :=
  let s' := tick s t
  if !s'.boot.fw ∨ s'.boot.st ≠ .bringup then .next s
  else
    let s := { s' with
      boot := { s'.boot with refused := false }
      links := { s'.links with ports := s'.links.ports.map fun e =>
        (e.1, { e.2 with en := bit (reg s' (rPort e.1 0)) 0 }) } }
    let s := checkSetup s
    .next (if s.boot.setupDone && s.boot.mapped && s.boot.stage4At.isNone then beginStage4 s else s)

/-- ETR_READ (R371, R373): the record is refused as R370 says, or the check runs on it. A read that fails is taken as a
record whose CRC fails. -/
def execEtrRead (rec : HostRead) (t : Nat) (s : State) : Host.Outcome State Fault Refusal :=
  let s' := tick s t
  if !s'.boot.etrWait then .next s
  else
    match rec with
    | none => .next (refuseSetup s' rTOPO_LO)
    | some b =>
      if etrOk s' b then .next (topoCheck { s' with boot := { s'.boot with etr := some (parseEtr b), etrWait := false } })
      else .next (refuseSetup s' rTOPO_LO)

/-- TOPO_WAIT_EXPIRY (R373): TOPO_WAIT_S in stage 4 without a pass. -/
def execTopoWaitExpiry (t : Nat) (s : State) : Host.Outcome State Fault Refusal :=
  let s' := tick s t
  match s'.boot.etr, s'.boot.stage4At with
  | some e, some a =>
    if inStage s' 4 ∧ a + e.waitS * 1000000000 ≤ s'.now then .next { s' with boot := { s'.boot with topoFail := true } }
    else .next s
  | _, _ => .next s

/-! ### The life cycle (R381, R424) -/

/-- R381: a transition runs to the next state of the table, or to SCRAPPED. -/
def lcAllowed (now target : Nat) : Bool := decide (target ≤ 5) && decide (now < target) && (target == now + 1 || target == 5)

/-- LC_REQUEST (R381, R424): accepted, it pends until the next start. RETURNED needs its authorisation. -/
def execLcRequest (v : W32) (auth : Bool) (s : State) : Host.Outcome State Fault Refusal :=
  let target := v.toNat % 8
  if !barOpen s 0x10000 then .next s
  else if lcAllowed s.flash.lc target && (target != 4 || auth) then
    .next { s with flash := { s.flash with lcPending := some target }, boot := { s.boot with lcRefused := false } }
  else .next { s with boot := { s.boot with lcRefused := true } }

end Sys2Proof.Machine
end

