-- ==== Sys2Proof/Machine/Ports.lean ====
section
/-! DEFINITION. Link ports as they train and are enabled (R334, R335, R361, R383), and network time (R350-R352, R417). -/

namespace Sys2Proof.Machine

/-! ### Writing set-up registers (R370, R422) -/

/-- R370: a write to an S field before READY clears SETUP_DONE. -/
def clearSetup (s : State) : State := if isReady s then s else { s with boot := { s.boot with setupDone := false } }

/-! ### Enabling a port (R335, R354, R361) -/

/-- The S bits of PORT_CTRL: VLAN_EN, VLAN_ID, GATE_EN. -/
def portSetup (v : Nat) : Nat := bits v 14 1

/-- R422: VLAN_ID is 0 to 4,094. -/
def vlanIdOk (v : Nat) : Bool := decide (bits v 13 2 ≤ 4094)

/-- R354, R422: the S bits of PORT_CTRL take a write before READY; one that changes nothing in them is not counted
(assumption log 46). -/
def writePortSetup (s : State) (q v : Nat) : State :=
  let off := rPort q 0
  let old := reg s off
  if portSetup v = portSetup old then s
  else if isReady s then ignoreWrite s off
  else if vlanIdOk v then clearSetup (setReg s off (2 * portSetup v + old % 2))
  else clearSetup (ignoreWrite (setReg s off (setBits (2 * portSetup v + old % 2) 13 2 (bits old 13 2))) off)

/-- PORT_ENABLE (R361, R429): a write to PORT_CTRL. An enabled port trains; a disabled one has receiver and transmitter
off and reads DOWN. -/
def execPortEnable (port : Nat) (v : W32) (t : Nat) (s : State) : Host.Outcome State Fault Refusal :=
  let s' := tick s t
  if !barOpen s' 0x400000 || decide (nPorts s' ≤ port) then .next s
  else
    let s := writePortSetup s' port v.toNat
    let off := rPort port 0
    let on := bit v.toNat 0
    let s := setReg s off (setBits (reg s off) 0 0 (b2n on))
    if on then .next (modPort s port fun P => { P with en := true })
    else
      let s := modPort s port fun P => { P with en := false, partner := none, width := 0, lanes := [] }
      .next (settled (if upDegraded (Sys2Proof.Machine.port s port).st then setPortSt s port .down else topoCheck s))

/-! ### Training (R334, R335, R375) -/

/-- R335, R338: the partner's exchange; a new START_COUNT shows a restart, and what is in flight to it fails. -/
def exchange (s : State) (q : Nat) (r : Training) : State :=
  let known := s.links.ports.any fun e => match e.2.partner with | some (d, _, c) => d == r.dev && c != r.startCount | none => false
  let s := if known then loseReceiver s r.dev .linkLost true else s
  let s := { s with links := { s.links with ports := s.links.ports.map fun e => match e.2.partner with
    | some (d, p, _) => if d = r.dev then (e.1, { e.2 with partner := some (d, p, r.startCount) }) else e
    | none => e } }
  modPort s q fun P => { P with partner := some (r.dev, r.port, r.startCount) }

/-- R333, R334: the widths training reaches: four lanes, either pair, or one, on lanes not retired. -/
def trainOk (P : Port) (r : Training) : Bool :=
  r.lanes.length == r.width && r.lanes.all (fun l => decide (l < 4) && !P.badLanes.contains l) && rising r.lanes
    && (r.width == 4 || r.width == 1 || (r.width == 2 && (r.lanes == [0, 1] || r.lanes == [2, 3])))

/-- TRAINING_ATTEMPT (R334): an attempt ends. -/
def execTrainingAttempt (port t : Nat) (r : Training) (s : State) : Host.Outcome State Fault Refusal :=
  let s' := tick s t
  let P := Sys2Proof.Machine.port s' port
  if !P.en ∨ nPorts s' ≤ port ∨ !domIs s' (portDom port) .on ∨ s'.boot.heldPorts.contains port = true
      ∨ s'.power.refLost.contains 2 = true then .next s
  else if r.width = 0 then
    .next (settled (setPortSt (modPort s' port fun P => { P with width := 0, lanes := [] }) port .down))
  else if !trainOk P r then .next s
  else
    let s := exchange s' port r
    let s := modPort s port fun P => { P with width := r.width, lanes := r.lanes }
    let s := setPortSt s port (if r.width = 4 then .up else .degraded)
    .next (settled (topoCheck s))

/-- LANE_LOCK_LOSS (R383, R334): the port retrains; a lane that loses lock a third time in an hour is retired. -/
def execLaneLockLoss (port lane t : Nat) (s : State) : Host.Outcome State Fault Refusal :=
  let s' := tick s t
  if !upDegraded (Sys2Proof.Machine.port s' port).st ∨ !(Sys2Proof.Machine.port s' port).lanes.contains lane then .next s
  else
    let k := errKey clsLink (port * 4 + lane)
    let s := { s' with faults := { s'.faults with transient := tmod 0 s'.faults.transient k (· + 1) } }
    let s := if 2 < tget 0 s.faults.transient k then retireLane s port lane else s
    .next (settled (setPortSt (modPort s port fun P => { P with width := 0, lanes := [] }) port .down))

/-! ### Network time (R350-R352) -/

def ntStepMax (s : State) : Nat := regBits s (rLink 0x10) 19 0
def ntHoldoverNs (s : State) : Nat := regBits s (rLink 0x14) 13 0 * 1000000

/-- R352, R373: NT_STATUS changes; before READY the topology check runs again. -/
def setNtStatus (s : State) (v : Nat) : State :=
  if s.nt.status = v then s else topoCheck { s with nt := { s.nt with status := v } }

/-- R351: a measured offset: before READY the time may step; after it only the frequency changes, within 100 ppm, and an
offset above NT_STEP_MAX_NS is flagged and counted. How far the servo turns is left free. -/
def servo (s : State) (q : Nat) (offset : Int) : State :=
  if !isReady s then { s with now := ((s.now : Int) - offset).toNat }
  else
    let s := drawn { s with nt := { s.nt with freq := ((draw s % 200001 : Nat) : Int) - 100000 } }
    if ntStepMax s < offset.natAbs then
      countEv { s with nt := { s.nt with stepFlag := true } } 0xA 10 q none 1
    else s

/-- PTP_MESSAGE (R350, R351): from the master's port; a Sync locks the base. -/
def execPtpMessage (port t : Nat) (sync : Bool) (offset : Int) (s : State) : Host.Outcome State Fault Refusal :=
  let s' := tick s t
  let P := Sys2Proof.Machine.port s' port
  if !P.en ∨ !upDegraded P.st then .next s
  else
    let s := servo s' port offset
    if sync then
      .next (setNtStatus { s with nt := { s.nt with lastSync := s.now, port := some port } } 1)
    else .next s

/-- HOLDOVER_ENTRY (R352): three sync intervals with no Sync. -/
def execHoldoverEntry (t : Nat) (s : State) : Host.Outcome State Fault Refusal :=
  let s' := tick s t
  if s'.nt.status = 1 ∧ s'.nt.lastSync + 3 * syncNs s' ≤ s'.now then
    .next (setNtStatus { s' with nt := { s'.nt with holdAt := s'.now } } 2)
  else .next s

/-- FREE_RUN_ENTRY (R352): after NT_HOLDOVER_MS; the base runs from REFCLK_SYS. -/
def execFreeRunEntry (t : Nat) (s : State) : Host.Outcome State Fault Refusal :=
  let s' := tick s t
  if s'.nt.status = 2 ∧ s'.nt.holdAt + ntHoldoverNs s' ≤ s'.now then
    .next (setNtStatus { s' with nt := { s'.nt with freq := 0, port := none } } 3)
  else .next s

/-- SYNC_INTERVAL (R350, R342): a Sync and its follow-up wait on every enabled port but the one toward the master. -/
def execSyncInterval (t : Nat) (s : State) : Host.Outcome State Fault Refusal :=
  let s := tick s t
  .next { s with links := { s.links with ports := s.links.ports.map fun e =>
    if (e.2.en && upDegraded e.2.st && s.nt.port != some e.1) = true then (e.1, { e.2 with ptp := e.2.ptp + 2 }) else e } }

/-! ### One pulse per second (R350, R417) -/

/-- R420: a pin as its reset row gives it. -/
def Gpio.start (k : Nat) : Gpio := ⟨if k < 2 then 1 else 0, 2, false, false, none, false⟩

def gpio (s : State) (k : Nat) : Gpio := (tget none s.pins.gpio k).getD (Gpio.start k)

def setGpio (s : State) (k : Nat) (g : Gpio) : State :=
  { s with pins := { s.pins with gpio := tset none s.pins.gpio k (if g = Gpio.start k then none else some g) } }

/-- R417: the lowest-numbered pin that selects PPS_IN is the input. -/
def ppsPin (s : State) : Option Nat := (List.range 8).find? fun k => (gpio s k).func == 3

def gmSeconds (s : State) : Nat := reg s (rLink 0x2C) * 2 ^ 32 + reg s (rLink 0x28)

/-- PPS_IN_EDGE (R350, R417, R418): the grandmaster's input; a pulse inside a function switch is lost. Before READY the
first edge sets the time from GM_SECONDS, and later ones step it to the nearest second (assumption log 47). -/
def execPpsInEdge (pin t : Nat) (s : State) : Host.Outcome State Fault Refusal :=
  let s' := tick s t
  if ppsPin s' ≠ some pin then .next s
  else if (gpio s' pin).pend.isSome then .next { s' with pins := { s'.pins with ppsMissed := s'.pins.ppsMissed + 1 } }
  else
    let near := (s'.now + 500000000) / 1000000000 * 1000000000
    let s := if isReady s' then servo s' 0 ((s'.now : Int) - (near : Int))
      else { s' with now := if s'.nt.status = 0 then gmSeconds s' * 1000000000 else near }
    .next (setNtStatus { s with nt := { s.nt with lastSync := s.now, ppsAt := s.now } } 1)

/-- PPS_OUT (R417): a 100 ms high pulse from each whole second, on every pin that selects it. -/
def execPpsOut (t : Nat) (s : State) : Host.Outcome State Fault Refusal :=
  let s := tick s t
  let out := (List.range 8).any fun k => (gpio s k).func == 4 && (gpio s k).pend.isNone
  .next { s with pins := { s.pins with pps := out && decide (s.now % 1000000000 < 100000000) } }

end Sys2Proof.Machine
end

