-- ==== Sys2Proof/Machine/Registers.lean ====
section
/-! DEFINITION. The host's other accesses to BAR0 (R8-R10, R422): writes of set-up registers, reads that capture or clear,
event counters (R431-R433); the sideband inputs and pin functions (R414, R416, R418); MCTP and JTAG (R374, R380). -/

namespace Sys2Proof.Machine

/-! ### Event counters (R432, R433) -/

/-- COUNTER_SELECT (R432): the counter and OVF start at 0 under the new selection; its shadow stays. -/
def execCounterSelect (i : Nat) (v : W32) (s : State) : Host.Outcome State Fault Refusal :=
  if !barOpen s 0x600000 || decide (256 ≤ i) then .next s
  else
    .next { s with cnt := { s.cnt with
      cnt := tmod Counter.reset s.cnt.cnt i fun c => { c with sel := v &&& 0x3FFFFFFF, val := 0, ovf := false } } }

/-- R433: all counters into their shadows; SNAP_SEQ rises. -/
def snapshot (s : State) : State :=
  { s with cnt := { s.cnt with
      cnt := s.cnt.cnt.map fun e => (e.1, { e.2 with shadow := e.2.val, shOvf := e.2.ovf })
      seq := (s.cnt.seq + 1) % 2 ^ 32 } }

def rSNAP : Nat := rCnt 0xC00
def snapPeriodNs (s : State) : Nat := regBits s rSNAP 23 8 * 1000
def snapDue (s : State) : Bool := snapPeriodNs s != 0 && decide (s.cnt.last + snapPeriodNs s ≤ s.now)

/-- R431: a write of SNAP_CTRL keeps SNAP_PERIOD_US; a new period starts now. -/
def writeSnapCtrl (s : State) (v : Nat) : State :=
  let old := regBits s rSNAP 23 8
  let s := setReg s rSNAP (bits v 23 8 * 256)
  if bits v 23 8 = old then s else { s with cnt := { s.cnt with last := s.now } }

/-- SNAP (R433): a write to SNAP_CTRL with SNAP set; one that falls together with the periodic one yields one snapshot. -/
def execSnap (v : W32) (s : State) : Host.Outcome State Fault Refusal :=
  if !barOpen s 0x600000 then .next s
  else
    let due := snapDue s
    let s := writeSnapCtrl s v.toNat
    let s := if due then { s with cnt := { s.cnt with last := s.now } } else s
    .next (if bit v.toNat 0 then snapshot s else s)

/-- PERIODIC_SNAPSHOT (R433): every SNAP_PERIOD_US. -/
def execPeriodicSnapshot (t : Nat) (s : State) : Host.Outcome State Fault Refusal :=
  let s' := tick s t
  if snapDue s' then .next (snapshot { s' with cnt := { s'.cnt with last := s'.now } }) else .next s

/-! ### Reads that do more than read (R10, R428, R429) -/

/-- What a read returns to the host. -/
def answer (s : State) (v : Nat) : State := { s with bar := { s.bar with lastRead := BitVec.ofNat 32 v } }

/-- NT_TIME_LO_READ (R429): captures NT_TIME_HI. -/
def execNtTimeLoRead (t : Nat) (s : State) : Host.Outcome State Fault Refusal :=
  let s := tick s t
  if !barOpen s 0x460000 then .next (answer s 0)
  else .next (answer { s with bar := { s.bar with ntHi := BitVec.ofNat 32 (s.now / 2 ^ 32) } } s.now)

/-- PS_DEAD_BYTES_LO_READ (R428): captures the high half. -/
def execPsDeadBytesLoRead (s : State) : Host.Outcome State Fault Refusal :=
  if !barOpen s 0x300000 then .next (answer s 0)
  else .next (answer { s with bar := { s.bar with deadHi := BitVec.ofNat 32 (s.ps.dead / 2 ^ 32) } } s.ps.dead)

/-- NT_STATUS_READ (R429): the step-limit flag clears. -/
def execNtStatusRead (s : State) : Host.Outcome State Fault Refusal :=
  if !barOpen s 0x460000 then .next (answer s 0)
  else .next (answer { s with nt := { s.nt with stepFlag := false } } (s.nt.status + 4 * b2n s.nt.stepFlag))

/-- MISALIGNED_ACCESS (R10): dropped; a read returns 0xFFFF_FFFF. -/
def execMisalignedAccess (offset size : Nat) (write : Bool) (s : State) : Host.Outcome State Fault Refusal :=
  if offset % 4 = 0 ∧ size = 4 then .next s
  else if write then .next s
  else .next (answer s 0xFFFFFFFF)

/-! ### Sideband inputs (R414, R416, R373, R325) -/

/-- R325: PWR_FAIL_N settled active stops programs, erases and journal writes; inactive again, open block sets are erased
and batches start over in fresh ones. -/
def applyPwrFail (s : State) : State :=
  if pwrFail s then { s with ps := { s.ps with stopped := true } }
  else
    let s := if s.ps.stopped then closeOpen { s with ps := { s.ps with stopped := false } } else s
    topoCheck s

/-- R412, R414: THROTTLE_N settled. -/
def applyThrottle (s : State) : State :=
  if (side s 0).active then
    setClock { s with power := { s.power with throttleAt := some (s.power.throttleAt.getD s.now) } }
  else setClock { s with power := { s.power with throttleAt := none, stuck := false } }

/-- What the filtered state of an input does. -/
def applySide (s : State) (pin : Nat) : State :=
  if pin = 0 then applyThrottle s
  else if pin = 1 then applyPwrFail s
  else if (side s pin).active then resetDevice s
  else s

def setSide (s : State) (pin : Nat) (f : Sideband → Sideband) : State :=
  { s with pins := { s.pins with side := tmod ⟨false, false, 0⟩ s.pins.side pin f } }

/-- SIDEBAND_INPUT_CHANGE (R416): ten equal samples: the input settles, and is unsettled no more. -/
def execSidebandInputChange (pin t : Nat) (active : Bool) (s : State) : Host.Outcome State Fault Refusal :=
  if 4 ≤ pin then .next s
  else .next (applySide (setSide (tick s t) pin fun x => { x with active := active, unsettled := false }) pin)

/-- SIDEBAND_UNSETTLED (R416): the 100 µs timer runs out: the filtered state is active, and the entry is counted. -/
def execSidebandUnsettled (pin t : Nat) (s : State) : Host.Outcome State Fault Refusal :=
  if 4 ≤ pin then .next s
  else
    let s := setSide (tick s t) pin fun x => { active := true, unsettled := true, count := min 255 (x.count + 1) }
    .next (applySide (countEv s 0xC 4 0 none 1) pin)

/-! ### Pin functions (R417, R418, R420) -/

/-- R420: the fields of GPIO_MUX_CFG but FUNC: PULL but for 3, GPIO_OE, GPIO_OUT; a 1 clears XFER_ERR. -/
def writeGpio (g : Gpio) (v : Nat) : Gpio :=
  { g with
    pull := if bits v 4 3 = 3 then g.pull else bits v 4 3
    oe := bit v 5, out := bit v 6, xferErr := g.xferErr && !bit v 9 }

/-- R420, R422: whether a write leaves FUNC or PULL unchanged as out of range. -/
def gpioIgnored (v : Nat) : Bool := decide (5 ≤ bits v 2 0) || bits v 4 3 == 3

/-- R418: FUNC: a new function waits for the end of the switch; a transaction in flight of the old one ends with an
error. -/
def switchFunc (g : Gpio) (f : Nat) (busy : Bool) : Gpio :=
  if 5 ≤ f then g
  else if f = g.func ∧ g.pend = none then g
  else { g with pend := some f, xferErr := g.xferErr || (busy && g.pend.isNone && (g.func == 1 || g.func == 2)) }

def rGpio (k : Nat) : Nat := rGPIO + 4 * k

/-- PIN_FUNCTION_SWITCH (R418): a write to GPIO_MUX_CFG[k]. -/
def execPinFunctionSwitch (k : Nat) (v : W32) (busy : Bool) (s : State) : Host.Outcome State Fault Refusal :=
  if !barOpen s 0x40000 || decide (8 ≤ k) then .next s
  else
    let n := v.toNat
    let s := if gpioIgnored n then ignoreWrite s (rGpio k) else s
    .next (setGpio s k (switchFunc (writeGpio (gpio s k) n) (bits n 2 0) busy))

/-- PIN_SWITCH_END (R418): the new function starts. -/
def execPinSwitchEnd (k : Nat) (s : State) : Host.Outcome State Fault Refusal :=
  match (gpio s k).pend with
  | some f => if k < 8 then .next (setGpio s k { gpio s k with func := f, pend := none }) else .next s
  | none => .next s

/-! ### Register writes (R422) -/

/-- One field of a write: the register's value, and whether the field was left as it was. -/
def writeField (ready : Bool) (v : Nat) (acc : Nat × Bool) (f : Fld) : Nat × Bool :=
  if (f.setup && ready) || !f.rng.ok (bits v f.hi f.lo) then (acc.1, true)
  else (setBits acc.1 f.hi f.lo (bits v f.hi f.lo), acc.2)

/-- R422: the value a register takes, and whether the write counts as ignored. -/
def writeValue (ready : Bool) (old v : Nat) (flds : List Fld) : Nat × Bool := flds.foldl (writeField ready v) (old, false)

/-- R422, R370: a write to a register: its fields, the count of an ignored one, and SETUP_DONE. -/
def writeReg (s : State) (off v : Nat) (r : RegSpec) : State :=
  if r.flds.isEmpty then s
  else
    let w := writeValue (isReady s) (reg s off) v r.flds
    let s := setReg s off w.1
    let s := if w.2 then ignoreWrite s off else s
    if r.flds.any (·.setup) then clearSetup s else s

/-- R347, R348: the pending list of a port changes: checked, and flagged if refused; while a switch is pending the write
is ignored and counted. -/
def writePending (s : State) (q : Nat) (f : Port → Port) : State :=
  if (port s q).switch.isSome then countEv s 0xA 9 q none 1
  else
    let s := modPort s q f
    modPort s q fun P => { P with refused := !gclOk s q (pendList P) }

/-- R70: a meter's buckets are capped at a new BURST. -/
def capMeter (s : State) (p c : Nat) : State :=
  let cap := meterBurst s p c * 65536
  modPart s p fun P => { P with meters := tmod Meter.reset P.meters c fun m =>
    { m with commit := min m.commit cap, excess := min m.excess cap } }

/-- R78: PF_SHARE stays within its bounds. -/
def capShare (s : State) (p : Nat) : State :=
  modPart s p fun P => { P with pfShare := max (pfMin s p) (min P.pfShare (pfMax s p)) }

/-- R426, R70: the registers of a partition. EN, SQ_EN and the waypoint range have commands of their own. -/
def writePart (s : State) (p off v : Nat) (r : RegSpec) : State :=
  let o := off % 0x10000
  if o = 0 then setReg s off (setBits (reg s off) 2 1 (bits v 2 1))
  else if o = 0x200 ∨ o = 0x204 then s
  else if 0x10 ≤ o ∧ o < 0x110 ∧ o % 16 = 8 then
    (if partEn s p then s else setReg s off (setBits (reg s off) 4 0 (bits v 4 0)))
  else if 8 ≤ o ∧ o < 0x12C ∧ partEn s p = true then ignoreWrite s off
  else if o = 0x130 ∧ isReady s = true
      ∧ 262144 < sumN ((allParts.filter (· != p)).map (lbQuota s)) + mirrorQuota s + bits v 18 0 then ignoreWrite s off
  else
    let s := writeReg s off v r
    if 0x140 ≤ o ∧ o < 0x180 ∧ o % 16 = 8 then capMeter s p ((o - 0x140) / 16)
    else if o = 0x1A0 then capShare s p
    else s

/-- R344: a flow's next eligible time, kept in ns × rate, goes over to a new rate. -/
def rescaleFlow (s : State) (q f old : Nat) : State :=
  let new := flowRate s q (f / 12) (f % 12)
  if old = new then s
  else modPort s q fun P => { P with flows := tset 0 P.flows f (if old = 0 then 0 else tget 0 P.flows f * new / old) }

/-- R429: the registers of a port. PORT_EN and LIST_SWITCH have commands of their own. -/
def writePort (s : State) (q off v : Nat) (r : RegSpec) : State :=
  let o := off % 0x1000
  if nPorts s ≤ q ∨ o = 0x4C then s
  else if o = 0 then writePortSetup s q v
  else if o = 0x58 then
    (if 1 ≤ bits v 24 16 ∧ bits v 24 16 ≤ 256 then writePending s q fun P => { P with pendLen := bits v 24 16 }
     else ignoreWrite s off)
  else if 0xC00 ≤ o then
    (if bits v 31 9 = 0 then
       ignoreWrite (writePending s q fun P =>
         let old := (tget none P.pend ((o - 0xC00) / 4)).getD 0x2FF
         { P with pend := tset none P.pend ((o - 0xC00) / 4) (some (BitVec.ofNat 32 (setBits v 31 9 (bits old.toNat 31 9)))) }) off
     else writePending s q fun P => { P with pend := tset none P.pend ((o - 0xC00) / 4) (some (BitVec.ofNat 32 v)) })
  else if 0x100 ≤ o ∧ o < 0x280 then
    let f := (o - 0x100) / 4
    let old := flowRate s q (f / 12) (f % 12)
    rescaleFlow (writeReg s off v r) q f old
  else writeReg s off v r

/-- R376, R365: the registers of the bring-up region; WARM_EN, FORCE_COLD, COLD_EVERY and MT_PARAMS stand in package
flash. -/
def writeBring (s : State) (off v : Nat) (r : RegSpec) : State :=
  let o := off - 0x700000
  if o = 0x0C then
    let every := bits v 15 8
    let s := { s with flash := { s.flash with
      warmEn := bit v 1, forceCold := s.flash.forceCold || bit v 2
      coldEvery := if every = 0 then s.flash.coldEvery else every } }
    if every = 0 then ignoreWrite s off else s
  else if o = 0x18 then
    let w := writeValue (isReady s) s.flash.mtParams v r.flds
    let s := { s with flash := { s.flash with mtParams := w.1 } }
    if w.2 then ignoreWrite s off else s
  else if 0x108 ≤ o ∧ o < 0x114 then (if bistOpen s then writeReg s off v r else s)
  else if o = 0x100 then s
  else writeReg s off v r

/-- R8, R419: a 1 clears REFUSED of a domain. EN has commands of its own. -/
def writePwr (s : State) (off v : Nat) (r : RegSpec) : State :=
  if off < rDOMAIN + 0x180 then
    let d := (off - rDOMAIN) / 4
    if bit v 4 && fittedDom s d then modDom s d fun x => { x with refused := false } else s
  else writeReg s off v r

/-- REGISTER_WRITE (R422, R421): a write to a register that has no command of its own: applied, or ignored and counted. -/
def execRegisterWrite (offset : Nat) (v : W32) (t : Nat) (s : State) : Host.Outcome State Fault Refusal :=
  let s := tick s t
  let n := v.toNat
  match specNow s offset with
  | none => .next s
  | some r =>
    if !barOpen s offset || offset % 4 != 0 then .next s
    else
      .next (dsbHook (dsbOn s) (
        if 0x30000 ≤ offset ∧ offset < 0x40000 then writePwr s offset n r
        else if rGPIO ≤ offset ∧ offset < rGPIO + 0x20 then
          let k := (offset - rGPIO) / 4
          setGpio (if bits n 4 3 = 3 then ignoreWrite s offset else s) k (writeGpio (gpio s k) n)
        else if 0x100000 ≤ offset ∧ offset < 0x1C0000 then writePart s ((offset - 0x100000) / 0x10000) offset n r
        else if 0x400000 ≤ offset ∧ offset < 0x418000 then writePort s ((offset - 0x400000) / 0x1000) offset n r
        else if 0x600000 ≤ offset ∧ offset < 0x700000 then (if offset = rSNAP then writeSnapCtrl s n else s)
        else if 0x700000 ≤ offset then writeBring s offset n r
        else writeReg s offset n r))

/-! ### MCTP over SMBus (R374) -/

def mctpReply (s : State) (v : Nat) : State := { s with pins := { s.pins with reply := v } }

/-- MCTP_SET_ENDPOINT_ID (R374): answered from the moment the firmware runs; until then the address is not acknowledged. -/
def execMctpSetEndpointId (eid : Nat) (s : State) : Host.Outcome State Fault Refusal :=
  if s.boot.fw then .next (mctpReply { s with pins := { s.pins with eid := eid % 256 } } 0) else .next s

/-- MCTP_GET_ENDPOINT_ID (R374). -/
def execMctpGetEndpointId (s : State) : Host.Outcome State Fault Refusal :=
  if s.boot.fw then .next (mctpReply s s.pins.eid) else .next s

/-- MCTP_OTHER_MESSAGE (R374): before READY the completion code for not ready (0x04 in DMTF DSP0236, assumption log 49);
from READY served, with an answer whose content no rule gives: a free value. -/
def execMctpOtherMessage (s : State) : Host.Outcome State Fault Refusal :=
  if !s.boot.fw then .next s
  else if s.boot.st = .bringup then .next (mctpReply s 4)
  else .next (mctpReply (drawn s) (draw s))

/-! ### JTAG (R380) -/

/-- JTAG_IDCODE (R380): open in every state; the code itself is not in the spec: a free value. -/
def execJtagIdcode (s : State) : Host.Outcome State Fault Refusal := .next (mctpReply (drawn s) (draw s))

/-- JTAG_BYPASS (R380): open in every state; it reaches nothing of the device. -/
def execJtagBypass (s : State) : Host.Outcome State Fault Refusal := .next s

/-- JTAG_SAMPLE_PRELOAD (R380): not in SCRAPPED; the sampled pins are a free value. -/
def execJtagSamplePreload (s : State) : Host.Outcome State Fault Refusal :=
  if s.flash.lc = 5 then .next s else .next (mctpReply (drawn s) (draw s))

/-- JTAG_OTHER_INSTRUCTION (R380): closed in DEPLOYED and SCRAPPED; where it is open the spec does not say what it does. -/
def execJtagOtherInstruction (code : Nat) (s : State) : Host.Outcome State Fault Refusal :=
  if s.flash.lc = 3 ∨ s.flash.lc = 5 then .next s else .refused (.jtagInstruction code)

/-! ### Reads (R8, R421-R431) -/

/-- R417, R418, R420: the level of a GPIO pad: what GPIO_OE drives out, or the PPS_OUT pulse; the level of an undriven pad,
and of one that another function drives, is the board's: a free value (assumption log 6). -/
def padLevel (s : State) (k : Nat) : Bool :=
  let g := gpio s k
  if g.pend.isNone && g.func == 0 && g.oe then g.out
  else if g.pend.isNone && g.func == 4 then s.pins.pps
  else Config.openResult 420 (8 * s.now + k) % 2 == 1

/-- R427: HBM_DATA_MIB and the like: registers that read from the state. -/
def liveReg (s : State) (off : Nat) : Option Nat :=
  let id := s.ident
  let run := if s.boot.imageB then s.flash.imgB else s.flash.imgA
  if off = 0 then some (id.hbmStacks + 16 * id.iods + 256 * id.grade + 0x40000)
  else if off = 4 then some id.stepping
  else if off = 8 then some (if s.boot.fw then run.version else 0)
  else if off = 0xC then some (if s.boot.fw then run.sec else 0)
  else if off = 0x10 then some id.serial
  else if off = 0x14 then some (id.serial / 2 ^ 32)
  else if off = 0x10000 then
    some (s.flash.lc + 16 * s.flash.lcPending.getD 0 + 128 * b2n s.flash.lcPending.isSome + 256 * b2n s.boot.lcRefused)
  else if off = 0x20028 then some s.bar.ignored
  else if off = 0x2002C then some s.bar.ignoredAt
  else if rDOMAIN ≤ off ∧ off < rDOMAIN + 0x180 then
    let d := dom s ((off - rDOMAIN) / 4)
    let st := match d.st with | .off => 0 | .poweringUp => 1 | .on => 2 | .draining => 3 | .fenced => 4
    some (b2n d.en + 2 * st + 16 * b2n d.refused)
  else if off = 0x30204 then
    some (b2n (side s 0).active + 2 * b2n s.power.stuck + 4 * b2n s.power.limiting + 8 * b2n s.power.thermal
      + 16 * b2n (s.helm.delay != 0) + 32 * b2n (pwrFail s) + 65536 * s.power.ckArr)
  else if off = 0x30208 then some id.arrVid
  else if off = 0x30210 then some (s.power.tj + 256 * s.power.tjMax)
  else if off = 0x30214 then some s.power.avg
  else if rGPIO ≤ off ∧ off < rGPIO + 0x20 then
    let k := (off - rGPIO) / 4
    let g := gpio s k
    some (g.pend.getD g.func + 8 * g.pull + 32 * b2n g.oe + 64 * b2n g.out + 128 * b2n (padLevel s k) + 256 * b2n g.pend.isSome + 512 * b2n g.xferErr)
  else if off = 0x40040 then
    some (sumN ((List.range 4).map fun k => 2 ^ k * b2n (side s k).active + 2 ^ (4 + k) * b2n (side s k).unsettled))
  else if off = 0x40044 then some (sumN ((List.range 4).map fun k => 256 ^ k * (side s k).count))
  else if off = 0x200000 then some (hbmBytes s / 2 ^ 20)
  else if off = 0x200004 then some (if 3 ≤ s.boot.stage then boardBytes s / 2 ^ 20 else 0)
  else if off = 0x200008 then
    some (s.tiers.boardRate + 2 ^ 16 * (retiredOf s clsHbm).length + 2 ^ 24 * (retiredOf s clsBoard).length)
  else if off = 0x300020 then some s.ps.dead
  else if off = 0x300024 then some s.bar.deadHi.toNat
  else if 0x300040 ≤ off ∧ off < 0x300080 then
    let c := tget (0, 0) s.ps.chans ((off - 0x300040) / 4)
    some (c.1 + 65536 * c.2)
  else if off = 0x460018 then some (s.nt.status + 4 * b2n s.nt.stepFlag)
  else if off = 0x460020 then some s.now
  else if off = 0x460024 then some s.bar.ntHi.toNat
  else if off = 0x500010 then some (compassSeqMax s)
  else if off = 0x700000 then
    some (s.boot.st.toNum + 4 * s.boot.stage + 32 * b2n s.boot.fw + 64 * b2n s.boot.warm + 128 * b2n s.boot.imageB
      + 256 * b2n s.boot.refused + 512 * b2n s.boot.topoFail + 1024 * b2n s.boot.mapNew
      + 2048 * b2n (s.boot.st = .bringup && pwrFail s))
  else if off = 0x700004 then some s.boot.fatal
  else if off = 0x700008 then some s.boot.refusedAt
  else if off = 0x70000C then
    some (b2n (s.boot.setupDone || isReady s) + 2 * b2n s.flash.warmEn + 4 * b2n s.flash.forceCold + 256 * s.flash.coldEvery)
  else if off = 0x700018 then some s.flash.mtParams
  else if off = 0x70001C then some s.flash.startCount
  else if 0x700020 ≤ off ∧ off < 0x700080 then
    let q := (off - 0x700020) / 4
    let P := port s q
    let x := P.partner.getD (0xFFFF, 0, 0)
    some (x.1 + 2 ^ 16 * x.2.1 + 2 ^ 21 * P.width + 2 ^ 24 * portClass s q)
  else if off = 0x700080 then
    some (b2n s.array.rowSpare.isSome + 2 * b2n s.array.colSpare.isSome + 4 * s.tiers.banks.length
      + 2 ^ 8 * s.bearing.retired.length + 2 ^ 12 * (retiredOf s clsHbm).length + 2 ^ 16 * (retiredOf s clsBoard).length
      + 2 ^ 19 * s.ps.deadDies.length)
  else if off = 0x700100 then some 0
  else if off = 0x700104 then some (b2n s.boot.bistBusy + 2 * b2n s.boot.bistFail)
  else if 0x700118 ≤ off ∧ off < 0x700124 then
    let w := (off - 0x700118) / 4
    some (sumN ((s.boot.bistFailed.filter fun d => d / 32 == w).map fun d => 2 ^ (d % 32)))
  else none

/-- R424: WO registers read 0. R426, R429, R431: fields of a partition, a port and a counter that read from the state. -/
def unitReg (s : State) (off : Nat) : Nat :=
  let v := reg s off
  if off = 0x10004 then 0
  else if 0x100000 ≤ off ∧ off < 0x1C0000 then
    let p := (off - 0x100000) / 0x10000
    let o := off % 0x10000
    if o = 0 then v % 8 + 256 * (part s p).st.toNum
    else if 0x10 ≤ o ∧ o < 0x110 ∧ o % 16 = 8 then v + 512 * b2n (ring s p ((o - 0x10) / 16)).stopped
    else if o = 0x1A0 then v % 2 ^ 15 + 65536 * (part s p).pfShare
    else v
  else if 0x400000 ≤ off ∧ off < 0x418000 then
    let q := (off - 0x400000) / 0x1000
    let P := port s q
    let o := off % 0x1000
    let st := match P.st with | .up => 0 | .degraded => 1 | .down => 2 | .fenced => 3 | .off => 4
    if o = 4 then st + 8 * P.width + 64 * b2n P.refused + 128 * b2n P.switch.isSome
    else if o = 0x58 then P.active.length + 65536 * P.pendLen
    else if 0x800 ≤ o ∧ o < 0xC00 then (P.active.getD ((o - 0x800) / 4) 0x2FF).toNat
    else if 0xC00 ≤ o then ((tget none P.pend ((o - 0xC00) / 4)).getD 0x2FF).toNat
    else v
  else if 0x600000 ≤ off ∧ off < 0x600C00 then
    let o := off - 0x600000
    let c := tget Counter.reset s.cnt.cnt (if o < 0x400 then o / 4 else (o - 0x400) / 8)
    if o < 0x400 then c.sel.toNat % 2 ^ 30 + 2 ^ 30 * b2n c.ovf
    else if o % 8 = 0 then c.shadow
    else c.shadow / 2 ^ 32 + 65536 * b2n c.shOvf
  else if off = 0x600C04 then s.cnt.seq
  else v

/-- R430: OBJ_STATUS of the object OBJ_QUERY names: RESIDENT, LOADING, MODE of a segment table (R150), STALE of a feature
table (R220), its tier, and the references to it, saturating. -/
def objStatus (s : State) : Nat :=
  let v := reg s (rEng 0x20)
  let kind := v % 256
  let id := v / 65536
  let o := resident s kind id
  let load := s.obj.loads.find? fun l => l.kind == kind && l.id == id
  let mode := match o.map (·.body) with | some (.arcTable t) => t.head.mode | _ => 0
  let tier := match o, load with | some o, _ => o.tier | none, some l => l.tier | none, none => 0
  let refs := match o with | some o => refCount s o | none => 0
  b2n o.isSome + 2 * b2n load.isSome + 4 * mode + 8 * b2n (kind == 8 && s.feat.stale.contains id) + 16 * tier
    + 65536 * min 0xFFFF refs

/-- R8, R421: what an aligned 32-bit read returns: 0 where no table defines a register, or its region does not answer. -/
def readReg (s : State) (off : Nat) : W32 :=
  if off % 4 ≠ 0 then 0xFFFFFFFF
  else if !barOpen s off || (regSpec s.ident s.flash 0 off).isNone then 0
  else
    match liveReg s off with
    | some v => BitVec.ofNat 32 v
    | none => if off = 0x500024 then BitVec.ofNat 32 (objStatus s) else BitVec.ofNat 32 (unitReg s off)

end Sys2Proof.Machine
end

