-- ==== Sys2Proof/Machine/Twin.lean ====
section
/-! DEFINITION. The watchdog (R388) and the twin pair: heartbeats and misses (R395, R396), mirroring (R392, R393) and
takeover (R396-R399, R271). -/

namespace Sys2Proof.Machine

/-! ### The watchdog (R388) -/

/-- WATCHDOG_STRIKE (R388). -/
def execWatchdogStrike (t : Nat) (s : State) : Host.Outcome State Fault Refusal :=
  let s' := tick s t
  if s'.boot.fw then .next { s' with faults := { s'.faults with strike := s'.now } } else .next s

/-- WATCHDOG_EXPIRY (R388): 2 ms without a strike: class 0x01, index 1. -/
def execWatchdogExpiry (t : Nat) (s : State) : Host.Outcome State Fault Refusal :=
  let s' := tick s t
  if s'.boot.fw ∧ s'.faults.strike + 2000000 ≤ s'.now then .next (enterFaulted s' 1 1) else .next s

/-! ### MIRROR entries (R392) -/

def setTwin (s : State) (f : Twin → Twin) : State := { s with twin := f s.twin }

def mirrorOf (s : State) (h : Handle) : Option Mirror := s.lb.mirrors.find? fun m => m.img.handle == h

def modMirror (s : State) (h : Handle) (f : Mirror → Mirror) : State :=
  { s with lb := { s.lb with mirrors := s.lb.mirrors.map fun m => if m.img.handle = h then f m else m } }

def dropMirror (s : State) (m : Mirror) : State :=
  { s with lb := { s.lb with mirrors := s.lb.mirrors.filter fun x => x.slot != m.slot } }

/-- A MIRROR entry is freed, and its completion slot with it. -/
def freeMirror (s : State) (m : Mirror) : State :=
  let s := dropMirror s m
  let s := modPart s m.img.handle.part fun P => { P with mirrorSlots := P.mirrorSlots - 1 }
  { s with lb := { s.lb with
      entries := tset Entry.freeEntry s.lb.entries m.slot { Entry.freeEntry with gen := nextGen (entry s m.slot).gen }
      freed := s.lb.freed ++ [m.slot] } }

/-- R392, R393, R50: an admission record makes a MIRROR entry, within MIRROR_QUOTA and with a completion slot free in the
ring of the same partition; otherwise it is refused. -/
def newMirror (s : State) (e : EntryImage) : Option State :=
  let p := e.handle.part
  if mirrorQuota s ≤ s.lb.mirrors.length || (part s p).st != .ready || !cqRoom s p then none
  else
    (nextSlot s).map fun x =>
      let s := modEntry x.2 x.1 fun f => { f with st := .mirror, cls := e.cls, sq := e.sq, tag := e.tag, arrival := e.arrival }
      let s := modPart s p fun P => { P with mirrorSlots := P.mirrorSlots + 1 }
      { s with lb := { s.lb with mirrors := s.lb.mirrors ++
          [⟨x.1, e, [], [], ReqSt.admitted.toNum, none, false, 0, 0⟩] } }

/-- What a record other than an admission says of a MIRROR entry; the end of the request frees it. -/
def applyMirror (s : State) (m : Mirror) (r : MirrorMsg) : State :=
  let h := m.img.handle
  match r with
  | .prompt _ toks => modMirror s h fun m => { m with prompt := toks }
  | .token _ _ id => modMirror s h fun m =>
      { m with toks := m.toks ++ [id], firstAt := if m.toks = [] then s.now else m.firstAt, lastAt := s.now }
  | .state _ st => if st = 0 then freeMirror s m else modMirror s h fun m => { m with st := st }
  | .commit _ c => modMirror s h fun m => { m with commit := some c }
  | .admission _ => s

def MirrorMsg.handle : MirrorMsg → Handle
  | .admission e => e.handle
  | .prompt h _ => h
  | .token h _ _ => h
  | .state h _ => h
  | .commit h _ => h

/-- MIRROR_RECORD (R392, R393): a record from the twin, held and acknowledged, or refused. -/
def execMirrorRecord (src : Nat) (m : MirrorMsg) (s : State) : Host.Outcome State Fault Refusal :=
  let s' := takeMsg s src (.mirror m)
  if !isReady s' || !twinEn s' || src != twinDev s' then .next s'
  else
    let ack := fun (s : State) (ok : Bool) => sendTwin s (MirrorMsg.handle m).part (.mirrorAck m ok)
    match m with
    | .admission e =>
      (match newMirror s' e with
       | some s => .next (ack s true)
       | none => .next (ack s' false))
    | _ =>
      (match mirrorOf s' (MirrorMsg.handle m) with
       | some x => .next (ack (applyMirror s' x m) true)
       | none => .next (ack s' false))

/-! ### The home side (R393, R396) -/

/-- R393: the completion records of a request wait no longer for the twin. -/
def releaseCq (s : State) (h : Handle) : State :=
  flushCq s h.part ((part s h.part).cqWait.map fun r => if r.held = some h then { r with held := none } else r)

/-- A request runs on unmirrored: what waited for an acknowledgement goes on. -/
def unmirror (s : State) (slot : Nat) : State :=
  match work s slot with
  | none => s
  | some w =>
    let s := modEntry s slot fun e => { e with mirrored := false }
    let s := modWork s slot fun w => { w with held := [], commitHeld := false }
    let s := forEach s w.held fun s id => if (entry s slot).st = .decode then commitToken s slot id else s
    releaseCq s w.handle

/-- R396: MIRRORED is cleared on every entry of this device. -/
def unmirrorAll (s : State) : State :=
  forEach s (s.lb.work.filter fun e => (entry s e.1).mirrored) fun s e => unmirror s e.1

/-- MIRROR_ACK (R393): the token commits, or the completion record is written; an admission refused is counted and the
request runs unmirrored. -/
def execMirrorAck (m : MirrorMsg) (ok : Bool) (t : Nat) (s : State) : Host.Outcome State Fault Refusal :=
  let s := tick s t
  let s := { s with links := { s.links with inbox := s.links.inbox.filter fun x => x.2 != .mirrorAck m ok } }
  match liveSlot s (MirrorMsg.handle m) with
  | none => .next s
  | some slot =>
    if !mirrored s slot then .next s
    else if !ok then
      .next (unmirror (countEv s 7 11 (entry s slot).cls (some (MirrorMsg.handle m).part) 1) slot)
    else
      match m with
      | .token _ pos _ =>
        (match (work s slot).map (·.held) with
         | some (id :: rest) =>
           if pos = (entry s slot).tokens ∧ (entry s slot).st = .decode then
             .next (takeEarly (commitToken (modWork s slot fun w => { w with held := rest }) slot id) slot 65536)
           else .next s
         | _ => .next s)
      | .commit h _ => .next (releaseCq (modWork s slot fun w => { w with commitHeld := false }) h)
      | _ => .next s

/-! ### Takeover (R397, R398, R271) -/

/-- R398: the text of every committed token, written again from byte 0, with the hold-back rebuilt. -/
def rewriteText (s : State) (slot : Nat) : State :=
  match work s slot with
  | none => s
  | some w =>
    match heldVocab s w (genVocabId w.prof) with
    | none => s
    | some v =>
      let text := w.out.flatMap fun id => if id = v.2.eos then [] else tokText v.2 id
      let r := releaseText [] text
      let e := entry s slot
      let fit := fitChars e.outLen r.1
      let bytes := fit.1.flatMap (·.1)
      let s := modEntry (hostWrite s e.outAddr bytes) slot fun e => { e with outBytes := bytes.length }
      modWork s slot fun w => { w with hold := if fit.2 then [] else r.2 }

/-- R397: a MIRROR entry becomes this device's own: arrival, class, targets and timers are kept, with the original handle,
TAG and SQ_ID; its success will be OK_RESUMED. What this device held of it for the lost one goes (R271). -/
def adopt (s : State) (m : Mirror) (prof : Profile) (refs : List Nat) : State :=
  let i := m.img
  let order := s.lb.order + 1
  let n := m.toks.length
  let us := fun (a : Nat) => usUp (sinceArrival { entry s m.slot with arrival := i.arrival } a)
  let e : Entry := { entry s m.slot with
    st := .mirror, yellow := i.yellow, mirrored := false, cls := i.cls, origCls := i.origCls, lastStage := i.lastStage,
    stage := 1, sq := i.sq, tag := i.tag, arrival := i.arrival, kvDev := 0xFFFF, ttftTarget := i.ttftTarget,
    ttftUs := if n = 0 then i.ttftUs else us m.firstAt, lastTokenUs := if n = 0 then i.lastTokenUs else us m.lastAt,
    tokens := n, profileId := i.profileId, kvtRef := 0xFFFFFFFF, outAddr := i.outAddr, outBytes := 0, outLen := i.outLen }
  let d : Taken := ⟨i.sq, 0, i.desc, i.arrival, 0⟩
  let w0 := newWork i.handle ⟨i.cls, i.yellow && i.cls == 3, order⟩ d refs prof
  let w := { w0 with
    prompt := m.prompt, out := m.toks, lastWrite := m.lastAt, gaps := n - 1
    quals := { w0.quals with resumed := true } }
  let s := releaseGen (dropMirror s m) i.handle
  let s := placePrompt { s with lb := { s.lb with
    entries := tput s.lb.entries m.slot e, work := s.lb.work ++ [(m.slot, w)], order := order } } m.slot
  rewriteText s m.slot

/-- R397: a resumed GENERATE request waits for its reservation (R72); any other goes on at once, from stage 2. -/
def resume (s : State) (slot : Nat) (st : ReqSt) (stage : Nat) (kv : Bool) : State :=
  let s := modEntry (setSt s slot st) slot fun e => { e with stage := stage }
  modWork s slot fun w => { w with waitKv := kv }

/-- R397: the profile and objects a resumed request needs here. -/
def resumeNeeds (s : State) (m : Mirror) : Option (Profile × List Nat) :=
  (tget none s.obj.profiles m.img.profileId).bind fun p => (requestNeeds s m.img.desc p).map fun r => (p, r)

/-- A profile that reads as all zeros, for a completion that uses none. -/
def noProfile (s : State) (id : Nat) : Profile := (tget none s.obj.profiles id).getD (profileOf [])

/-- R397: generation had reached its end when the home device was lost. -/
def endedAlready (s : State) (slot : Nat) (w : Work) : Bool :=
  decide (dMaxOut w.desc ≤ (entry s slot).tokens)
    || (match heldVocab s w (genVocabId w.prof), w.out.getLast? with
        | some v, some id => id == v.2.eos
        | _, _ => false)

/-- R397: what becomes of one MIRROR entry. -/
def takeOver (s : State) (m : Mirror) : State :=
  if m.st = ReqSt.committing.toNum ∧ m.commit.isSome = true then
    { s with lb := { s.lb with mirrors := s.lb.mirrors.map fun x => if x.slot = m.slot then { x with waiting := true } else x } }
  else if m.st = ReqSt.aborting.toNum then
    let s := adopt s m (noProfile s m.img.profileId) (((resumeNeeds s m).map (·.2)).getD [])
    commitReq (modEntry s m.slot fun e => { e with stage := if m.toks = [] then 1 else 17 }) m.slot .aborted m.toks.length
  else
    match resumeNeeds s m with
    | none => commitReq (adopt s m (noProfile s m.img.profileId) []) m.slot .noResource 0
    | some (p, refs) =>
      let s := adopt s m p refs
      if m.img.lastStage = 3 ∧ (m.toks ≠ [] ∨ m.prompt ≠ []) then
        match work s m.slot with
        | none => s
        | some w =>
          if m.toks ≠ [] ∧ endedAlready s m.slot w then
            tryFinish (modWork (setSt (modEntry s m.slot fun e => { e with stage := 17 }) m.slot .decode) m.slot fun w =>
              { w with genEnd := some (.ok, m.toks.length) }) m.slot
          else resume s m.slot .waitPrefill 13 true
      else resume s m.slot .front 1 (m.img.lastStage == 3)

/-- R51, R396, R397: TWIN_TAKEOVER; the rules name no RESOURCE for it, nor a STATUS at a takeover: free values. -/
def takeoverEvent (s : State) (st : Nat) (n : Nat) : State := eventAll (drawn s) 2 st (draw s % 2 ^ 32) n

/-- R396, R397: this device takes its twin's requests over. -/
def takeover (s : State) : State :=
  let ms := s.lb.mirrors
  let s := setTwin s fun x => { x with active := false, seen := false, misses := 0, reading := false, took := true }
  let s := unmirrorAll s
  let s := takeoverEvent (drawn s) (freeStatus (draw s)).toCode ms.length
  let s := forEach s ms takeOver
  settled (reserveResumed s (resumedWaiting s))

/-- R396: the twin is unreachable but not lost: both run on unmirrored. -/
def twinUnreachable (s : State) : State :=
  let s := setTwin s fun x => { x with active := false, seen := false, misses := 0, reading := false }
  let s := forEach (unmirrorAll s) s.lb.mirrors freeMirror
  takeoverEvent s Status.linkLost.toCode 0

/-- FAILOVER (R389, R396): the twin says it is FAULTED: takeover at once; it comes on every path, and counts once. -/
def execFailover (src t : Nat) (s : State) : Host.Outcome State Fault Refusal :=
  let s' := takeMsg (tick s t) src .failover
  if isReady s' && twinEn s' && src == twinDev s' && !s'.twin.took then .next (takeover s')
  else .next s'

/-! ### Heartbeats (R395, R396, R391, R400) -/

/-- TWIN_HEARTBEAT_SEND (R395): every 1 ms on both twin ports, or on the route while both are DOWN. -/
def execTwinHeartbeatSend (t : Nat) (s : State) : Host.Outcome State Fault Refusal :=
  let s' := tick s t
  if isReady s' && twinEn s' then .next (sendTwinAll s' .heartbeat) else .next s

/-- TWIN_HEARTBEAT_RECEIVE (R395, R391, R400): one that does not name this device is discarded and counted; the first from
a READY twin lets mirroring cover the requests admitted from then on. -/
def execTwinHeartbeatReceive (src names : Nat) (s : State) : Host.Outcome State Fault Refusal :=
  let s := takeMsg s src .heartbeat
  if twinEn s && src == twinDev s && names == devno s then
    .next (setTwin s fun x => { x with seen := true, active := x.active || isReady s, took := x.took && x.active })
  else .next (setTwin s fun x => { x with discarded := x.discarded + 1 })

/-- HEARTBEAT_MISS (R395, R396): an interval of the heartbeat clock ends; after five consecutive misses of a twin that was
there its DSB is read. -/
def execHeartbeatMiss (t : Nat) (s : State) : Host.Outcome State Fault Refusal :=
  let s' := tick s t
  if !isReady s' || !twinEn s' then .next s
  else if s'.twin.seen then .next (setTwin s' fun x => { x with seen := false, misses := 0, reading := false })
  else
    let s := setTwin s' fun x => { x with misses := x.misses + 1, reading := x.reading || (x.active && decide (4 ≤ x.misses)) }
    .next (reserveResumed s (resumedWaiting s))

/-- TWIN_DSB_READ (R396): STATE 3, or HB_TIME 5 ms old: takeover; a heartbeat that advances: unreachable, not lost; a read
that fails is tried again. -/
def execTwinDsbRead (dsb : HostRead) (t : Nat) (s : State) : Host.Outcome State Fault Refusal :=
  let s' := tick s t
  if !s'.twin.reading || !isReady s' then .next s
  else
    match dsb with
    | none => .next s'
    | some b =>
      if u32 b 4 = 3 ∨ u64 b 0x10 + 5000000 ≤ s'.now then .next (takeover s') else .next (twinUnreachable s')

/-- TAKEOVER_SLOT_READ (R397): the mirrored completion slot holds the record: the entry is freed; otherwise the survivor
writes the completion, a success as OK_RESUMED. A failed read is tried again. -/
def execTakeoverSlotRead (slot t : Nat) (rec : HostRead) (s : State) : Host.Outcome State Fault Refusal :=
  let s' := tick s t
  match s'.lb.mirrors.find? (fun m => m.slot == slot && m.waiting), rec with
  | some m, some b =>
    (match m.commit with
     | none => .next s
     | some c =>
       if u64 b 0 = m.img.handle.toNum ∧ (bit (u8 b 31) 0) = c.phase then .next (freeMirror s' m)
       else
         let s := adopt s' m (noProfile s' m.img.profileId) []
         let s := modEntry s slot fun e => { e with outBytes := c.outBytes, stage := c.stage }
         .next (commitReq s slot (if c.status.isSuccess then .okResumed else c.status) c.detail))
  | _, _ => .next s

end Sys2Proof.Machine
end

