-- ==== Sys2Proof/Machine/Dispatch.lean ====
section
/-! DEFINITION. The meaning of each command: one arm per constructor of Instr, in the order of the opcode table. -/

namespace Sys2Proof.Machine

def exec (i : Instr) (s : State) : Host.Outcome State Fault Refusal :=
  match i with
  | .doorbellRead p t blk descs => Sys2Proof.Machine.execDoorbellRead p t blk descs s
  | .sqEnable p idx v t blk => Sys2Proof.Machine.execSqEnable p idx v t blk s
  | .sqDisable p idx v => Sys2Proof.Machine.execSqDisable p idx v s
  | .admission p t => Sys2Proof.Machine.execAdmission p t s
  | .runStream p t arg => Sys2Proof.Machine.execRunStream p t arg s
  | .loadModel p data => Sys2Proof.Machine.execLoadModel p data s
  | .loadVariant p data => Sys2Proof.Machine.execLoadVariant p data s
  | .loadIndexSection p data => Sys2Proof.Machine.execLoadIndexSection p data s
  | .loadArcObject p data => Sys2Proof.Machine.execLoadArcObject p data s
  | .loadGrammar p data => Sys2Proof.Machine.execLoadGrammar p data s
  | .loadVocabulary p data => Sys2Proof.Machine.execLoadVocabulary p data s
  | .loadTemplate p data => Sys2Proof.Machine.execLoadTemplate p data s
  | .loadFeatureObject p data => Sys2Proof.Machine.execLoadFeatureObject p data s
  | .loadPassageBatch p data => Sys2Proof.Machine.execLoadPassageBatch p data s
  | .loadContext p data => Sys2Proof.Machine.execLoadContext p data s
  | .abort p t => Sys2Proof.Machine.execAbort p t s
  | .evict p => Sys2Proof.Machine.execEvict p s
  | .objectMemoryFree kind id => Sys2Proof.Machine.execObjectMemoryFree kind id s
  | .setProfile p rec => Sys2Proof.Machine.execSetProfile p rec s
  | .nop p => Sys2Proof.Machine.execNop p s
  | .completionRecordWritten slot => Sys2Proof.Machine.execCompletionRecordWritten slot s
  | .dsbHeartbeat t written => Sys2Proof.Machine.execDsbHeartbeat t written s
  | .abortTimeout slot t => Sys2Proof.Machine.execAbortTimeout slot t s
  | .releaseReport h dev => Sys2Proof.Machine.execReleaseReport h dev s
  | .abortMessage h => Sys2Proof.Machine.execAbortMessage h s
  | .predWindow t => Sys2Proof.Machine.execPredWindow t s
  | .pfShareAdjust t => Sys2Proof.Machine.execPfShareAdjust t s
  | .freeBlockReport dev pools slot room => Sys2Proof.Machine.execFreeBlockReport dev pools slot room s
  | .arrayAcceptance t fresh => Sys2Proof.Machine.execArrayAcceptance t fresh s
  | .contextSwap t took => Sys2Proof.Machine.execContextSwap t took s
  | .operationComplete t ck empty gap => Sys2Proof.Machine.execOperationComplete t ck empty gap s
  | .blockLineRetirement t => Sys2Proof.Machine.execBlockLineRetirement t s
  | .arrayRampDown t gated => Sys2Proof.Machine.execArrayRampDown t gated s
  | .arcApply sid => Sys2Proof.Machine.execArcApply sid s
  | .arcSoftmax sid => Sys2Proof.Machine.execArcSoftmax sid s
  | .arcSoftmaxPart sid => Sys2Proof.Machine.execArcSoftmaxPart sid s
  | .arcRowscale sid => Sys2Proof.Machine.execArcRowscale sid s
  | .arcRmsnorm sid => Sys2Proof.Machine.execArcRmsnorm sid s
  | .sextantSelect sid => Sys2Proof.Machine.execSextantSelect sid s
  | .sextantCompact sid => Sys2Proof.Machine.execSextantCompact sid s
  | .featureUpdate sid t => Sys2Proof.Machine.execFeatureUpdate sid t s
  | .waypointWait sid t => Sys2Proof.Machine.execWaypointWait sid t s
  | .waypointSignal sid t => Sys2Proof.Machine.execWaypointSignal sid t s
  | .moveCopy sid => Sys2Proof.Machine.execMoveCopy sid s
  | .moveTranspose sid => Sys2Proof.Machine.execMoveTranspose sid s
  | .remoteWaypointSignal src part sid step idx inc t => Sys2Proof.Machine.execRemoteWaypointSignal src part sid step idx inc t s
  | .waypointSignalAck sid step st => Sys2Proof.Machine.execWaypointSignalAck sid step st s
  | .waypointWaitTimeout t => Sys2Proof.Machine.execWaypointWaitTimeout t s
  | .regulatorRefill t => Sys2Proof.Machine.execRegulatorRefill t s
  | .partitionEnable p v t => Sys2Proof.Machine.execPartitionEnable p v t s
  | .partitionDisable p v => Sys2Proof.Machine.execPartitionDisable p v s
  | .partitionDrainEnd p t => Sys2Proof.Machine.execPartitionDrainEnd p t s
  | .waypointRangeWrite p count v => Sys2Proof.Machine.execWaypointRangeWrite p count v s
  | .queryTokenisation slot t text => Sys2Proof.Machine.execQueryTokenisation slot t text s
  | .embedding slot t vec => Sys2Proof.Machine.execEmbedding slot t vec s
  | .queryFanOut f t => Sys2Proof.Machine.execQueryFanOut f t s
  | .tableBatchIssue index part t => Sys2Proof.Machine.execTableBatchIssue index part t s
  | .distanceTableWrite h => Sys2Proof.Machine.execDistanceTableWrite h s
  | .walkStart h laneErr => Sys2Proof.Machine.execWalkStart h laneErr s
  | .walkExpansion h t laneErr => Sys2Proof.Machine.execWalkExpansion h t laneErr s
  | .neighbourListArrival h item t => Sys2Proof.Machine.execNeighbourListArrival h item t s
  | .prefetchLineAgeing t => Sys2Proof.Machine.execPrefetchLineAgeing t s
  | .fullVectorArrival h item t good => Sys2Proof.Machine.execFullVectorArrival h item t good s
  | .sketchScan index part t laneErr => Sys2Proof.Machine.execSketchScan index part t laneErr s
  | .shardListReceive h rank t recs short subs => Sys2Proof.Machine.execShardListReceive h rank t recs short subs s
  | .mergeDeadline slot t => Sys2Proof.Machine.execMergeDeadline slot t s
  | .passageFetch home h index item t good => Sys2Proof.Machine.execPassageFetch home h index item t good s
  | .passageTextReceive slot rank item t st text keys => Sys2Proof.Machine.execPassageTextReceive slot rank item t st text keys s
  | .readDeadlineRemoval t => Sys2Proof.Machine.execReadDeadlineRemoval t s
  | .passageTokenisation slot t => Sys2Proof.Machine.execPassageTokenisation slot t s
  | .crossEncoderRerank slot t scores => Sys2Proof.Machine.execCrossEncoderRerank slot t scores s
  | .featureLookup home h deadline items t => Sys2Proof.Machine.execFeatureLookup home h deadline items t s
  | .featurePartialReceive slot p t => Sys2Proof.Machine.execFeaturePartialReceive slot p t s
  | .featureDeadline slot t => Sys2Proof.Machine.execFeatureDeadline slot t s
  | .packing slot t => Sys2Proof.Machine.execPacking slot t s
  | .prefixLookup slot t => Sys2Proof.Machine.execPrefixLookup slot t s
  | .prefillAdmission h member t => Sys2Proof.Machine.execPrefillAdmission h member t s
  | .partialRowsReceive h member row vals => Sys2Proof.Machine.execPartialRowsReceive h member row vals s
  | .prefillDone h t logits => Sys2Proof.Machine.execPrefillDone h t logits s
  | .reshardSliceReceive h id t d logits => Sys2Proof.Machine.execReshardSliceReceive h id t d logits s
  | .reshardAckReceive h => Sys2Proof.Machine.execReshardAckReceive h s
  | .decodeStep model t rows => Sys2Proof.Machine.execDecodeStep model t rows s
  | .maskBuilt h t => Sys2Proof.Machine.execMaskBuilt h t s
  | .tokenCommit slot pos id t => Sys2Proof.Machine.execTokenCommit slot pos id t s
  | .outputWriteDone slot t => Sys2Proof.Machine.execOutputWriteDone slot t s
  | .kvSpill g => Sys2Proof.Machine.execKvSpill g s
  | .prefixReadBack g spill t bad => Sys2Proof.Machine.execPrefixReadBack g spill t bad s
  | .prefixAgeing t => Sys2Proof.Machine.execPrefixAgeing t s
  | .variantHbmCopy id => Sys2Proof.Machine.execVariantHbmCopy id s
  | .updateRecordReceive r => Sys2Proof.Machine.execUpdateRecordReceive r s
  | .updateEpochEnd t => Sys2Proof.Machine.execUpdateEpochEnd t s
  | .epochApply epoch t => Sys2Proof.Machine.execEpochApply epoch t s
  | .rowCacheAgeing t => Sys2Proof.Machine.execRowCacheAgeing t s
  | .vocabularyCacheAgeing t => Sys2Proof.Machine.execVocabularyCacheAgeing t s
  | .scrubAccess tier ch t res written => Sys2Proof.Machine.execScrubAccess tier ch t res written s
  | .unitCopy tier ch t good => Sys2Proof.Machine.execUnitCopy tier ch t good s
  | .bankRetirement bank t bad => Sys2Proof.Machine.execBankRetirement bank t bad s
  | .boardWriteBack line t evicted => Sys2Proof.Machine.execBoardWriteBack line t evicted s
  | .errorWindowBoundary hours t => Sys2Proof.Machine.execErrorWindowBoundary hours t s
  | .flashCodewordRead die set page corrected rereads t temp good => Sys2Proof.Machine.execFlashCodewordRead die set page corrected rereads t temp good s
  | .blockSetVerify die set t temp pages => Sys2Proof.Machine.execBlockSetVerify die set t temp pages s
  | .passageBatchCommit t bad => Sys2Proof.Machine.execPassageBatchCommit t bad s
  | .logMerge die t => Sys2Proof.Machine.execLogMerge die t s
  | .blockSetRewrite die set t => Sys2Proof.Machine.execBlockSetRewrite die set t s
  | .patrolRead die set t corrected rereads temp good => Sys2Proof.Machine.execPatrolRead die set t corrected rereads temp good s
  | .frameReceiveData port f fcsOk lane t => Sys2Proof.Machine.execFrameReceiveData port f fcsOk lane t s
  | .frameReceiveAck port f t => Sys2Proof.Machine.execFrameReceiveAck port f t s
  | .frameReceiveNak port f t => Sys2Proof.Machine.execFrameReceiveNak port f t s
  | .ackSend dev q t => Sys2Proof.Machine.execAckSend dev q t s
  | .ackTimeout dev q t => Sys2Proof.Machine.execAckTimeout dev q t s
  | .frameTransmit port t len last => Sys2Proof.Machine.execFrameTransmit port t len last s
  | .calendarSlot port t => Sys2Proof.Machine.execCalendarSlot port t s
  | .gateEntryBoundary port t => Sys2Proof.Machine.execGateEntryBoundary port t s
  | .listSwitchNow port t => Sys2Proof.Machine.execListSwitchNow port t s
  | .listSwitchAtTime port t => Sys2Proof.Machine.execListSwitchAtTime port t s
  | .trainingAttempt port t r => Sys2Proof.Machine.execTrainingAttempt port t r s
  | .portEnable port v t => Sys2Proof.Machine.execPortEnable port v t s
  | .ptpMessage port t sync offset => Sys2Proof.Machine.execPtpMessage port t sync offset s
  | .holdoverEntry t => Sys2Proof.Machine.execHoldoverEntry t s
  | .freeRunEntry t => Sys2Proof.Machine.execFreeRunEntry t s
  | .ppsInEdge pin t => Sys2Proof.Machine.execPpsInEdge pin t s
  | .deviceReset rail => Sys2Proof.Machine.execDeviceReset rail s
  | .deviceStart t sameParts => Sys2Proof.Machine.execDeviceStart t sameParts s
  | .configurationReady => Sys2Proof.Machine.execConfigurationReady s
  | .logicBist failed => Sys2Proof.Machine.execLogicBist failed s
  | .interfaceTraining hbm capacity rates chans t => Sys2Proof.Machine.execInterfaceTraining hbm capacity rates chans t s
  | .memoryTest hbm board banks logbook => Sys2Proof.Machine.execMemoryTest hbm board banks logbook s
  | .defectMapBuild t mapOk => Sys2Proof.Machine.execDefectMapBuild t mapOk s
  | .setupDone t => Sys2Proof.Machine.execSetupDone t s
  | .etrRead rec t => Sys2Proof.Machine.execEtrRead rec t s
  | .topoWaitExpiry t => Sys2Proof.Machine.execTopoWaitExpiry t s
  | .bistStart v => Sys2Proof.Machine.execBistStart v s
  | .lcRequest v auth => Sys2Proof.Machine.execLcRequest v auth s
  | .watchdogStrike t => Sys2Proof.Machine.execWatchdogStrike t s
  | .watchdogExpiry t => Sys2Proof.Machine.execWatchdogExpiry t s
  | .twinHeartbeatSend t => Sys2Proof.Machine.execTwinHeartbeatSend t s
  | .twinHeartbeatReceive src names => Sys2Proof.Machine.execTwinHeartbeatReceive src names s
  | .heartbeatMiss t => Sys2Proof.Machine.execHeartbeatMiss t s
  | .twinDsbRead dsb t => Sys2Proof.Machine.execTwinDsbRead dsb t s
  | .failover src t => Sys2Proof.Machine.execFailover src t s
  | .takeoverSlotRead slot t rec => Sys2Proof.Machine.execTakeoverSlotRead slot t rec s
  | .mirrorRecord src m => Sys2Proof.Machine.execMirrorRecord src m s
  | .mirrorAck m ok t => Sys2Proof.Machine.execMirrorAck m ok t s
  | .domainDisable d t => Sys2Proof.Machine.execDomainDisable d t s
  | .domainEnable d => Sys2Proof.Machine.execDomainEnable d s
  | .domainDrainDone d t => Sys2Proof.Machine.execDomainDrainDone d t s
  | .domainIsolationDone d t => Sys2Proof.Machine.execDomainIsolationDone d t s
  | .domainPowerUpDone d t => Sys2Proof.Machine.execDomainPowerUpDone d t s
  | .sidebandInputChange pin t active => Sys2Proof.Machine.execSidebandInputChange pin t active s
  | .sidebandUnsettled pin t => Sys2Proof.Machine.execSidebandUnsettled pin t s
  | .throttleStuck t => Sys2Proof.Machine.execThrottleStuck t s
  | .thermtrip temp => Sys2Proof.Machine.execThermtrip temp s
  | .powerLimitTick t watts => Sys2Proof.Machine.execPowerLimitTick t watts s
  | .temperatureCrossing temp => Sys2Proof.Machine.execTemperatureCrossing temp s
  | .refclkLoss clk present t => Sys2Proof.Machine.execRefclkLoss clk present t s
  | .pinFunctionSwitch k v busy => Sys2Proof.Machine.execPinFunctionSwitch k v busy s
  | .pinSwitchEnd k => Sys2Proof.Machine.execPinSwitchEnd k s
  | .counterSelect idx v => Sys2Proof.Machine.execCounterSelect idx v s
  | .snap v => Sys2Proof.Machine.execSnap v s
  | .periodicSnapshot t => Sys2Proof.Machine.execPeriodicSnapshot t s
  | .ntTimeLoRead t => Sys2Proof.Machine.execNtTimeLoRead t s
  | .psDeadBytesLoRead => Sys2Proof.Machine.execPsDeadBytesLoRead s
  | .ntStatusRead => Sys2Proof.Machine.execNtStatusRead s
  | .misalignedAccess offset size write => Sys2Proof.Machine.execMisalignedAccess offset size write s
  | .registerWrite offset v t => Sys2Proof.Machine.execRegisterWrite offset v t s
  | .mctpSetEndpointId eid => Sys2Proof.Machine.execMctpSetEndpointId eid s
  | .mctpGetEndpointId => Sys2Proof.Machine.execMctpGetEndpointId s
  | .mctpOtherMessage => Sys2Proof.Machine.execMctpOtherMessage s
  | .jtagIdcode => Sys2Proof.Machine.execJtagIdcode s
  | .jtagBypass => Sys2Proof.Machine.execJtagBypass s
  | .jtagSamplePreload => Sys2Proof.Machine.execJtagSamplePreload s
  | .jtagOtherInstruction code => Sys2Proof.Machine.execJtagOtherInstruction code s
  | .laneLockLoss port lane t => Sys2Proof.Machine.execLaneLockLoss port lane t s
  | .programOrEraseDone die set t erase good => Sys2Proof.Machine.execProgramOrEraseDone die set t erase good s
  | .stackTemperatureReport stack temp odc => Sys2Proof.Machine.execStackTemperatureReport stack temp odc s
  | .configurationRequest busMaster => Sys2Proof.Machine.execConfigurationRequest busMaster s
  | .syncInterval t => Sys2Proof.Machine.execSyncInterval t s
  | .ppsOut t => Sys2Proof.Machine.execPpsOut t s

end Sys2Proof.Machine
end

