-- ==== Sys2Proof/Safety.lean ====
section
/-! DEFINITION. The words in which claims are stated: a sound state, what a command leaves unchanged (its frame), and
the record a completed descriptor leaves in host memory. -/

namespace Sys2Proof.Machine

/-- Host memory as this device wrote it and device memory keep the canonical form of `Mem`. -/
def State.MemSound (s : State) : Prop := s.host.mem.wf ∧ s.mem.wf

/-! ### Frames -/

/-- The fields of State, by name. -/
inductive StateField where
  | pending | now | free | ident | flash | cell | bar | host | parts
  | lb | obj | mem | helm | array | streams | nextSid | wp | bearing
  | lists | feat | vcache | gen | compass | tiers | ps | links | nt
  | boot | faults | twin | power | pins | cnt
  deriving DecidableEq, Repr

/-- Two states agree on a field. -/
def StateField.same : StateField → State → State → Prop
  | .pending, s, u => u.pending = s.pending
  | .now, s, u => u.now = s.now
  | .free, s, u => u.free = s.free
  | .ident, s, u => u.ident = s.ident
  | .flash, s, u => u.flash = s.flash
  | .cell, s, u => u.cell = s.cell
  | .bar, s, u => u.bar = s.bar
  | .host, s, u => u.host = s.host
  | .parts, s, u => u.parts = s.parts
  | .lb, s, u => u.lb = s.lb
  | .obj, s, u => u.obj = s.obj
  | .mem, s, u => u.mem = s.mem
  | .helm, s, u => u.helm = s.helm
  | .array, s, u => u.array = s.array
  | .streams, s, u => u.streams = s.streams
  | .nextSid, s, u => u.nextSid = s.nextSid
  | .wp, s, u => u.wp = s.wp
  | .bearing, s, u => u.bearing = s.bearing
  | .lists, s, u => u.lists = s.lists
  | .feat, s, u => u.feat = s.feat
  | .vcache, s, u => u.vcache = s.vcache
  | .gen, s, u => u.gen = s.gen
  | .compass, s, u => u.compass = s.compass
  | .tiers, s, u => u.tiers = s.tiers
  | .ps, s, u => u.ps = s.ps
  | .links, s, u => u.links = s.links
  | .nt, s, u => u.nt = s.nt
  | .boot, s, u => u.boot = s.boot
  | .faults, s, u => u.faults = s.faults
  | .twin, s, u => u.twin = s.twin
  | .power, s, u => u.power = s.power
  | .pins, s, u => u.pins = s.pins
  | .cnt, s, u => u.cnt = s.cnt

/-- From s to u no field changes but those listed. -/
def Only (fs : List StateField) (s u : State) : Prop := ∀ f, f ∉ fs → f.same s u

/-- A table agrees with another at every key but those of a list. -/
def OnlyAt {α : Type} (d : α) (ks : List Nat) (a b : Tab α) : Prop := ∀ k, k ∉ ks → tget d b k = tget d a k

/-- Every byte outside `n` bytes from an address reads as before. -/
def BytesOnly (a n : Nat) (m m' : Mem) : Prop := ∀ x, x < a ∨ a + n ≤ x → m'.byte x = m.byte x

/-- The bytes from an address on are these. -/
def BytesAt (m : Mem) (a : Nat) (bs : List Byte) : Prop := ∀ i, i < bs.length → m.byte (a + i) = bs.getD i 0

/-! ### Completions (R31, R47-R50) -/

/-- Where the partition's next completion record goes. -/
def cqSlot (s : State) (p : Nat) : Nat := cqBase s p + 32 * ((part s p).cqTail.toNat % cqSize s p)

/-- PHASE of that record. -/
def cqPhase (s : State) (p : Nat) : Bool := phaseOf (part s p).cqTail.toNat (cqSize s p)

/-- From s to u a descriptor taken from partition p's rings has ended with a status and, as it never held a Logbook
entry, HANDLE 0: its record stands at the slot of the tail, the tail has moved on by one, the descriptor is neither
waiting nor open, and nothing else of host memory or of any partition has changed. -/
def Completed (s u : State) (p : Nat) (d : Taken) (stage : Nat) (st : Status) : Prop :=
  BytesAt u.host.mem (cqSlot s p) (recordBytes 0 (dTag d.bytes) st.toCode d.sq stage 0 0xFFFFFFFF 0 (cqPhase s p))
    ∧ BytesOnly (cqSlot s p) 32 s.host.mem u.host.mem
    ∧ u.host = { s.host with mem := u.host.mem }
    ∧ (∀ q, q ≠ p → part u q = part s q)
    ∧ part u p = { part s p with
        cqTail := (part s p).cqTail + 1
        cqWait := []
        taken := (part s p).taken.filter fun x => !(x.sq == d.sq && x.count == d.count)
        open_ := (part s p).open_.filter fun x => !(x.sq == d.sq && x.count == d.count) }

end Sys2Proof.Machine
end

