-- ==== Sys2Proof/Certificates/Slice0/Obligations.lean ====
section
/-! DEFINITION. The statements for the provers. Each says what commands do on a state and operands that meet its
hypotheses, that the command answers a next state, and what it leaves unchanged (`Only` names the fields of State that
may change; what may change within them is said beside it). -/

section

open Sys2Proof Sys2Proof.Machine

/-- R43: a piece that is not the last of its object: staged, with OK. `Load.part` and the tier of pieces before it are
its own. -/
def PieceStaged (cmd : Nat → HostRead → Instr) (kind : Nat) : Prop :=
  ∀ (s : State) (p : Nat) (d : Taken) (b : List Byte) (l : Load),
    nextPiece s p kind = some d → isReady s = true → regOpen s p 4 (lLen d.bytes) = true → (part s p).cqWait = [] →
    loadOk d.bytes = true → afterLast s p d = false → dOp d.bytes = kind → lLast d.bytes = false →
    (loadOf s kind (lId d.bytes)).getD ⟨kind, lId d.bytes, p, lTier d.bytes, 0, [], []⟩ = l →
    (kind = 9 ∨ resident s kind (lId d.bytes) = none) → (kind = 9 → (s.ps.batches.any fun x => x.id == lId d.bytes && x.part != p) = false) →
    l.part = p → l.tier = lTier d.bytes → l.kind = kind → l.id = lId d.bytes → l.pieces < 65536 →
    b.length = lLen d.bytes →
    (let l' := { l with pieces := l.pieces + 1, cover := addCover (lOff d.bytes) (lOff d.bytes + lLen d.bytes) l.cover,
                        bytes := l.bytes.write (lOff d.bytes) b }
     (if kind = 9 then batchSpace (charge (dropTaken s p d) p 4 (lLen d.bytes)) l'
      else tierSpace (charge (dropTaken s p d) p 4 (lLen d.bytes)) l') = none →
     ∃ u, exec (cmd p (some b)) s = .next u ∧ Completed (charge s p 4 (lLen d.bytes)) u p d 0 .ok ∧
       u.obj = { s.obj with loads := (s.obj.loads.filter fun x => !(x.kind == kind && x.id == lId d.bytes)) ++ [l'] } ∧
       Only [.host, .parts, .obj] s u)

/-- R43, R173: the LAST piece of an object whose pieces cover it and whose image passes every check, with a place for its
image (and for the table-build set of a codebook): the object is resident, with OK, its image stands at its place, and
its load is over. -/
def LastPieceResident (cmd : Nat → HostRead → Instr) (kind : Nat) (check : State → Nat → Nat → List Byte → Checked) : Prop :=
  ∀ (s : State) (p : Nat) (d : Taken) (b : List Byte) (l : Load),
    nextPiece s p kind = some d → isReady s = true → regOpen s p 4 (lLen d.bytes) = true → (part s p).cqWait = [] →
    loadOk d.bytes = true → afterLast s p d = false → dOp d.bytes = kind → lLast d.bytes = true →
    (loadOf s kind (lId d.bytes)).getD ⟨kind, lId d.bytes, p, lTier d.bytes, 0, [], []⟩ = l →
    resident s kind (lId d.bytes) = none →
    l.part = p → l.tier = lTier d.bytes → l.kind = kind → l.id = lId d.bytes → l.pieces < 65536 →
    b.length = lLen d.bytes →
    (∀ q ∈ allParts, ((part s q).taken.filter fun x => !(q == p && x.sq == d.sq && x.count == d.count)).any
      (pieceOf kind (lId d.bytes)) = false) →
    (let l' := { l with pieces := l.pieces + 1, cover := addCover (lOff d.bytes) (lOff d.bytes + lLen d.bytes) l.cover,
                        bytes := l.bytes.write (lOff d.bytes) b }
     let size := lOff d.bytes + lLen d.bytes
     let s0 := dropLoad (charge (dropTaken s p d) p 4 (lLen d.bytes)) kind (lId d.bytes)
     let c := check s0 (lId d.bytes) (lTier d.bytes) (l'.bytes.image 0 size)
     let n := size + besideBytes c.body
     let uid := s.obj.nextUid + 1
     ∀ (a : Nat) (s1 s2 : State) (ctx : Option (Nat × ContextObj)),
     tierSpace (charge (dropTaken s p d) p 4 (lLen d.bytes)) l' = none → coverOk l' size = true →
     c.v.crc = true → c.tierOk = true → c.v.status = none →
     tierUsed s0 l.tier + size + besideBytes c.body ≤ tierRoom s0 l.tier →
     (∀ x ∈ c.ctx, ctxResident s0 x.1 = false) →
     freePlace s0 l.tier n = some a → placeImage s0 l' size c = some s1 → placeBuildSet s1 c = some (s2, ctx) →
     ∃ u, exec (cmd p (some b)) s = .next u ∧ Completed (charge s p 4 (lLen d.bytes)) u p d 0 .ok ∧
       resident u kind (lId d.bytes) = some ⟨kind, lId d.bytes, lTier d.bytes, n, uid, false, false, c.body⟩ ∧
       ⟨.image uid, a, n⟩ ∈ u.obj.places ∧ u.obj.nextUid = uid ∧
       (buildOf s1 c = none → u.mem = s.mem.write a (l'.bytes.image 0 size) ∧ ctx = c.ctx) ∧
       (∀ h cb, buildOf s1 c = some (h, cb) → ∃ a2, freePlace s1 0 (buildSetBytes h) = some a2 ∧
         ⟨.buildSet uid, a2, buildSetBytes h⟩ ∈ u.obj.places ∧
         u.mem = (s.mem.write a (l'.bytes.image 0 size)).write a2 (setImage h cb)) ∧
       loadOf u kind (lId d.bytes) = none ∧ u.obj.profiles = s.obj.profiles ∧ u.obj.staged = s.obj.staged ∧
       (∀ o ∈ s.obj.objs, o ∈ u.obj.objs) ∧
       (∀ x, ctx = some x →
         resident u 10 x.1 = some ⟨10, x.1, 0, 0, uid, false, false, .context x.2⟩) ∧
       Only [.host, .parts, .obj, .feat, .mem, .tiers] s u)

/-- For every command c and every state whose queue is c followed by rest, step answers what exec c answers on the state
with rest as its queue. On an empty queue step answers the same state: the block idles (the model's choice,
assumption log 16). Derived: the queue of waiting commands is the model's, not the spec's. (00_scope) -/
def Obligations.StepRunsTheFrontCommand : Prop :=
  (∀ (s : State) (c : Instr) (rest : List Instr), s.pending = c :: rest → step s = exec c { s with pending := rest }) ∧
  (∀ s : State, s.pending = [] → step s = .next s)

/-- For every command c and state s, if exec c answers next u, then u holds the same queue of waiting commands, the same
identity of the part (stacks, I/O dies, grade, stepping, serial number, fused defect map: what the read-only
registers ID_PART, ID_STEPPING and SERIAL report) and the same cell configuration. Derived from R3 and R423: no rule
gives a command an effect on them. (R3, R423) -/
def Obligations.ExecLeavesQueueAndPart : Prop :=
  ∀ (c : Instr) (s u : State), exec c s = .next u → u.pending = s.pending ∧ u.ident = s.ident ∧ u.cell = s.cell

/-- For every state s whose host memory (as this device wrote it) and device memory list rising addresses with no zero
byte, if step answers next u, both memories of u have that form. An unlisted byte reads 0: the memory test leaves
zero in every unit (R363); for host memory that default is the model's choice. (R288, R363) -/
def Obligations.EveryStepKeepsMemorySound : Prop :=
  ∀ s u : State, s.MemSound → step s = .next u → u.MemSound

/-- State.reset has both memories in canonical form and an empty queue; every Logbook entry is FREE with generation 1
(R61); every waypoint counter is 0 (R95); every partition reads OFF (R426); STATE is reset (0) and FAULT_N is not
asserted; every event counter selects nothing and counts 0 (R431). (R61, R95, R426, R431) -/
def Obligations.ResetStateAsTheSpecSays : Prop :=
  State.reset.MemSound ∧ State.reset.pending = [] ∧
  (∀ slot, entry State.reset slot = Entry.freeEntry ∧ (entry State.reset slot).st = .free ∧ (entry State.reset slot).gen = 1) ∧
  (∀ w, wpVal State.reset w = 0) ∧ (∀ p, (part State.reset p).st = .off) ∧
  State.reset.boot.st = .reset ∧ State.reset.pins.faultN = false ∧
  (∀ i, tget Counter.reset State.reset.cnt.cnt i = ⟨0x1FFFF000, 0, false, 0, false⟩)

/-- On a READY device with no record waiting in the partition, the next admin descriptor that may start ends with its
record at the completion ring's tail. NOP: OK and no other effect, or BAD_DESCRIPTOR when malformed. EVICT of a
resident or loading object: OK; exactly the objects that share the number of one of that kind and ID become evicted
(unusable to new requests), and its load is discarded; malformed: BAD_DESCRIPTOR; of nothing: some status the spec
does not name, with no effect on objects. SET_PROFILE with a valid record: OK, and the profile of its PROFILE_ID is
the record's, the others unchanged; an invalid record: BAD_DESCRIPTOR; a failed read: DATA_ERROR, with no effect on
profiles. (R44, R45, R47, R50, R91) -/
def Obligations.AdminDescriptorsTakeEffect : Prop :=
  ∀ (s : State) (p : Nat) (d : Taken), isReady s = true → (part s p).cqWait = [] →
    (nextTaken s p (isAdmin 4) = some d →
      ∃ u, exec (.nop p) s = .next u ∧
        Completed s u p d 0 (if adminOk d.bytes && zeros d.bytes 8 24 then .ok else .badDescriptor) ∧
        Only [.host, .parts] s u) ∧
    (nextTaken s p (isAdmin 2) = some d →
      let kind := u16 d.bytes 8
      let id := u16 d.bytes 10
      let good := adminOk d.bytes && u32 d.bytes 12 == 0 && u64 d.bytes 16 == 0 && 1 ≤ kind && kind ≤ 10
      let there := (resident s kind id).isSome || s.obj.loads.any fun l => l.kind == kind && l.id == id
      ∃ u st, exec (.evict p) s = .next u ∧ Completed s u p d 0 st ∧
        (good = false → st = .badDescriptor ∧ Only [.host, .parts] s u) ∧
        (good = true → there = true → st = .ok ∧ resident u kind id = none ∧
          u.obj = { s.obj with
            objs := s.obj.objs.map fun o =>
              if s.obj.objs.any fun x => x.kind == kind && x.id == id && x.uid == o.uid then { o with evicted := true } else o
            loads := s.obj.loads.filter fun l => !(l.kind == kind && l.id == id) } ∧
          Only [.host, .parts, .obj] s u) ∧
        (good = true → there = false → Only [.host, .parts, .free] s u)) ∧
    (nextTaken s p (isAdmin 3) = some d → ∀ rec : HostRead,
      let good := adminOk d.bytes && zeros d.bytes 8 16
      ∃ u st, exec (.setProfile p rec) s = .next u ∧ Completed s u p d 0 st ∧
        (good = false → st = .badDescriptor ∧ Only [.host, .parts] s u) ∧
        (good = true → rec = none → st = .dataError ∧ Only [.host, .parts] s u) ∧
        (∀ b, good = true → rec = some b → (profileForm b && profileRefs s (profileOf b)) = false →
          st = .badDescriptor ∧ Only [.host, .parts] s u) ∧
        (∀ b, good = true → rec = some b → (profileForm b && profileRefs s (profileOf b)) = true →
          st = .ok ∧ tget none u.obj.profiles (profileOf b).id = some (profileOf b) ∧
          OnlyAt none [(profileOf b).id] s.obj.profiles u.obj.profiles ∧
          u.obj = { s.obj with profiles := u.obj.profiles } ∧ Only [.host, .parts, .obj] s u))

/-- On a READY device whose PCIe regulator admits the transfer, the next piece of an object that is not its LAST piece
and comes after none, in order, of the same partition and tier as the pieces before it, with room in its tier (or in the staging area for
a passage batch), completes OK: the load in progress holds its bytes at its OFFSET and covers its range, the
transfer is charged to the PCIe regulator, and no other load, no object and no other memory changes. It holds for
LOAD_MODEL, LOAD_VARIANT, LOAD_INDEX_SECTION, LOAD_ARC_OBJECT, LOAD_GRAMMAR, LOAD_VOCABULARY, LOAD_TEMPLATE,
LOAD_FEATURE_OBJECT, LOAD_PASSAGE_BATCH and LOAD_CONTEXT. (R42, R43, R93, R318) -/
def Obligations.LoadPiecesAreStaged : Prop :=
  PieceStaged .loadModel 1 ∧ PieceStaged .loadVariant 2 ∧ PieceStaged .loadIndexSection 3 ∧ PieceStaged .loadArcObject 4 ∧
  PieceStaged .loadGrammar 5 ∧ PieceStaged .loadVocabulary 6 ∧ PieceStaged .loadTemplate 7 ∧
  PieceStaged .loadFeatureObject 8 ∧ PieceStaged .loadPassageBatch 9 ∧ PieceStaged .loadContext 10

/-- On a READY device, the LAST piece of an object whose pieces cover exactly its size and whose image passes the checks
of its kind completes OK where its tier has room and a place for it: the object is resident under its kind and ID with
what its image spells, in the tier named, with a new number; its image stands at its place; the context it carries is
resident too, that of a codebook with its table-build set at a place of its own; the load in progress is over; every
object there before stays. It holds for LOAD_MODEL, LOAD_VARIANT, LOAD_INDEX_SECTION, LOAD_ARC_OBJECT, LOAD_GRAMMAR,
LOAD_VOCABULARY, LOAD_TEMPLATE, LOAD_FEATURE_OBJECT and LOAD_CONTEXT. (R43, R92, R173) -/
def Obligations.LastPiecesMakeObjectsResident : Prop :=
  LastPieceResident .loadModel 1 checkModel ∧ LastPieceResident .loadVariant 2 checkVariant ∧
  LastPieceResident .loadIndexSection 3 checkIndex ∧ LastPieceResident .loadArcObject 4 checkArc ∧
  LastPieceResident .loadGrammar 5 checkGrammar ∧ LastPieceResident .loadVocabulary 6 checkVocab ∧
  LastPieceResident .loadTemplate 7 checkTemplate ∧ LastPieceResident .loadFeatureObject 8 checkFeature ∧
  LastPieceResident .loadContext 10 checkContext

/-- R96: no wait stands whose waypoint has already reached its value. -/
abbrev NoWaitMet (s : State) : Prop := ∀ w ∈ s.wp.waits, wpMet s w.wp w.value = false

/-- While firmware runs: SQ_ENABLE of a disabled ring of 6 to 16 (log2) entries in an enabled, READY or DRAINING
partition of a READY device sets SQ_EN and restarts the ring empty at the tail that its doorbell read found; SQ_HEAD
in the DSB, where the DSB is on, shows it; when that read fails the ring waits for the next one. With the
partition's EN at 0 it takes SQ_EN and the size. SQ_DISABLE clears SQ_EN and leaves the ring's counts. A doorbell
read that is due in a READY partition with nothing lost, at least 128 completion slots to spare and fewer than 4,096
waiting descriptors takes min(8, published) descriptors of each enabled ring that is neither stopped nor restarting,
stops a ring whose tail has run past its size, records CQ_HEAD and EQ_HEAD, and sets the next read; a failed read
changes no ring. A block is 128 bytes: SQ_TAIL of ring i at 4i, CQ_HEAD at 64, EQ_HEAD at 68, little-endian. In a DRAINING
partition the read takes nothing, stops a ring whose tail has run past its size, and comes again after 200 ns while a
published descriptor is held back. (R31, R32, R34, R35, R36, R50, R54) -/
def Obligations.RingsAreEnabledReadAndDisabled : Prop :=
  ∀ (s : State) (p i t : Nat) (v : W32),
    (s.boot.fw = true → partEn s p = true → isReady s = true → ((part s p).st = .ready ∨ (part s p).st = .draining) →
      sqEn s p i = false → 6 ≤ sqLog s p i → sqLog s p i ≤ 16 →
      (∀ blk : List Byte, let b := doorbellOf blk
        ∃ u, exec (.sqEnable p i v t (some blk)) s = .next u ∧ u.now = max s.now t ∧
        sqEn u p i = true ∧ sqLog u p i = sqLog s p i ∧
        ring u p i = ⟨b.tails.getD i 0, b.tails.getD i 0, false, false⟩ ∧
        (∀ q j, q ≠ p ∨ j ≠ i → ring u q j = ring s q j) ∧ (∀ o, o ≠ rPart p (pSQ_CFG i) → reg u o = reg s o) ∧
        (dsbOn s = true → BytesAt u.host.mem (dsbBase s + (0x100 + 64 * p + 4 * i)) (le 4 (b.tails.getD i 0).toNat) ∧
          BytesOnly (dsbBase s + (0x100 + 64 * p + 4 * i)) 4 s.host.mem u.host.mem) ∧
        (dsbOn s = false → u.host = s.host) ∧ Only [.now, .bar, .parts, .host] s u) ∧
      (∃ u, exec (.sqEnable p i v t none) s = .next u ∧ sqEn u p i = true ∧
        ring u p i = { ring s p i with restart := true } ∧ (∀ q j, q ≠ p ∨ j ≠ i → ring u q j = ring s q j) ∧
        Only [.now, .bar, .parts, .cnt] s u)) ∧
    (s.boot.fw = true → partEn s p = false → ∀ blk,
      ∃ u, exec (.sqEnable p i v t blk) s = .next u ∧ sqEn u p i = true ∧
        sqLog u p i = (if partEn s p then sqLog s p i else bits v.toNat 4 0) ∧
        (∀ o, o ≠ rPart p (pSQ_CFG i) → reg u o = reg s o) ∧ Only [.now, .bar, .parts] s u) ∧
    (s.boot.fw = true →
      ∃ u, exec (.sqDisable p i v) s = .next u ∧ sqEn u p i = false ∧
        sqLog u p i = (if partEn s p then sqLog s p i else bits v.toNat 4 0) ∧
        ring u p i = { ring s p i with restart := false } ∧ (∀ q j, q ≠ p ∨ j ≠ i → ring u q j = ring s q j) ∧
        (∀ o, o ≠ rPart p (pSQ_CFG i) → reg u o = reg s o) ∧ Only [.bar, .parts] s u) ∧
    (isReady s = true → (part s p).st = .ready → (part s p).nextPoll ≤ max s.now t → (part s p).lost = 0 →
      waitingDescs s + 128 ≤ 4096 →
      (∀ (blk : List Byte) (ds : List DescBytes), let b := doorbellOf blk
        (part s p).open_.length + (part s p).mirrorSlots + dist b.cqHead (part s p).cqTail + 128 ≤ cqSize s p →
        ∃ u, exec (.doorbellRead p t (some blk) ds) s = .next u ∧
          (part u p).cqHead = b.cqHead ∧ (part u p).eqHead = b.eqHead ∧
          (∀ j, j < 16 → sqEn s p j = true → (ring s p j).stopped = false → (ring s p j).restart = false →
            let n := dist (ring s p j).head (b.tails.getD j 0)
            ring u p j = if n ≤ sqSize s p j
              then { ring s p j with head := (ring s p j).head + BitVec.ofNat 32 (min 8 n), tail := b.tails.getD j 0 }
              else { ring s p j with tail := b.tails.getD j 0, stopped := true }) ∧
          (part u p).nextPoll = max s.now t + (part u p).interval ∧
          ((part u p).interval = 200 ∨ (part u p).interval = min (2 * (part s p).interval) (pollMaxNs s p)) ∧
          (∀ q, q ≠ p → part u q = part s q) ∧ Only [.now, .parts, .host, .cnt, .free] s u) ∧
      (∀ ds, ∃ u, exec (.doorbellRead p t none ds) s = .next u ∧ (∀ j, ring u p j = ring s p j) ∧
        (part u p).nextPoll = max s.now t + (part u p).interval ∧
        (∀ q, q ≠ p → part u q = part s q) ∧ Only [.now, .parts, .cnt] s u)) ∧
    (isReady s = true → (part s p).st = .draining → (part s p).nextPoll ≤ max s.now t → (part s p).lost = 0 →
      ∀ (blk : List Byte) (ds : List DescBytes), let b := doorbellOf blk
        ∃ u, exec (.doorbellRead p t (some blk) ds) s = .next u ∧
          (part u p).cqHead = b.cqHead ∧ (part u p).eqHead = b.eqHead ∧
          (part u p).taken = (part s p).taken ∧ (part u p).open_ = (part s p).open_ ∧
          (∀ j, j < 16 → sqEn s p j = true → (ring s p j).stopped = false → (ring s p j).restart = false →
            ring u p j = if dist (ring s p j).head (b.tails.getD j 0) ≤ sqSize s p j
              then { ring s p j with tail := b.tails.getD j 0 }
              else { ring s p j with tail := b.tails.getD j 0, stopped := true }) ∧
          (part u p).nextPoll = max s.now t + (part u p).interval ∧
          ((∃ j, j < 16 ∧ sqEn s p j = true ∧ (ring s p j).stopped = false ∧ (ring s p j).restart = false ∧
              (ring s p j).head ≠ b.tails.getD j 0 ∧ dist (ring s p j).head (b.tails.getD j 0) ≤ sqSize s p j) →
            (part u p).interval = 200) ∧
          (∀ q, q ≠ p → part u q = part s q) ∧ Only [.now, .parts, .host, .cnt, .free] s u)

/-- When the record of a request in COMMITTING is written (it waits neither for the twin nor in the ring's order), the
entry returns to FREE, all its fields cleared, its generation the next one (after 2^26 - 1 comes 1); the request's
record goes, its slot joins the freed slots last, every other entry stays; nothing of the request remains in the
block tables, prefill jobs, sequences and prompt records here; and one completion follows for each ABORT descriptor that waited on
it. (R46, R60, R63, R65, R81) -/
def Obligations.CompletedEntriesReturnToFree : Prop :=
  ∀ (s : State) (slot : Nat) (w : Work) (c : Commit), work s slot = some w → w.commit = some c →
    (entry s slot).st = .committing → w.commitHeld = false →
    ((part s w.handle.part).cqWait.any fun r => r.n == c.slot) = false →
    ∃ u, exec (.completionRecordWritten slot) s = .next u ∧
      entry u slot = { Entry.freeEntry with gen := if (entry s slot).gen = 2 ^ 26 - 1 then 1 else (entry s slot).gen + 1 } ∧
      work u slot = none ∧ (∀ k, k ≠ slot → entry u k = entry s k) ∧ (∀ k, k ≠ slot → work u k = work s k) ∧
      u.lb.freed = s.lb.freed ++ [slot] ∧ u.lb.fresh = s.lb.fresh ∧
      tableOf u w.handle = none ∧ (∀ j ∈ u.gen.jobs, j.o.h ≠ w.handle) ∧ (∀ q ∈ u.gen.seqs, q.o.h ≠ w.handle) ∧
      (part u w.handle.part).cqTail = (part s w.handle.part).cqTail + BitVec.ofNat 32 w.aborts.length ∧
      (∀ q, q ≠ w.handle.part → part u q = part s q) ∧
      placeFor u (.prompt slot) = none ∧
      Only [.lb, .parts, .host, .gen, .compass, .bearing, .lists, .links, .obj, .helm, .streams, .wp] s u

/-- While firmware runs and 1 ms has passed since the last one, DSB_HEARTBEAT adds 1 to HEARTBEAT and sets HB_TIME to
the time; with the DSB on and the write made, the 16 bytes at 0x008 of the block show both and no other byte of host
memory changes. With the DSB on and nothing written for 3 ms the device enters FAULTED with class 0x01, index 2.
(R53, R54, R369, R388) -/
def Obligations.HeartbeatAdvancesOrFaults : Prop :=
  ∀ (s : State) (t : Nat), s.boot.fw = true → s.host.hbTime + 1000000 ≤ max s.now t →
    (∀ written, (dsbOn s = false ∨ written = true) →
      ∃ u, exec (.dsbHeartbeat t written) s = .next u ∧
        u.host.heartbeat = (s.host.heartbeat + 1) % 2 ^ 64 ∧ u.host.hbTime = max s.now t ∧
        (dsbOn s = true → BytesAt u.host.mem (dsbBase s + 8) (le 8 u.host.heartbeat ++ le 8 u.host.hbTime) ∧
          BytesOnly (dsbBase s + 8) 16 s.host.mem u.host.mem) ∧
        (dsbOn s = false → u.host.mem = s.host.mem) ∧ u.boot.st = s.boot.st ∧ Only [.now, .host] s u) ∧
    (dsbOn s = true → s.boot.st ≠ .faulted → s.host.hbLastOk + 3000000 ≤ max s.now t →
      ∃ u, exec (.dsbHeartbeat t false) s = .next u ∧ u.boot.st = .faulted ∧ u.boot.fatal = 0x01000002 ∧
        u.pins.faultN = true ∧ Only [.now, .host, .boot, .flash, .pins, .parts, .links, .lb, .cnt] s u)

/-- OBJECT_MEMORY_FREE removes exactly the objects that share the number of one of the kind and ID named, when every
object of that number is evicted and nothing live or queued refers to any of them; every other object stays; with
an object go the places of its image and of its table-build set. VARIANT_HBM_COPY marks the variant whose copy was in progress as copied into HBM, takes it from the copies in
progress and makes it the most recently used. (R91, R92, R263) -/
def Obligations.EvictedObjectsAreFreed : Prop :=
  (∀ (s : State) (kind id : Nat),
    let gone := fun uid => (∃ x ∈ s.obj.objs, x.kind = kind ∧ x.id = id ∧ x.uid = uid) ∧
      ∀ y ∈ s.obj.objs, y.uid = uid → y.evicted = true ∧ referred s y = false
    ∃ u, exec (.objectMemoryFree kind id) s = .next u ∧ u.obj = { s.obj with objs := u.obj.objs, places := u.obj.places } ∧
      (∀ o, o ∈ u.obj.objs ↔ o ∈ s.obj.objs ∧ ¬ gone o.uid) ∧
      (∀ x, x ∈ u.obj.places ↔ x ∈ s.obj.places ∧ ∀ uid, (x.of = .image uid ∨ x.of = .buildSet uid) → ¬ gone uid) ∧
      Only [.obj] s u) ∧
  (∀ (s : State) (id : Nat) (o : Obj),
    (s.obj.objs.find? fun o => o.kind == 2 && o.id == id && s.gen.copies.contains o.uid) = some o →
    ∃ u, exec (.variantHbmCopy id) s = .next u ∧
      u.obj = { s.obj with objs := s.obj.objs.map fun x => if x.uid = o.uid then { x with hbmCopy := true } else x } ∧
      o.uid ∉ u.gen.copies ∧ u.gen.lru = s.gen.lru ++ [o.uid] ∧
      u.gen = { s.gen with copies := u.gen.copies, lru := u.gen.lru } ∧ Only [.obj, .gen] s u)

/-- On a READY device, the request that the partition's rings gave first, when no partition's ring gave one before it and
no FENCE holds it (the order with FENCE is the model's reading, assumption log 75): when it is in order, its profile is defined, its objects
are resident, its colour passes, the partition is below LB_QUOTA, the Logbook has an unused slot, and (for GENERATE)
this device can reserve its blocks and the prediction meets its target, gets the entry of the first unused slot:
ADMITTED, stage 1, with its class in force, class, yellow, LAST_STAGE, ring, TAG, arrival, output buffer, first-
token time not yet measured, the generation of the slot unchanged, and, where HBM has a place for its record,
PROMPT_REF that place in units of 256 bytes of HBM, which begins with the descriptor; its handle is (DEVNO, partition, slot,
generation); it is the next in the order of admission; and the credit of its colour is taken from its class's meter.
(R62, R63, R67, R69, R71, R72) -/
def Obligations.AdmissionWritesTheEntry : Prop :=
  ∀ (s : State) (p t : Nat) (d : Taken) (prof : Profile) (refs : List Nat),
    nextRequest (tick s t) p = some d → isReady s = true → requestOk d.bytes = true →
    tget none s.obj.profiles (dProfile d.bytes) = some prof →
    requestNeeds (dropTaken (tick s t) p d) d.bytes prof = some refs →
    (let s1 := dropTaken (tick s t) p d
     let c := dClass d.bytes
     let m := fillMeter s1 p c
     let yellow : Bool := decide (m.colour = .yellow)
     let cls := demoted c yellow
     let slot := s.lb.fresh
     colourPasses s1 p m.colour = true → inUse s p < lbQuota s p → slot < 262144 → work s slot = none →
     (dLast d.bytes ≠ 3 ∨ ∃ g, gslotOf s prof.genModel = some g ∧
        canReserve s1 g (needBlocks (budgetOf d.bytes prof) (dMaxOut d.bytes)) (dGrammar d.bytes).isSome = true ∧
        predMisses s1 p cls (budgetOf d.bytes prof)
          (if dTtft d.bytes ≠ 0 then dTtft d.bytes else ttftDefault s p cls) = false) →
     ∃ u, exec (.admission p t) s = .next u ∧
       (entry u slot).st = .admitted ∧ (entry u slot).stage = 1 ∧ (entry u slot).cls = cls ∧
       (entry u slot).origCls = c ∧ (entry u slot).yellow = yellow ∧ (entry u slot).lastStage = dLast d.bytes ∧
       (entry u slot).sq = d.sq ∧ (entry u slot).tag = dTag d.bytes ∧ (entry u slot).arrival = d.at_ % 2 ^ 48 ∧
       (entry u slot).outAddr = dOutAddr d.bytes ∧ (entry u slot).outLen = dOutLen d.bytes ∧
       (entry u slot).outBytes = 0 ∧ (entry u slot).tokens = 0 ∧ (entry u slot).ttftUs = 0xFFFFFFFF ∧
       (entry u slot).gen = (entry s slot).gen ∧
       (∃ w, work u slot = some w ∧ w.handle = ⟨devno s, p, slot, (entry s slot).gen⟩ ∧ w.desc = d.bytes ∧
         w.refs = refs ∧ w.prof = prof ∧ w.rank = ⟨cls, yellow && cls == 3, s.lb.order + 1⟩) ∧
       u.lb.fresh = slot + 1 ∧ u.lb.order = s.lb.order + 1 ∧ (∀ k, k ≠ slot → entry u k = entry s k) ∧
       tget Meter.reset (part u p).meters c = m.take m.colour ∧ (∀ q, q ≠ p → part u q = part s q) ∧
       (∀ a, freePlace s 0 (64 + 4 * (2 * prof.queryMax + budgetOf d.bytes prof)) = some a →
         (entry u slot).promptRef = (a - hbmBase) / 256 ∧ BytesAt u.mem a d.bytes) ∧
       Only [.now, .parts, .lb, .obj, .mem, .gen, .compass, .tiers, .links, .cnt] s u)

/-- While the partition's first request may not be admitted yet, ADMISSION of that partition leaves the state as it is.
On a READY device, the partition's next request descriptor completes with HANDLE 0 and STAGE 1 when it fails a
check: BAD_DESCRIPTOR when it is malformed, NO_RESOURCE when its profile is not defined or an object it uses is not
resident, REJECTED_RATE when its meter is red, REJECTED_FULL when the partition is at LB_QUOTA, REJECTED_SLO when no
device of the group can take its reservation. No Logbook entry changes. At the first two checks the meters stay as
they are; at the later ones the meter of its class is the one filled up to now, with no credit taken, and the other
classes' meters stay. (R67, R68, R69, R70, R72) -/
def Obligations.RejectedRequestsKeepTheirCredit : Prop :=
  (∀ (s : State) (p t : Nat), nextRequest (tick s t) p = none → exec (.admission p t) s = .next s) ∧
  ∀ (s : State) (p t : Nat) (d : Taken), nextRequest (tick s t) p = some d → isReady s = true →
    (part s p).cqWait = [] →
    (requestOk d.bytes = false →
      ∃ u, exec (.admission p t) s = .next u ∧ Completed s u p d 1 .badDescriptor ∧ Only [.now, .host, .parts] s u) ∧
    (requestOk d.bytes = true → tget none s.obj.profiles (dProfile d.bytes) = none →
      ∃ u, exec (.admission p t) s = .next u ∧ Completed s u p d 1 .noResource ∧ Only [.now, .host, .parts] s u) ∧
    (∀ prof, requestOk d.bytes = true → tget none s.obj.profiles (dProfile d.bytes) = some prof →
      requestNeeds (dropTaken (tick s t) p d) d.bytes prof = none →
      ∃ u, exec (.admission p t) s = .next u ∧ u.lb = s.lb ∧ (part u p).meters = (part s p).meters ∧
        (part u p).cqTail = (part s p).cqTail + 1 ∧ Only [.now, .host, .parts, .gen, .cnt] s u) ∧
    (∀ prof refs, requestOk d.bytes = true → tget none s.obj.profiles (dProfile d.bytes) = some prof →
      requestNeeds (dropTaken (tick s t) p d) d.bytes prof = some refs →
      let m := fillMeter (tick s t) p (dClass d.bytes)
      ((colourPasses (tick s t) p m.colour = false →
          ∃ u, exec (.admission p t) s = .next u ∧
            Completed (setMeter (tick s t) p (dClass d.bytes) m) u p d 1 .rejectedRate ∧ u.lb = s.lb ∧
            tget Meter.reset (part u p).meters (dClass d.bytes) = m ∧
            OnlyAt Meter.reset [dClass d.bytes] (part s p).meters (part u p).meters ∧ Only [.now, .host, .parts, .cnt] s u) ∧
       (colourPasses (tick s t) p m.colour = true → lbQuota s p ≤ inUse s p →
          ∃ u, exec (.admission p t) s = .next u ∧
            Completed (setMeter (tick s t) p (dClass d.bytes) m) u p d 1 .rejectedFull ∧ u.lb = s.lb ∧
            tget Meter.reset (part u p).meters (dClass d.bytes) = m ∧
            OnlyAt Meter.reset [dClass d.bytes] (part s p).meters (part u p).meters ∧ Only [.now, .host, .parts, .cnt] s u) ∧
       (colourPasses (tick s t) p m.colour = true → inUse s p < lbQuota s p → dLast d.bytes = 3 →
          ((gslotOf s prof.genModel).bind fun g => reserveOn (tick s t) prof.genModel g
            (needBlocks (budgetOf d.bytes prof) (dMaxOut d.bytes)) (dGrammar d.bytes).isSome) = none →
          ∃ u, exec (.admission p t) s = .next u ∧
            Completed (setMeter (tick s t) p (dClass d.bytes) m) u p d 1 .rejectedSlo ∧ u.lb = s.lb ∧
            tget Meter.reset (part u p).meters (dClass d.bytes) = m ∧
            OnlyAt Meter.reset [dClass d.bytes] (part s p).meters (part u p).meters ∧ Only [.now, .host, .parts, .cnt] s u)))

/-- An ABORT that names no live request of its partition completes ALREADY_COMPLETE; one whose entry is COMMITTING or
ABORTING only waits on the request, to complete ALREADY_COMPLETE or OK after it; one whose entry stands in an
earlier state waits with OK and the entry moves: to COMMITTING with ABORTED when no other device holds work and no
text write is outstanding, else to ABORTING. On a READY device, ABORT_TIMEOUT of an ABORTING entry commits ABORTED, with
DETAIL the tokens committed, or, with text still to be written, waits for no device any more and ends so with the last
write. With none outstanding RELEASE_REPORT from the last device awaited commits the same; from another it only takes
that device off the list. ABORT_MESSAGE ends everything this device holds of another home's request: no block table,
job, sequence, shard query or delivered message that starts work for it remains. (R26, R46, R66, R80, R81, R82) -/
def Obligations.AbortsEndRequests : Prop :=
  (∀ (s : State) (p t : Nat) (d : Taken), nextTaken (tick s t) p (isAdmin 1) = some d → isReady s = true →
    adminOk d.bytes = true → zeros d.bytes 16 24 = true →
    let h := Handle.ofNum (u64 d.bytes 8)
    ((h.part = p → liveSlot s h = none) → (part s p).cqWait = [] →
      ∃ u, exec (.abort p t) s = .next u ∧ Completed s u p d 0 .alreadyComplete ∧ Only [.now, .host, .parts] s u) ∧
    (∀ slot w, h.part = p → liveSlot s h = some slot → work s slot = some w →
      ((entry s slot).st = .committing ∨ (entry s slot).st = .aborting) →
      ∃ u, exec (.abort p t) s = .next u ∧ (∀ k, entry u k = entry s k) ∧
        work u slot = some { w with
          aborts := w.aborts ++ [⟨d.sq, d.count, dTag d.bytes, decide ((entry s slot).st = .aborting)⟩] } ∧
        (∀ k, k ≠ slot → work u k = work s k) ∧ Only [.now, .lb, .parts] s u) ∧
    (∀ slot w, h.part = p → liveSlot s h = some slot → work s slot = some w →
      (entry s slot).st.follows .aborting = true → (entry s slot).st ≠ .mirror →
      ∃ u, exec (.abort p t) s = .next u ∧
        (∃ w', work u slot = some w' ∧ w'.aborts = w.aborts ++ [⟨d.sq, d.count, dTag d.bytes, true⟩] ∧
          w'.releases = w.sentTo.filter fun x => x != devno s) ∧
        (entry u slot).st =
          (if (w.sentTo.filter fun x => x != devno s) = [] ∧ w.writes = [] then .committing else .aborting) ∧
        (∀ k, k ≠ slot → entry u k = entry s k) ∧
        Only [.now, .lb, .parts, .host, .gen, .compass, .bearing, .lists, .links, .helm, .streams, .wp, .cnt] s u)) ∧
  (∀ (s : State) (slot t : Nat) (w : Work), isReady s = true → work s slot = some w → (entry s slot).st = .aborting →
    w.abortBy ≤ max s.now t →
    (w.writes = [] →
      ∃ u, exec (.abortTimeout slot t) s = .next u ∧ (entry u slot).st = .committing ∧
        (∃ w' c, work u slot = some w' ∧ w'.commit = some c ∧ c.status = .aborted ∧ c.detail = (entry s slot).tokens) ∧
        (∀ k, k ≠ slot → entry u k = entry s k) ∧ Only [.now, .lb, .parts, .host, .links, .cnt] s u) ∧
    (w.writes ≠ [] →
      ∃ u, exec (.abortTimeout slot t) s = .next u ∧ (∀ k, entry u k = entry s k) ∧
        work u slot = some { w with releases := [], ending := some (w.ending.getD (.aborted, (entry s slot).tokens)) } ∧
        (∀ k, k ≠ slot → work u k = work s k) ∧ Only [.now, .lb] s u)) ∧
  (∀ (s : State) (slot : Nat) (w : Work), isReady s = true → work s slot = some w → (entry s slot).st = .aborting →
    w.writes = [] →
    (∀ h dev, liveSlot s h = some slot → w.releases.filter (· != dev) = [] →
      ∃ u, exec (.releaseReport h dev) s = .next u ∧ (entry u slot).st = .committing ∧
        (∃ w' c, work u slot = some w' ∧ w'.commit = some c ∧ c.status = .aborted ∧ c.detail = (entry s slot).tokens) ∧
        Only [.lb, .parts, .host, .links, .cnt] s u) ∧
    (∀ h dev, liveSlot s h = some slot → w.releases.filter (· != dev) ≠ [] →
      ∃ u, exec (.releaseReport h dev) s = .next u ∧ (∀ k, entry u k = entry s k) ∧
        work u slot = some { w with releases := w.releases.filter (· != dev) } ∧ Only [.lb, .links] s u)) ∧
  (∀ (s : State) (h : Handle), isReady s = true →
    ∃ u, exec (.abortMessage h) s = .next u ∧ tableOf u h = none ∧ (∀ j ∈ u.gen.jobs, j.o.h ≠ h) ∧
      (∀ q ∈ u.gen.seqs, q.o.h ≠ h) ∧ (∀ q ∈ u.bearing.queries, q.f.handle ≠ h) ∧
      (∀ m ∈ u.links.inbox, workMail h m.2 = false) ∧
      Only [.links, .gen, .compass, .bearing, .lists, .helm, .streams, .wp] s u)

/-- PRED_WINDOW: in every partition that is not OFF, the prefill rate (where its queue was busy or tokens were
completed) and the four admitted rates move by a sixteenth toward the window's count, and the window's counts start
at 0. PF_SHARE_ADJUST: in every such partition only the prefill share changes: down by 2 to PF_MIN when a DECODE
entry is short of slack, else up by 2 to PF_MAX when a waiting entry is. FREE_BLOCK_REPORT from another member of
the prefill group, with no resumed entry waiting, becomes that member's one report; this device's own report (free
and unreserved blocks of each of its generators, a free block-table slot, room for a grammar) goes to every other
member on Q0. REGULATOR_REFILL: each of the five buckets of each of the twelve partitions gains its
RATE, up to its BURST, and nothing else changes but event counters. (R18, R73, R78, R79, R93) -/
def Obligations.EstimatesAndSharesMoveEachWindow : Prop :=
  (∀ (s : State) (t : Nat),
    ∃ u, exec (.predWindow t) s = .next u ∧ u.now = max s.now t ∧ Only [.now, .parts] s u ∧
      (∀ p, p < 12 → (part s p).st ≠ .off →
        (part u p).pfRate = (if (part s p).winBusy || (part s p).winPf != 0
          then (15 * (part s p).pfRate + (part s p).winPf * 65536) / 16 else (part s p).pfRate) ∧
        (∀ k, k < 4 → tget 0 (part u p).admitRate k =
          (15 * tget 0 (part s p).admitRate k + tget 0 (part s p).winAdmit k * 65536) / 16) ∧
        (part u p).winPf = 0 ∧ (part u p).winAdmit = [] ∧
        part u p = { part s p with
          pfRate := (part u p).pfRate, admitRate := (part u p).admitRate, winPf := 0, winAdmit := []
          winBusy := (part u p).winBusy }) ∧
      (∀ p, (12 ≤ p ∨ (part s p).st = .off) → part u p = part s p)) ∧
  (∀ (s : State) (t : Nat),
    ∃ u, exec (.pfShareAdjust t) s = .next u ∧ u.now = max s.now t ∧ Only [.now, .parts] s u ∧
      (∀ p, p < 12 → (part s p).st ≠ .off → part u p = { part s p with
        pfShare :=
          if anyShort (s.lb.work.filterMap (decodeSlack (tick s t) p)) then max (pfMin s p) ((part s p).pfShare - 2)
          else if anyShort (s.lb.work.filterMap (firstSlack (tick s t) p)) then min (pfMax s p) ((part s p).pfShare + 2)
          else (part s p).pfShare }) ∧
      (∀ p, (12 ≤ p ∨ (part s p).st = .off) → part u p = part s p)) ∧
  (∀ (s : State) (dev : Nat) (pools : List (Nat × Nat × Nat)) (slot room : Bool), dev ≠ devno s → (groupOf s).contains dev = true →
    resumedWaiting s = [] →
    ∃ u, exec (.freeBlockReport dev pools slot room) s = .next u ∧
      u.gen = { s.gen with reports := s.gen.reports.filter (fun r => r.dev != dev) ++ [⟨dev, pools, slot, room⟩] } ∧
      Only [.gen, .links] s u) ∧
  (∀ (s : State) (pools : List (Nat × Nat × Nat)) (slot room : Bool), resumedWaiting s = [] →
    ∃ u, exec (.freeBlockReport (devno s) pools slot room) s = .next u ∧
      (∀ m ∈ groupOf s, m ≠ devno s → ∀ q, pickPort s m 0 = some q →
        (m, 0, Msg.freeBlocks
          (((List.range 8).filter (genSlotEn s)).map fun g =>
            (genSlotModel s g, poolBlocks s g - (pool s g).used.length, unreserved s g))
          (tableFree s) (compassRoom s)) ∈ tget [] (port u q).queues 0) ∧ Only [.links] s u) ∧
  (∀ (s : State) (t : Nat),
    ∃ u, exec (.regulatorRefill t) s = .next u ∧ u.now = max s.now t ∧ Only [.now, .parts, .cnt] s u ∧
      (∀ p, p < 12 → (∀ r, r < 5 → bucket u p r = min (bucket s p r + regRate s p r) (regBurst s p r)) ∧
        part u p = { part s p with regs := (part u p).regs }) ∧
      (∀ p, 12 ≤ p → part u p = part s p))

/-- R84: what waits on a waypoint in a partition, and what runs under its number, belongs to operation descriptors, and a
stream table that lists a number twice (the model's tables never do) lists no request's stream under such a number. -/
abbrev PlainWaits (s : State) (p : Nat) : Prop :=
  (∀ w ∈ s.wp.waits, w.part = p → ∀ sid i x, w.who = .step sid i → stream s sid = some x → x.req = none) ∧
  ∀ e ∈ s.streams, ∀ x y, e.2 = some x → x.part = p → x.req = none → stream s e.1 = some y → y.req = none

/-- While firmware runs: a PART_CTRL write with EN = 1 to a partition that is OFF or INVALID makes it READY when its
geometry is valid: the tails and heads of its completion and event rings 0, its prefill share PF_MIN, its estimates
those of PRED_FRONT_INIT, PRED_PF_RATE_INIT and PRED_HANDOFF_INIT; else INVALID. While DRAINING it is kept for the drain's
end; while READY the partition runs on. That its submission rings stay where they stand is the model's choice
(assumption log 73). A write with EN = 0 to a READY partition starts its drain: DRAINING, with no descriptor taken
and not started, no wait on a waypoint and no stream of a descriptor of which nothing has been issued; a descriptor
that was taken and not started completes CANCELLED. While DRAINING it takes back an EN written meanwhile; while OFF or
INVALID the partition reads OFF. A drain with nothing left ends: OFF, or enabled again when EN was written meanwhile. WP_BASE or WP_COUNT takes its value and every counter of the partition's range becomes 0, the
other counters unchanged; a WP_COUNT above 65,536 is ignored and counted. (R30, R84, R95, R422, R426) -/
def Obligations.PartitionsEnableDrainAndStop : Prop :=
  (∀ (s : State) (p t : Nat) (v : W32), s.boot.fw = true →
    ((part s p).st = .off ∨ (part s p).st = .invalid →
      ∃ u, exec (.partitionEnable p v t) s = .next u ∧ reg u (rPart p 0) = v.toNat % 8 ∧
        (geometryOk s p = true → (part u p).st = .ready ∧ (part u p).cqTail = 0 ∧ (part u p).cqHead = 0 ∧
          (part u p).eqTail = 0 ∧ (part u p).eqHead = 0 ∧ (part u p).lost = 0 ∧ (part u p).pfShare = pfMin s p ∧
          (∀ c, c < 4 → tget 0 (part u p).frontEst c = preg s p (0x210 + 4 * c) * 65536 ∧
            tget 0 (part u p).admitRate c = 0) ∧
          (part u p).pfRate = preg s p 0x220 * 65536 ∧ (part u p).handoff = preg s p 0x224 * 65536 ∧
          (∀ i, ring u p i = ring s p i) ∧ (part u p).nextPoll = max s.now t + 200) ∧
        (geometryOk s p = false → part u p = { part s p with st := .invalid, enPending := false }) ∧
        (∀ q, q ≠ p → part u q = part s q) ∧
        (∀ o, o ≠ rPart p 0 → reg u o = reg s o) ∧ Only [.now, .bar, .parts] s u) ∧
    ((part s p).st = .draining →
      ∃ u, exec (.partitionEnable p v t) s = .next u ∧ part u p = { part s p with enPending := true } ∧
        reg u (rPart p 0) = v.toNat % 8 ∧ (∀ o, o ≠ rPart p 0 → reg u o = reg s o) ∧
        (∀ q, q ≠ p → part u q = part s q) ∧ Only [.now, .bar, .parts] s u) ∧
    ((part s p).st = .ready →
      ∃ u, exec (.partitionEnable p v t) s = .next u ∧ reg u (rPart p 0) = v.toNat % 8 ∧
        (∀ o, o ≠ rPart p 0 → reg u o = reg s o) ∧ Only [.now, .bar] s u)) ∧
  (∀ (s : State) (p : Nat) (v : W32), s.boot.fw = true →
    ((part s p).st = .ready → PlainWaits s p →
      ∃ u, exec (.partitionDisable p v) s = .next u ∧ (part u p).st = .draining ∧ (part u p).taken = [] ∧
        (∀ w ∈ u.wp.waits, w ∈ s.wp.waits ∧ w.part ≠ p) ∧
        (∀ sid x, stream s sid = some x → x.part = p → x.req = none → x.next = 0 → x.ended = none →
          inArray s sid = false → stream u sid = none) ∧
        reg u (rPart p 0) = v.toNat % 8 ∧ (∀ o, o ≠ rPart p 0 → reg u o = reg s o) ∧
        Only [.bar, .parts, .host, .streams, .wp] s u) ∧
    (∀ d, (part s p).st = .ready → (part s p).taken = [d] → (part s p).cqWait = [] →
      (∀ w ∈ s.wp.waits, w.part ≠ p) → (∀ e ∈ s.streams, ∀ x, e.2 = some x → x.part ≠ p) →
      ∃ u, exec (.partitionDisable p v) s = .next u ∧
        Completed (modPart s p fun P => { P with st := .draining }) u p d 0 .cancelled ∧
        reg u (rPart p 0) = v.toNat % 8 ∧ (∀ o, o ≠ rPart p 0 → reg u o = reg s o) ∧
        Only [.bar, .parts, .host] s u) ∧
    ((part s p).st = .draining →
      ∃ u, exec (.partitionDisable p v) s = .next u ∧ part u p = { part s p with enPending := false } ∧
        reg u (rPart p 0) = v.toNat % 8 ∧ (∀ q, q ≠ p → part u q = part s q) ∧ Only [.bar, .parts] s u) ∧
    ((part s p).st = .off ∨ (part s p).st = .invalid →
      ∃ u, exec (.partitionDisable p v) s = .next u ∧ part u p = { part s p with st := .off } ∧
        reg u (rPart p 0) = v.toNat % 8 ∧ (∀ q, q ≠ p → part u q = part s q) ∧ Only [.bar, .parts] s u)) ∧
  (∀ (s : State) (p t : Nat), (part s p).st = .draining → drained s p = true →
    ∃ u, exec (.partitionDrainEnd p t) s = .next u ∧
      ((part s p).enPending = false → part u p = { part s p with st := .off }) ∧
      ((part s p).enPending = true → (part u p).st = if geometryOk s p then .ready else .invalid) ∧
      (∀ q, q ≠ p → part u q = part s q) ∧ (∀ w, wpVal u w = wpVal s w) ∧ Only [.now, .parts] s u) ∧
  (∀ (s : State) (p : Nat) (count : Bool) (v : W32), s.boot.fw = true →
    let off := rPart p (if count then 0x204 else 0x200)
    let val := v.toNat % (if count then 2 ^ 17 else 2 ^ 16)
    ((count = false ∨ val ≤ 65536) →
      ∃ u, exec (.waypointRangeWrite p count v) s = .next u ∧ reg u off = val ∧ (∀ o, o ≠ off → reg u o = reg s o) ∧
        (∀ w, wpVal u w = if wpBase u p ≤ w ∧ w < wpBase u p + wpCount u p then 0 else wpVal s w) ∧
        u.wp.waits = s.wp.waits ∧ Only [.bar, .wp] s u) ∧
    (count = true → 65536 < val →
      ∃ u, exec (.waypointRangeWrite p count v) s = .next u ∧ u.bar.regs = s.bar.regs ∧
        u.bar.ignored = min 0xFFFFFFFF (s.bar.ignored + 1) ∧ u.bar.ignoredAt = off ∧ Only [.bar] s u))

/-- The state in which a checked step runs: the context it names loaded (R155). -/
def inCtx (s : State) (ctx : Nat) : State := if s.helm.ctx = ctx then s else swapTo s ctx

/-- A stream that fails no request when its steps up to `n` have started: a descriptor's, or one whose next step, if there
is one, is of a known kind. -/
abbrev NoRequestEnds (x : Stream) (n : Nat) : Prop :=
  x.req = none ∨ (x.ended = none ∧ (x.steps.length = n ∨ kindOk (x.steps.getD n []) = true))

/-- A step ends no request: not by the step that follows once `n` have started, nor through what the stream's signal releases. -/
abbrev EndsNoRequest (s : State) (x : Stream) (n : Nat) : Prop :=
  NoRequestEnds x n ∧
    ((NoWaitMet s ∧ x.signal = none) ∨
      ∀ w ∈ s.wp.waits, ∀ sid i y, w.who = .step sid i → stream s sid = some y → y.req = none)

/-- R155: the head step of stream `sid`, of this kind and operation code, is in order and can run now: the device is
READY, its WAIT_BACK holds, its context is usable and loaded or can be swapped in, a domain of its unit is ON, and no
unit of memory it reads, nor of the set of a context to be swapped in, is poisoned. Streams are numbered below the next
number. -/
abbrev StepCanRun (s : State) (sid kind op lo hi : Nat) (ok : State → List Byte → Bool)
    (ins : List Byte → List (Nat × Nat)) (x : Stream) (b : List Byte) : Prop :=
  isReady s = true ∧ headStep s sid kind = some (x, b) ∧ u8 b 1 = op ∧ ok s b = true ∧ sid < s.nextSid ∧
    ctxUsable s (stepCtx b) = true ∧ (∃ k ∈ List.range (hi + 1 - lo), domIs s (lo + k) .on = true) ∧
    (s.helm.ctx = stepCtx b ∨ (s.helm.issued = [] ∧ s.helm.swap = none ∧ ctxBad s (stepCtx b) = false)) ∧
    (∀ r ∈ ins b, poisoned (inCtx s (stepCtx b)) r.1 r.2 = false) ∧ EndsNoRequest s x (x.next + 1)

/-- The step at the head of a stream has started and completed: where the stream has not ended, the next step is at its
head and the step is among those complete. -/
def HeadCompleted (u : State) (sid : Nat) (x : Stream) : Prop :=
  ∀ y, stream u sid = some y → y.next = x.next + 1 ∧ x.next ∈ y.done

/-- A checked step has started and completed in its context; of the Logbook only feature rows held for that context have
gone to it (R213). -/
def StepRan (s u : State) (sid : Nat) (x : Stream) (b : List Byte) : Prop :=
  HeadCompleted u sid x ∧ u.lb = (inCtx s (stepCtx b)).lb

/-- Output rows written at their stride, block scales at the free place (assumption log 22). -/
def rowsMem (s : State) (addr stride : Nat) (rows : List OutRow) : Mem :=
  rows.zipIdx.foldl (fun m r =>
    let m := m.write (addr + r.2 * stride) r.1.bytes
    if r.1.scales.isEmpty then m
    else m.write (draw s % (tileBytes / 64) * 64 + r.2 * alignUp r.1.scales.length 64) r.1.scales) s.mem

/-- An address outside every row written and every scale row. -/
def OutsideRows (s : State) (addr stride : Nat) (rows : List OutRow) (a : Nat) : Prop :=
  ∀ r ∈ rows.zipIdx, (a < addr + r.2 * stride ∨ addr + r.2 * stride + r.1.bytes.length ≤ a) ∧
    (a < draw s % (tileBytes / 64) * 64 + r.2 * alignUp r.1.scales.length 64 ∨
      draw s % (tileBytes / 64) * 64 + r.2 * alignUp r.1.scales.length 64 + r.1.scales.length ≤ a)

/-- An Arc step that writes nothing but its output rows: they stand in memory, and every other byte reads as before. -/
def ArcWrote (s u : State) (b : List Byte) (rows : List OutRow) : Prop :=
  u.mem = rowsMem s (aOutAddr b) (aOutStride b) rows ∧
    ∀ a, OutsideRows s (aOutAddr b) (aOutStride b) rows a → u.mem.byte a = s.mem.byte a

/-- On a READY device, the head step of a stream that is a waypoint step in order and ends no request by an unknown step
after it. WAIT on a waypoint that has reached
its value completes with no count changed; on one that has not, it starts and a wait on that waypoint and value
joins the waits. SIGNAL of a waypoint of this device, with no wait standing and the stream not ending by it with a
signal of its own, adds its increment modulo 2^32 to that counter alone and completes; SIGNAL of another device's
waypoint, with a route, puts one message at the end of Q0 and leaves every counter as it is. (R96, R97, R98, R109,
R438) -/
def Obligations.WaypointStepsWaitAndSignal : Prop :=
  ∀ (s : State) (sid t : Nat) (x : Stream) (b : List Byte), isReady s = true → headStep s sid 5 = some (x, b) →
    sid < s.nextSid → wpStepOk s (partOf s sid) b = true → NoRequestEnds x (x.next + 1) →
    (u8 b 1 = 1 → wpMet s (u16 b 4) (u32 b 8) = true → NoWaitMet s → x.signal = none →
      ∃ u, exec (.waypointWait sid t) s = .next u ∧ HeadCompleted u sid x ∧ (∀ w, wpVal u w = wpVal s w) ∧
        Only [.now, .streams, .wp, .host, .parts] s u) ∧
    (u8 b 1 = 1 → wpMet s (u16 b 4) (u32 b 8) = false → NoWaitMet s →
      ∃ u, exec (.waypointWait sid t) s = .next u ∧ stream u sid = some { x with next := x.next + 1 } ∧
        (∀ k, k ≠ sid → stream u k = stream s k) ∧ u.wp.count = s.wp.count ∧
        u.wp.waits = s.wp.waits ++ [⟨x.part, u16 b 4, u32 b 8, max s.now t, .step sid x.next⟩] ∧
        Only [.now, .streams, .wp, .cnt] s u) ∧
    (u8 b 1 = 2 → ownDev s (u16 b 6) = true → s.wp.waits = [] → x.signal = none →
      ∃ u, exec (.waypointSignal sid t) s = .next u ∧ HeadCompleted u sid x ∧
        wpVal u (u16 b 4) = wpVal s (u16 b 4) + BitVec.ofNat 32 (u32 b 8) ∧
        (∀ w, w ≠ u16 b 4 → wpVal u w = wpVal s w) ∧ Only [.now, .streams, .wp, .host, .parts] s u) ∧
    (∀ q, u8 b 1 = 2 → ownDev s (u16 b 6) = false → pickPort s (u16 b 6) 0 = some q → NoWaitMet s →
      ∃ u, exec (.waypointSignal sid t) s = .next u ∧ stream u sid = some { x with next := x.next + 1 } ∧
        tget [] (port u q).queues 0 = tget [] (port s q).queues 0 ++
          [(u16 b 6, x.part, .wpSignal x.part sid x.next (u16 b 4) (u32 b 8))] ∧
        u.wp = s.wp ∧ Only [.now, .streams, .links] s u)

/-- A descriptor that started as this ring, count and tag, and no longer stands among those taken and not started. -/
abbrev Started (s : State) (p sq count tag : Nat) (d : Taken) : Prop :=
  d.sq = sq ∧ d.count = count ∧ dTag d.bytes = tag ∧ (part s p).cqWait = [] ∧
    ∀ y ∈ (part s p).taken, ¬ (y.sq = sq ∧ y.count = count)

/-- A signal from another device is acknowledged in every case, with a route, by one message at the end of Q0: on a
READY device, for a waypoint in the range of the sender's partition number, its increment is added to that counter
alone (no wait standing) with OK; outside the range with BAD_DESCRIPTOR, on a device that is not READY with
NOT_READY, and no counter changes. The acknowledgement of a signal step, of a stream that signals nothing itself,
completes that step on OK, and on any other code ends a descriptor's stream with that code: with no operation of it
in the array its descriptor's record has that code at once. WAYPOINT_WAIT_TIMEOUT, with no wait satisfied, ends every
wait past its partition's timeout, and of the others only those of a stream that it ends; the descriptor of a single
such wait completes LIMIT_EXCEEDED. (R95, R96, R97, R98) -/
def Obligations.RemoteSignalsAreAppliedAndAcknowledged : Prop :=
  (∀ (s : State) (src p sid step idx inc t q : Nat), pickPort s src 0 = some q →
    (isReady s = true → wpOwned s p idx = true → s.wp.waits = [] →
      ∃ u, exec (.remoteWaypointSignal src p sid step idx inc t) s = .next u ∧
        wpVal u idx = wpVal s idx + BitVec.ofNat 32 inc ∧ (∀ w, w ≠ idx → wpVal u w = wpVal s w) ∧
        tget [] (port u q).queues 0 = tget [] (port s q).queues 0 ++ [(src, p, .wpAck sid step .ok)] ∧
        Only [.now, .wp, .links] s u) ∧
    (isReady s = true → wpOwned s p idx = false →
      ∃ u, exec (.remoteWaypointSignal src p sid step idx inc t) s = .next u ∧
        tget [] (port u q).queues 0 = tget [] (port s q).queues 0 ++ [(src, p, .wpAck sid step .badDescriptor)] ∧
        Only [.now, .links] s u) ∧
    (isReady s = false →
      ∃ u, exec (.remoteWaypointSignal src p sid step idx inc t) s = .next u ∧
        tget [] (port u q).queues 0 = tget [] (port s q).queues 0 ++ [(src, p, .wpAck sid step .notReady)] ∧
        Only [.now, .links] s u)) ∧
  (∀ (s : State) (sid step : Nat) (st : Status) (x : Stream), stream s sid = some x → step < x.next → step ∉ x.done →
    stepKind (x.steps.getD step []) = 5 → NoWaitMet s → x.signal = none →
    (st = .ok → NoRequestEnds x x.next) → (st ≠ .ok → x.req = none) →
    ∃ u, exec (.waypointSignalAck sid step st) s = .next u ∧
      (∀ y, stream u sid = some y → (st = .ok → step ∈ y.done ∧ y.ended = x.ended) ∧
        (st ≠ .ok → y.ended = some (x.ended.getD st))) ∧
      (st ≠ .ok → x.ended = none → inArray s sid = false → stream u sid = none ∧
        ∀ d, Started s x.part x.sq x.count x.tag d → Completed s u x.part d 0 st) ∧
      (∀ k, k ≠ sid → stream u k = stream s k) ∧ (∀ w, wpVal u w = wpVal s w) ∧
      Only [.links, .streams, .wp, .host, .parts] s u) ∧
  (∀ (s : State) (t : Nat), NoWaitMet s →
    (let late := s.wp.waits.filter (waitExpired (tick s t))
     (∀ w ∈ late, ∀ sid i x, w.who = .step sid i → stream s sid = some x → x.req = none ∧ x.signal = none) →
     ∃ u, exec (.waypointWaitTimeout t) s = .next u ∧
       (∀ w ∈ u.wp.waits, w ∈ s.wp.waits ∧ waitExpired (tick s t) w = false) ∧
       (∀ w ∈ s.wp.waits, waitExpired (tick s t) w = false →
         (∀ sid i, w.who = .step sid i → ∀ v ∈ late, ∀ j, v.who ≠ .step sid j) → w ∈ u.wp.waits) ∧
       (∀ w sq count tag b a r, late = [w] → w.who = .desc sq count tag b a r →
         ∀ d, Started s w.part sq count tag d → Completed s u w.part d 0 .limitExceeded) ∧
       (∀ w, wpVal u w = wpVal s w) ∧ Only [.now, .wp, .streams, .host, .parts] s u))

/-- On a READY device whose PCIe regulator admits the argument block, the partition's next operation descriptor. In
order, with WAIT_EN and its waypoint short of its value: a wait joins the waits and no stream starts. Otherwise,
with STREAM_LEN above 0, no poisoned unit in the stream, a first step of a known kind and no wait satisfied: the
stream of the next number holds the steps that stand at STREAM_ADDR, none started, and the argument block read. With
STREAM_LEN 0 and no SIGNAL_EN it completes OK. Malformed: BAD_DESCRIPTOR; a failed read of the argument block:
DATA_ERROR. (R41, R58, R95, R97, R105) -/
def Obligations.OperationDescriptorsStartStreams : Prop :=
  ∀ (s : State) (p t : Nat) (d : Taken) (arg : HostRead),
    nextTaken (tick s t) p (fun b => dType b == 2) = some d → isReady s = true →
    regOpen s p 4 (oArgLen d.bytes) = true →
    (let b := d.bytes
     let reads := oLen b != 0 && oArgLen b != 0
     (streamOk s p b = false → (part s p).cqWait = [] →
        ∃ u, exec (.runStream p t arg) s = .next u ∧ Completed s u p d 0 .badDescriptor ∧ Only [.now, .host, .parts] s u) ∧
     (streamOk s p b = true → reads = true → arg = none → (part s p).cqWait = [] →
        ∃ u, exec (.runStream p t arg) s = .next u ∧ Completed s u p d 0 .dataError ∧ Only [.now, .host, .parts] s u) ∧
     (streamOk s p b = true → (reads = true → arg.isSome = true) → oWaitEn b = true →
        wpMet s (oWaitWp b) (oWaitVal b) = false →
        ∃ u, exec (.runStream p t arg) s = .next u ∧ u.nextSid = s.nextSid ∧ u.wp.count = s.wp.count ∧
          (∃ r, u.wp.waits = s.wp.waits ++ [⟨p, oWaitWp b, oWaitVal b, max s.now t,
            .desc d.sq d.count (dTag b) b (if reads then arg.getD [] else []) r⟩]) ∧
          Only [.now, .parts, .lb, .wp, .cnt] s u) ∧
     (streamOk s p b = true → (reads = true → arg.isSome = true) →
        (oWaitEn b = false ∨ wpMet s (oWaitWp b) (oWaitVal b) = true) → NoWaitMet s → oLen b ≠ 0 →
        poisoned s (oAddr b) (oLen b) = false → kindOk (s.mem.read (oAddr b) 64) = true →
        ∃ u, exec (.runStream p t arg) s = .next u ∧ u.nextSid = s.nextSid + 1 ∧
          (∃ y, stream u s.nextSid = some y ∧ y.part = p ∧ y.sq = d.sq ∧ y.count = d.count ∧ y.tag = dTag b ∧
            y.steps = chunks 64 (oLen b / 64) (s.mem.read (oAddr b) (oLen b)) ∧ y.next = 0 ∧ y.done = [] ∧
            y.ended = none ∧ y.arg = (if reads then arg.getD [] else []) ∧
            y.signal = if oSignalEn b then some (oSignalWp b, oSignalInc b) else none) ∧
          (∀ k, k ≠ s.nextSid → stream u k = stream s k) ∧ Only [.now, .parts, .lb, .streams, .nextSid] s u) ∧
     (streamOk s p b = true → (oWaitEn b = false ∨ wpMet s (oWaitWp b) (oWaitVal b) = true) → NoWaitMet s →
        oLen b = 0 → oSignalEn b = false → (part s p).cqWait = [] → inArray s s.nextSid = false →
        poisoned s (oAddr b) 0 = false →
        ∃ u, exec (.runStream p t arg) s = .next u ∧ Completed s u p d 0 .ok ∧ (∀ w, wpVal u w = wpVal s w) ∧
          Only [.now, .host, .parts, .lb, .streams, .nextSid, .wp] s u))

/-- A checked Arc step that can run now completes and writes one output row per input row at OUT_STRIDE. APPLY:
convert(round_fp32(s x f(x))) of each element by the function its FUNC names; SOFTMAX: the softmax of each scaled
row; SOFTMAX_PART: p as the output rows, the corrections at AUX and the pairs (m, l) at STATE; ROWSCALE: each row
times its correction, or with FINAL the reciprocal of its sum; RMSNORM: each row normalised, times the gains. Every
byte of memory outside the output rows (for SOFTMAX_PART outside AUX and STATE too) reads as before; SOFTMAX_PART with
no AUX writes no correction. Where the block scales of an MX output go is a free place, and the factor of a ROWSCALE
with neither FINAL nor AUX a free value (assumption log 22). (R154, R156, R158, R159, R160, R142) -/
def Obligations.ArcStepsWriteTheirRows : Prop :=
  ∀ (s : State) (sid : Nat) (x : Stream) (b : List Byte),
    (let s1 := inCtx s (stepCtx b)
     let t := (aOut b).getD .fp32
     let frame : List StateField := [.mem, .tiers, .helm, .compass, .lb, .free, .cnt, .streams, .nextSid, .wp, .host, .parts]
     (∀ f, StepCanRun s sid 2 1 25 28 arcOk arcIns x b → slotUsable s (stepCtx b) (aFunc b) = true →
        arcFn s1 (stepCtx b) (aFunc b) = some f →
        ∃ u, exec (.arcApply sid) s = .next u ∧ StepRan s u sid x b ∧ Only frame s u ∧
          ArcWrote s1 u b ((List.range (aRows b)).map fun r => finishRow s1 (stepCtx b) f t (aScale b) (arcRow s1 b r))) ∧
     (StepCanRun s sid 2 2 25 28 arcOk arcIns x b →
        ∃ u, exec (.arcSoftmax sid) s = .next u ∧ StepRan s u sid x b ∧ Only frame s u ∧
          ArcWrote s1 u b ((List.range (aRows b)).map fun r => convertRow t (softmaxRow (aScale b) (arcRow s1 b r)).ys)) ∧
     (StepCanRun s sid 2 3 25 28 arcOk arcIns x b →
        let rs := (List.range (aRows b)).map fun r =>
          softmaxPartRow (aScale b) (writtenVals t) (u32 (s1.mem.read (aState b + 8 * r) 8) 0)
            (u32 (s1.mem.read (aState b + 8 * r) 8) 4) (arcRow s1 b r)
        ∃ u, exec (.arcSoftmaxPart sid) s = .next u ∧ StepRan s u sid x b ∧ Only frame s u ∧
          (let out := rowsMem s1 (aOutAddr b) (aOutStride b) (rs.map fun r => convertRow t r.ys)
           u.mem = (if aAux b = 0xFFFFFFFF then out else out.write (aAux b) (f32Bytes (rs.map (·.c)))).write (aState b)
             (f32Bytes (rs.flatMap fun r => [r.m, r.l]))) ∧
          ∀ a, OutsideRows s1 (aOutAddr b) (aOutStride b) (rs.map fun r => convertRow t r.ys) a →
            (aAux b = 0xFFFFFFFF ∨ a < aAux b ∨ aAux b + 4 * aRows b ≤ a) → (a < aState b ∨ aState b + 8 * aRows b ≤ a) →
            u.mem.byte a = s1.mem.byte a) ∧
     (StepCanRun s sid 2 4 25 28 arcOk arcIns x b →
        let c := fun r =>
          let l := u32 (s1.mem.read (aState b + 8 * r + 4) 4) 0
          if aFinal b then (if l = 0 then 0 else recip32 l)
          else if aAux b = 0xFFFFFFFF then drawAt s1 r % 2 ^ 32
          else u32 (s1.mem.read (aAux b + 4 * r) 4) 0
        let s2 := if aFinal b = false ∧ aAux b = 0xFFFFFFFF then drawnBy s1 (aRows b) else s1
        ∃ u, exec (.arcRowscale sid) s = .next u ∧ StepRan s u sid x b ∧ Only frame s u ∧
          ArcWrote s2 u b ((List.range (aRows b)).map fun r => convertRow t (rowScale (c r) (arcRow s1 b r)))) ∧
     (StepCanRun s sid 2 5 25 28 arcOk arcIns x b →
        let gain := if aAux b = 0xFFFFFFFF then none else some (readF32 s1 (aAux b) (aLen b))
        ∃ u, exec (.arcRmsnorm sid) s = .next u ∧ StepRan s u sid x b ∧ Only frame s u ∧
          ArcWrote s1 u b ((List.range (aRows b)).map fun r => convertRow t (rmsRow (aEps b) gain (arcRow s1 b r)).1)))

/-- A checked Sextant step that can run now completes, while a list of a domain that is ON is free. SELECT writes to OUT the records of the first CAPACITY elements
of its input by key and then input order, and to RESULT their number and the number of NaN keys. COMPACT writes to
OUT, in input order, the first OUT_CAP elements whose key ranks strictly above THRESHOLD, and to RESULT their number
and the number that qualified. Every other byte of memory reads as before. (R191, R193, R194, R196, R197) -/
def Obligations.SextantStepsSelectAndCompact : Prop :=
  ∀ (s : State) (sid : Nat) (x : Stream) (b : List Byte),
    (let s1 := inCtx s (stepCtx b)
     let es := sxInput s1 b
     let frame : List StateField := [.mem, .tiers, .helm, .compass, .lb, .cnt, .streams, .nextSid, .wp, .host, .parts]
     (StepCanRun s sid 3 1 23 24 sextantOk sxIns x b → (freeList s).isSome = true →
        let out := topList (sxAbove (xFmt b) (xAsc b)) (xCap b) es
        ∃ u, exec (.sextantSelect sid) s = .next u ∧ StepRan s u sid x b ∧ Only frame s u ∧
          u.mem = (s1.mem.write (xOut b) (out.flatMap sxRecord)).write (xResult b)
            (le 4 out.length ++ le 4 (es.filter fun e => keyNan (xFmt b) e.1).length) ∧
          ∀ a, (a < xOut b ∨ xOut b + 16 * out.length ≤ a) → (a < xResult b ∨ xResult b + 8 ≤ a) →
            u.mem.byte a = s1.mem.byte a) ∧
     (StepCanRun s sid 3 2 23 24 sextantOk sxIns x b → (freeList s).isSome = true →
        let q := es.filter fun e => !keyNan (xFmt b) e.1 && keyAbove (xFmt b) (xAsc b) e.1 (xThreshold b)
        let out := q.take (xOutCap b)
        ∃ u, exec (.sextantCompact sid) s = .next u ∧ StepRan s u sid x b ∧ Only frame s u ∧
          u.mem = (s1.mem.write (xOut b) (out.flatMap sxRecord)).write (xResult b) (le 4 out.length ++ le 4 q.length) ∧
          ∀ a, (a < xOut b ∨ xOut b + 16 * out.length ≤ a) → (a < xResult b ∨ xResult b + 8 ≤ a) →
            u.mem.byte a = s1.mem.byte a))

/-- A checked move step that can run now and whose regulators admit it completes. COPY on this device: the destination
holds the source's bytes and every other byte reads as before. COPY to another device with a route: one message on
Q6 carries the bytes and the destination address, and no memory here changes. TRANSPOSE: each destination row holds
the source column, with its scale rows for an MX format, written in order; bytes outside the destination rows read
as before. (R93, R94, R128, R134, R439) -/
def Obligations.MovesCopyAndTranspose : Prop :=
  ∀ (s : State) (sid : Nat) (x : Stream) (b : List Byte),
    (let s1 := inCtx s (stepCtx b)
     let frame : List StateField := [.mem, .tiers, .helm, .compass, .lb, .cnt, .streams, .nextSid, .wp, .host, .parts]
     let n := sumN ((moveSrc b).map (·.2))
     let m := sumN ((moveDst b).map (·.2))
     (StepCanRun s sid 6 1 35 42 moveOk moveSrc x b → ownDev s (mDev b) = true →
        memOpen s1 x.part (mSrc b) n = true → memOpen s1 x.part (mDst b) m = true →
        ∃ u, exec (.moveCopy sid) s = .next u ∧ StepRan s u sid x b ∧ Only frame s u ∧
          u.mem = s1.mem.write (mDst b) (s1.mem.read (mSrc b) (mLen b)) ∧
          BytesOnly (mDst b) (mLen b) s1.mem u.mem) ∧
     (∀ q, StepCanRun s sid 6 1 35 42 moveOk moveSrc x b → ownDev s (mDev b) = false →
        memOpen s1 x.part (mSrc b) n = true → pickPort s (mDev b) 6 = some q →
        ∃ u, exec (.moveCopy sid) s = .next u ∧ u.mem = s1.mem ∧ u.lb = s1.lb ∧
          (∀ y, stream u sid = some y → y.next = x.next + 1) ∧
          tget [] (port u q).queues 6 = tget [] (port s q).queues 6 ++
            [(mDev b, x.part, .bulk sid x.next x.part (mDst b) (s1.mem.read (mSrc b) (mLen b)))] ∧
          Only (.links :: .feat :: frame) s u) ∧
     (StepCanRun s sid 6 2 35 42 moveOk moveSrc x b →
        memOpen s1 x.part (mSrc b) n = true → memOpen s1 x.part (mDst b) m = true →
        let ws := transposed s1 ((Elt.ofCode (u8 b 2)).getD .int8) b
        ∃ u, exec (.moveTranspose sid) s = .next u ∧ StepRan s u sid x b ∧ Only frame s u ∧
          u.mem = ws.foldl (fun m w => m.write w.1 w.2) s1.mem ∧
          ∀ a, (∀ w ∈ ws, a < w.1 ∨ w.1 + w.2.length ≤ a) → u.mem.byte a = s1.mem.byte a))

/-- A checked update step of a resident, updatable table that can run now, every owner of its rows reachable, starts:
its records in batch order, less those with a row past the table or a value that is not finite, take the next
positions of the epoch that runs at its start; each goes to every device that holds its row's shard, this one's joining the
contributions received here in order; no table changes, and of memory only what a swap of contexts moves. (R218, R219) -/
def Obligations.FeatureUpdateStepsSendTheirRecords : Prop :=
  ∀ (s : State) (sid t : Nat) (x : Stream) (b : List Byte) (tb : FeatTable),
    tableFor s (uTable b) = some tb →
    StepCanRun s sid 4 1 33 34 updateOk
      (fun b => [(uIn b, rowSpan (uCount b) (8 + 4 * rowElts tb) (uStride b))]) x b →
    (let s1 := inCtx s (stepCtx b)
     let f := (advanceEpoch (tick s t)).feat
     let rs := (List.range (uCount b)).map fun i =>
       (u32 (s1.mem.read (uIn b + i * uStride b) 4) 0, readF32 s1 (uIn b + i * uStride b + 8) (rowElts tb))
     let good := rs.filter fun r => !gradBad tb r.1 r.2
     let grads := good.zipIdx.map fun r =>
       (⟨uTable b, r.1.1, devno s, f.epoch, f.pos + r.2, r.1.2⟩ : GradRec)
     (∀ g ∈ grads, ∀ d ∈ shardOwners s tb (g.row % tb.shards), reachable s d = true) →
     ∃ u, exec (.featureUpdate sid t) s = .next u ∧ (∀ y, stream u sid = some y → y.next = x.next + 1) ∧
       u.lb = s1.lb ∧
       u.feat = { f with pos := f.pos + good.length, contribs := u.feat.contribs, acks := u.feat.acks } ∧
       u.feat.contribs = s.feat.contribs ++ grads.flatMap (fun g =>
         ((shardOwners s tb (g.row % tb.shards)).filter (· == devno s)).map fun _ => g) ∧
       (∀ g ∈ grads, ∀ d ∈ shardOwners s tb (g.row % tb.shards), d ≠ devno s → ∀ q, pickPort s d 4 = some q →
         (d, x.part, Msg.update sid x.next g) ∈ tget [] (port u q).queues 4) ∧
       u.obj = s.obj ∧ u.mem = s1.mem ∧
       Only [.now, .mem, .tiers, .helm, .compass, .lb, .feat, .cnt, .links, .streams, .nextSid, .wp, .host, .parts] s u)

/-- An operation that a step of a stream asked for. -/
def ofStep (o : ArrayOp) : Bool := match o.src with | .step .. => true | _ => false

/-- An operation but for what it read as it entered. -/
abbrev unrun (o : ArrayOp) : ArrayOp := { o with run := none }

/-- R107: the state after an operation with nothing else in Helm's hands has been issued: it stands last among those issued,
charged, and has entered the array, whose groups are all on; the register sets it takes are the next in turn. -/
abbrev EnteredLast (s u : State) (o : ArrayOp) : Prop :=
  ∃ r, u.helm.issued = s.helm.issued ++ [{ o with paid := true, run := some r }] ∧ r.sets = nextSets s o ∧
    u.array.groups = 11 ∧ u.array.fill = !o.curLong ∧ u.array.ws = (s.array.ws + r.sets.length) % 8

/-- On a READY device with domains 0 to 14 ON, no swap in progress, no wait satisfied and the operation issued last in the
array, ARRAY_ACCEPTANCE issues one operation: the first to re-execute if there is one, and else, with issue not
stopped and every head passing Helm's check, the one that the two-step choice names. With its context loaded it joins
the issued operations last, leaves its queue (or its stream goes on to the next step), and every partition's credit
lies from -2L to L; with nothing else in Helm's hands it enters the array at once, with every group's clock on. With
another context loaded the swap it needs starts instead. A stream generated for requests starts when it can be
generated and its first step is of a known kind: its steps in order, none started, its requests those it is due for;
one that cannot be generated leaves no trace. CONTEXT_SWAP, with nothing issued: on an array that is switched off, the swap and its operation end, an operation
descriptor's stream DOMAIN_OFF; with domains 0 to 14 ON and a set that can be read, it loads the
context, writes the dirty words back, reads the ranges in, preloads the grammars that are resident, and issues the
operation; with no feature row held for it no word is dirty, and bytes outside the outgoing and incoming ranges read
as before. (R85, R87, R88, R90, R92, R104, R106, R107, R120, R285, R409) -/
def Obligations.HelmIssuesOneOperation : Prop :=
  (∀ (s : State) (t : Nat), isReady s = true → (∀ d ∈ List.range 15, domIs s d .on = true) →
    s.helm.swap = none → NoWaitMet s → lastEntered s = true →
    (let s2 := forEach (tick s t) allParts markBacklog
     let frame : List StateField := [.now, .helm, .array, .parts, .cnt, .streams]
     (∀ o rest, s.helm.rerun = o :: rest → s.helm.ctx = o.ctx →
       ∃ u, exec (.arrayAcceptance t []) s = .next u ∧
         u.helm.issued.map unrun = s.helm.issued.map unrun ++ [unrun { o with paid := true }] ∧ u.helm.rerun = rest ∧
         (s.helm.issued = [] → rest = [] → o.run = none → EnteredLast s u o) ∧
         u.helm.queue = s.helm.queue ∧ u.streams = s.streams ∧ Only frame s u) ∧
     (∀ o, s.helm.rerun = [] → s.helm.stopped = false →
       (∀ p ∈ allParts, ∀ dec ∈ [false, true], (headOp s p dec).bind (checkOp s) = none) →
       (choosePart s2).bind (fun pc => chooseOp s2 pc.1 pc.2) = some o →
       (s.helm.ctx = o.ctx →
         ∃ u, exec (.arrayAcceptance t []) s = .next u ∧
           u.helm.issued.map unrun = s.helm.issued.map unrun ++ [unrun { o with paid := true }] ∧
           (s.helm.issued = [] → o.run = none → EnteredLast s u o) ∧
           u.helm.seq = s.helm.seq + 1 ∧ u.helm.swap = none ∧
           (∀ sid i y, o.src = .step sid i → stream s sid = some y →
             stream u sid = some { y with next := y.next + 1 } ∧ (∀ k, k ≠ sid → stream u k = stream s k)) ∧
           u.helm.queue = (if ofStep o then s.helm.queue else s.helm.queue.erase o) ∧
           (∀ p, p < 12 → -2 * creditBound s ≤ (part u p).credit ∧ (part u p).credit ≤ creditBound s) ∧
           Only frame s u) ∧
       (s.helm.ctx ≠ o.ctx →
         ∃ u, exec (.arrayAcceptance t []) s = .next u ∧ u.helm.swap = some (o.ctx, o) ∧
           u.helm.issued = s.helm.issued ∧ u.array = s.array ∧ Only frame s u)))) ∧
  (∀ (s : State) (t : Nat) (r : ReqStream), isReady s = true → NoWaitMet s → s.helm.stopped = true →
    s.helm.rerun = [] →
    (let hs := r.hs.filter fun h => (rankHere s h.1).isSome && streamDue s r.purpose h.1
     (reqModel s r hs = none → exec (.arrayAcceptance t [r]) s = .next (tick s t)) ∧
     (∀ m, reqModel s r hs = some m → r.purpose ≠ 4 → r.steps ≠ [] → kindOk (r.steps.getD 0 []) = true →
       ∃ u y, exec (.arrayAcceptance t [r]) s = .next u ∧ stream u s.nextSid = some y ∧
         y.req = some ⟨r.purpose, m.uid, hs, r.tiles, r.partials, s.lb.order + 1⟩ ∧ y.steps = r.steps ∧ y.next = 0 ∧
         y.done = [] ∧ y.ended = none ∧ u.nextSid = s.nextSid + 1 ∧ (∀ k, k ≠ s.nextSid → stream u k = stream s k) ∧
         u.lb = { s.lb with order := s.lb.order + 1 } ∧ Only [.now, .lb, .streams, .nextSid] s u))) ∧
  (∀ (s : State) (t took ctx : Nat) (o : ArrayOp), isReady s = true → s.helm.swap = some (ctx, o) → s.helm.issued = [] →
    arrayUp s = false → o.rerun = false → NoWaitMet s →
    ∃ u, exec (.contextSwap t took) s = .next u ∧ u.helm.ctx = s.helm.ctx ∧ u.helm.swap = none ∧ u.helm.issued = [] ∧
      u.array = s.array ∧ ∀ sid i x, o.src = .step sid i → stream s sid = some x → x.req = none → x.ended = none →
        ∀ y, stream u sid = some y → y.ended = some .domainOff) ∧
  (∀ (s : State) (t took ctx : Nat) (o : ArrayOp), isReady s = true → s.helm.swap = some (ctx, o) → s.helm.issued = [] →
    (∀ d ∈ List.range 15, domIs s d .on = true) → ctxBad s ctx = false →
    ∃ u, exec (.contextSwap t took) s = .next u ∧ u.helm.ctx = ctx ∧ u.helm.swap = none ∧
      u.helm.issued.map unrun = [unrun { o with paid := true }] ∧
      (s.helm.rerun = [] → o.run = none → EnteredLast s u o) ∧
      u.mem = (swapTo s ctx).mem ∧ u.lb = (swapTo s ctx).lb ∧
      (∀ c, ctxOf s ctx = some c → u.compass.cache = preloaded s c.grammars) ∧
      ((∀ e ∈ s.lb.work, e.2.featRows = [] ∨ e.2.featCtx ≠ ctx) →
        u.helm.dirty = [] ∧ u.lb = s.lb ∧
        ∀ a, (∀ c, ctxOf s s.helm.ctx = some c → ∀ r ∈ c.ranges, a < r.1 ∨ r.1 + r.2.2 + 64 ≤ a) →
          (∀ c, ctxOf s ctx = some c → ∀ r ∈ c.ranges, a < r.2.1 ∨ r.2.1 + r.2.2 ≤ a) → u.mem.byte a = s.mem.byte a) ∧
      Only [.now, .helm, .compass, .mem, .tiers, .lb, .array, .parts, .cnt] s u)

/-- The bytes of memory after an operation's result has been written (R104, R173): a step's rows at Y_ADDR, the columns of
a table build to its output place; nothing where its input was poisoned. -/
abbrev ResultWritten (s s2 u : State) (o : ArrayOp) (r : OpRun) (ys : List (List Nat)) : Prop :=
  (r.bad = true → u.mem = s.mem ∧ u.bearing.queries = s.bearing.queries) ∧
  (r.bad = false → ofStep o = true →
    u.mem = rowsMem s2 (gY o.step) (gYStride o.step) (arrayOut s o.step r ys) ∧ u.bearing = s.bearing ∧
    ∀ a, OutsideRows s2 (gY o.step) (gYStride o.step) (arrayOut s o.step r ys) a → u.mem.byte a = s.mem.byte a) ∧
  (∀ ix p n j q h, r.bad = false → o.src = .build ix p n j → batchHeader s n = some (q, h) →
    let zs := ys.zipIdx.map fun y => arrayRow r y.2 y.1
    u.mem = zs.zipIdx.foldl (fun m y => m.write (buildOut h j o.n y.2) (f32Bytes y.1)) s.mem ∧
    u.bearing.queries = s.bearing.queries.map fun q => if q.st = .building ∧ q.batch = n
      then { q with built := tset [] q.built j (zs.map fun y => y.getD q.col 0) } else q)

/-- On a READY device the oldest issued operation, once it has entered, completes and leaves the array; those issued after
it stay, and the last may enter. Where its input could be read its result is written: a step's rows at Y_ADDR, a table
build's columns at their place and to its queries, and every other byte of memory reads as before. When no check fails
and no parity error occurred, a step completes, or, its input poisoned, its stream ends DATA_ERROR. When it mismatched
for the first time it is re-executed, ahead of every operation but earlier re-executions, with those that had been
issued and had not entered behind it; the second time its block-lines are suspect and its stream ends CHECK_MISMATCH.
(R105, R108, R110, R116, R117, R118, R119, R173, R297) -/
def Obligations.ArrayResultsAreWrittenOrReexecuted : Prop :=
  ∀ (s : State) (t empty gap : Nat) (ck : Checks) (o : ArrayOp) (r : OpRun) (rest : List ArrayOp), isReady s = true →
    s.helm.issued = o :: rest → o.run = some r →
    (let ys := drainRows r ck
     let v := verdict o r ck ys
     let s2 := idleSlots s o empty gap
     let frame : List StateField := [.now, .mem, .tiers, .helm, .array, .free, .cnt, .parts]
     let bad : List StateField := [.faults, .boot, .flash, .pins, .host, .links, .lb]
     (∀ sid i x, mismatch ck v = false → o.src = .step sid i → stream s sid = some x → x.ended = none → sid < s.nextSid →
       r.bad = false → EndsNoRequest s x x.next →
       ∃ u, exec (.operationComplete t ck empty gap) s = .next u ∧ u.helm.issued.map unrun = rest.map unrun ∧
         ResultWritten s s2 u o r ys ∧ (∀ y, stream u sid = some y → i ∈ y.done) ∧
         ((∀ q, x.req = some q → q.partials.lookup i = none) → u.links = s.links) ∧
         Only ([.streams, .nextSid, .wp, .host, .links] ++ frame) s u) ∧
     (∀ sid i x, mismatch ck v = false → o.src = .step sid i → stream s sid = some x → x.ended = none → x.req = none →
       r.bad = true → NoWaitMet s →
       ∃ u, exec (.operationComplete t ck empty gap) s = .next u ∧ u.helm.issued.map unrun = rest.map unrun ∧
         ResultWritten s s2 u o r ys ∧ (∀ y, stream u sid = some y → y.ended = some .dataError) ∧
         Only ([.streams, .wp, .host] ++ frame) s u) ∧
     (mismatch ck v = false → ofStep o = false → r.bad = false →
       ∃ u, exec (.operationComplete t ck empty gap) s = .next u ∧ u.helm.issued.map unrun = rest.map unrun ∧
         ResultWritten s s2 u o r ys ∧ Only (.bearing :: frame) s u) ∧
     (mismatch ck v = true → o.rerun = false →
       ∃ u, exec (.operationComplete t ck empty gap) s = .next u ∧ u.helm.issued = rest.filter (·.run.isSome) ∧
         u.helm.rerun = s.helm.rerun.filter (·.rerun) ++ [{ o with rerun := true, paid := false, run := none }]
           ++ s.helm.rerun.filter (!·.rerun) ++ rest.filter (·.run.isNone) ++ (s.helm.swap.map (·.2)).toList ∧
         u.helm.swap = none ∧ ResultWritten s s2 u o r ys ∧ Only (.bearing :: frame ++ bad) s u) ∧
     (∀ sid i x, mismatch ck v = true → o.rerun = true → o.src = .step sid i → stream s sid = some x → x.ended = none →
       x.req = none → NoWaitMet s →
       ∃ u, exec (.operationComplete t ck empty gap) s = .next u ∧ u.helm.issued.map unrun = rest.map unrun ∧
         (∀ l ∈ chargedLines s ck v, l ∈ u.array.suspect) ∧ ResultWritten s s2 u o r ys ∧
         (∀ y, stream u sid = some y → y.ended = some .checkMismatch) ∧
         Only ([.streams, .wp] ++ frame ++ bad) s u))

/-- BLOCK_LINE_RETIREMENT, with issue stopped and nothing left in the array or to re-execute, gives the first declared
line its spare and lets issue resume when no other is declared. BANK_RETIREMENT puts the first declared bank among
those out of use, and the logical bank it served on the first spare in service, with the words that could not be read
poisoned there. UNIT_COPY moves the next unit of its tier's first move, poisoned when it cannot be read; the last one
takes the channel out of the interleave. Each finished retirement leaves the declared list and joins the grown defect
log. ARRAY_RAMP_DOWN, with no operation in the array, clocks on, and 512 cycles since a vector entered, leaves on only
the groups that an arriving operation kept from being gated, and stops the dummy fill. No memory byte changes. (R101,
R121, R122, R301, R302, R308, R384, R386) -/
def Obligations.RetirementsTakeTheirSpares : Prop :=
  (∀ (s : State) (t l : Nat) (rest : List Nat), declared s clsLine = l :: rest → s.helm.stopped = true →
    s.helm.issued = [] → s.helm.rerun = [] →
    ∃ u, exec (.blockLineRetirement t) s = .next u ∧
      u.array = (if l < 66 then { s.array with rowSpare := some l } else { s.array with colSpare := some l }) ∧
      u.helm = { s.helm with stopped := !rest.isEmpty } ∧ u.flash.grown = s.flash.grown ++ [(clsLine, l)] ∧
      u.faults.queue = s.faults.queue.erase (clsLine, l) ∧
      Only [.now, .array, .helm, .faults, .flash, .host, .parts, .free, .cnt] s u) ∧
  (∀ (s : State) (bank t : Nat) (bad : List Nat), (declared s clsBank).head? = some bank →
    ∃ u, exec (.bankRetirement bank t bad) s = .next u ∧
      u.tiers = { s.tiers with banks := s.tiers.banks ++ [bank], bankMap := u.tiers.bankMap, poison := u.tiers.poison } ∧
      (∀ l p, logicalBank s bank = some l →
        spareBank { s with tiers := { s.tiers with banks := s.tiers.banks ++ [bank] } } = some p →
        logicalBank u p = some l ∧ u.tiers.bankMap = (l, p) :: s.tiers.bankMap.filter (·.1 != l)) ∧
      (logicalBank s bank = none → u.tiers.bankMap = s.tiers.bankMap ∧ u.tiers.poison = s.tiers.poison) ∧
      (∀ l, logicalBank s bank = some l → ∀ w ∈ bad, ∀ i, i < 8 → (bankAddr l (w % 1024) + 8 * i, 8) ∈ u.tiers.poison) ∧
      (bad = [] → u.tiers.poison = s.tiers.poison) ∧
      u.flash.grown = s.flash.grown ++ [(clsBank, bank)] ∧ u.faults.queue = s.faults.queue.erase (clsBank, bank) ∧
      Only [.now, .tiers, .faults, .flash, .host, .parts, .free, .cnt] s u) ∧
  (∀ (s : State) (tier ch t : Nat) (good : Bool) (m : Move), s.tiers.moves.find? (·.tier == tier) = some m → m.ch = ch →
    (m.next + 1 < m.total →
      ∃ u, exec (.unitCopy tier ch t good) s = .next u ∧
        u.tiers = { s.tiers with poison := u.tiers.poison, moves := s.tiers.moves.map fun x => if x.tier = tier ∧ x.ch = ch
          then { m with next := m.next + 1, poisoned := m.poisoned + if good then 0 else 1 } else x } ∧
        (good = true → u.tiers.poison = s.tiers.poison) ∧
        (good = false → ∀ i, i < 8 → (heldUnit s tier ch m.next + 32 * i, 32) ∈ u.tiers.poison) ∧
        Only [.now, .tiers, .cnt] s u) ∧
    (m.total ≤ m.next + 1 →
      ∃ u, exec (.unitCopy tier ch t good) s = .next u ∧ (tier, ch) ∈ u.tiers.retired ∧
        (∀ x ∈ u.tiers.moves, ¬ (x.tier = tier ∧ x.ch = ch)) ∧ u.flash.grown = s.flash.grown ++ [(memCls tier, ch)] ∧
        u.faults.queue = s.faults.queue.erase (memCls tier, ch) ∧
        Only [.now, .tiers, .cnt, .faults, .flash, .host, .parts, .free] s u)) ∧
  (∀ (s : State) (t gated : Nat), (s.helm.issued.any fun o => o.run.isSome) = false → s.array.groups ≠ 0 →
    s.array.lastAt + arrNs s 512 ≤ max s.now t →
    ∃ u, exec (.arrayRampDown t gated) s = .next u ∧
      u.array = { s.array with groups := min s.array.groups (11 - gated), fill := false } ∧ Only [.now, .array, .cnt] s u)

/-- SCRUB_ACCESS of a healthy channel, a bank in use or the Logbook moves its position to the next unit, or from the last to
the first; a clean unit changes nothing more; a corrected or transient error below its threshold adds one to the window's
count of that resource and to no other (the Logbook's are only counted as events); an uncorrectable unit is poisoned
unless foreground wrote it in between, and then no poison changes; an uncorrectable Logbook word puts the device in
FAULTED. ERROR_WINDOW_BOUNDARY sets every count of its window to 0 and no other. BOARD_WRITE_BACK makes clean every line
that has been dirty for BOARD_WB_MAX_US and the line it names, or takes that out when it is evicted as the least
recently written of its set. STACK_TEMPERATURE_REPORT doubles a stack's refresh above 85 degrees C and not at or below.
Memory bytes stay. (R290, R294, R297, R298, R299, R382, R383) -/
def Obligations.ScrubWindowsAndTheBoardCache : Prop :=
  (∀ (s : State) (tier ch t : Nat) (written : Bool), tier ≤ 3 → scrubbed s tier ch = true →
    (let key := tier * 512 * 16 + ch
     let k := tget 0 s.tiers.scrub key
     let pos := fun (u : State) =>
       tget 0 u.tiers.scrub key = (if scrubUnits s tier ch ≤ k + 1 then 0 else k + 1) ∧
         OnlyAt 0 [key] s.tiers.scrub u.tiers.scrub
     let err := errKey (memCls tier) ch
     (∃ u, exec (.scrubAccess tier ch t .clean written) s = .next u ∧ pos u ∧
        u.tiers = { s.tiers with scrub := u.tiers.scrub } ∧ Only [.now, .tiers, .cnt] s u) ∧
     (tier < 3 → tget 0 s.faults.corrected err < correctedLimit (memCls tier) →
        ∃ u, exec (.scrubAccess tier ch t .corrected written) s = .next u ∧ pos u ∧
          u.tiers = { s.tiers with scrub := u.tiers.scrub } ∧
          tget 0 u.faults.corrected err = tget 0 s.faults.corrected err + 1 ∧
          OnlyAt 0 [err] s.faults.corrected u.faults.corrected ∧
          u.faults = { s.faults with corrected := u.faults.corrected } ∧ Only [.now, .tiers, .cnt, .faults] s u) ∧
     (tier < 3 → tget 0 s.faults.transient err < transientLimit (memCls tier) →
        ∃ u, exec (.scrubAccess tier ch t .transient written) s = .next u ∧ pos u ∧
          u.tiers = { s.tiers with scrub := u.tiers.scrub } ∧
          tget 0 u.faults.transient err = tget 0 s.faults.transient err + 1 ∧
          OnlyAt 0 [err] s.faults.transient u.faults.transient ∧
          u.faults = { s.faults with transient := u.faults.transient } ∧ Only [.now, .tiers, .cnt, .faults] s u) ∧
     (tier < 3 →
        ∃ u, exec (.scrubAccess tier ch t .uncorrectable written) s = .next u ∧ pos u ∧
          (written = false → scrubUnit s tier ch k ∈ u.tiers.poison) ∧
          (written = true → u.tiers.poison = s.tiers.poison) ∧
          Only [.now, .tiers, .cnt, .faults, .boot, .flash, .pins, .host, .parts, .links, .lb] s u) ∧
     (tier = 3 →
        (∀ r, r = .corrected ∨ r = .transient →
          ∃ u, exec (.scrubAccess tier ch t r written) s = .next u ∧ pos u ∧
            u.tiers = { s.tiers with scrub := u.tiers.scrub } ∧ Only [.now, .tiers, .cnt] s u) ∧
        ∃ u, exec (.scrubAccess tier ch t .uncorrectable written) s = .next u ∧ pos u ∧ u.boot.st = .faulted ∧
          Only [.now, .tiers, .cnt, .boot, .flash, .pins, .host, .parts, .links, .lb] s u))) ∧
  (∀ (s : State) (hours t : Nat),
    ∃ u, exec (.errorWindowBoundary hours t) s = .next u ∧
      (∀ k, tget 0 u.faults.transient k = if windowOf (k / 2 ^ 24) true = hours then 0 else tget 0 s.faults.transient k) ∧
      (∀ k, tget 0 u.faults.corrected k = if windowOf (k / 2 ^ 24) false = hours then 0 else tget 0 s.faults.corrected k) ∧
      u.faults = { s.faults with transient := u.faults.transient, corrected := u.faults.corrected } ∧
      Only [.now, .faults] s u) ∧
  (∀ (s : State) (line t : Nat),
    let due := s.tiers.cache.map fun e => match e.2 with
      | some since => if since + boardWbNs s ≤ max s.now t then (e.1, none) else e
      | none => e
    let write := fun c => ({ s.tiers with cache := c } : Tiers)
    (∃ u, exec (.boardWriteBack line t false) s = .next u ∧
      u.tiers = write (due.map fun e => if e.1 = line then (line, none) else e) ∧ Only [.now, .tiers] s u) ∧
    (((setLines s (line % cacheSets s) due).head?.map (·.1)) = some line →
      ∃ u, exec (.boardWriteBack line t true) s = .next u ∧ u.tiers = write (due.filter fun e => e.1 != line) ∧
        Only [.now, .tiers] s u)) ∧
  (∀ (s : State) (stack temp : Nat) (odc : List (Nat × Nat)),
    ∃ u, exec (.stackTemperatureReport stack temp odc) s = .next u ∧ (stack ∈ u.tiers.hot ↔ 85 < temp) ∧
      (∀ k, k ≠ stack → (k ∈ u.tiers.hot ↔ k ∈ s.tiers.hot)) ∧ u.tiers = { s.tiers with hot := u.tiers.hot } ∧
      Only [.tiers, .cnt] s u)

/-- R171-R178: the query of a handle has become `q`, and every other query stays. -/
def QueryBecomes (s u : State) (h : Handle) (q : Query) : Prop :=
  queryOf u h = some q ∧ ∀ x, x ≠ h → queryOf u x = queryOf s x

/-- R184, R186: the list a shard device sends, before its flag words: item and score in list order. -/
def listOf (f : FanOut) (rs : List ShardRec) : List (Nat × Nat) :=
  ((sortBy recAbove rs).take f.shardK).map fun r => (r.item, r.score)

/-- On a READY device: QUERY_FAN_OUT of an index (and filter) whose sections are resident, with Bearing and the array
not all off, holds the query as gathering, scaled as its METRIC says, from its arrival time. TABLE_BATCH_ISSUE, once
the batch of an index and a partition is full or its first query has waited TABLE_WAIT_US, takes the first B_max
gathering queries into the next batch, each with its place as its column, and queues the batch's operations at Helm:
one for each 1,024 dimensions, covering DIM, with one weight column for each query, at the order of the highest-class
query of the batch; no other query moves. DISTANCE_TABLE_WRITE, once no operation of the batch is left, gives the query
from the batch's results its sketch or, when the norms it needs can be read and every value is a number, its exponent
and 16-bit table, and the query is built. (R171, R172, R173, R174, R187) -/
def Obligations.QueriesGatherIntoBatches : Prop :=
  (∀ (s : State) (f : FanOut) (t : Nat) (o : Obj) (h : IndexHeader) (a b : List Obj), isReady s = true →
    bearingUp s = true → arrayUp s = true → indexHeader s f.indexId = some (o, h) → indexNeeds s f.indexId = some a →
    filterNeeds s f.filterId f.indexId = some b →
    ∃ u q, exec (.queryFanOut f t) s = .next u ∧ QueryBecomes s u f.handle q ∧ q.f = f ∧ q.st = .gathering ∧
      q.arrived = max s.now t ∧ q.q = unitScale h.metric f.vec ∧ q.refs = (a ++ b).map (·.uid) ∧
      q.res = [] ∧ q.cand = [] ∧ q.visited = [] ∧ q.evals = 0 ∧
      u.bearing = { s.bearing with queries := u.bearing.queries } ∧ Only [.now, .links, .bearing, .cnt] s u) ∧
  (∀ (s : State) (index p t : Nat) (q0 : Query) (rest : List Query) (h : IndexHeader), isReady s = true →
    gathering s index p = q0 :: rest → qHeader s q0 = some h → batchDue (tick s t) h (q0 :: rest) = true →
    let hs := ((q0 :: rest).take (batchMax h)).map (·.f.handle)
    ∃ u ops, exec (.tableBatchIssue index p t) s = .next u ∧
      u.helm = { s.helm with queue := s.helm.queue ++ ops } ∧
      ops.length = cdiv h.dim 1024 ∧ sumN (ops.map (·.k)) = h.dim ∧
      ops.map (·.src) = (List.range (cdiv h.dim 1024)).map (fun j => .build index p (s.bearing.batches + 1) j) ∧
      (∀ o ∈ ops, o.n = min (batchMax h) (rest.length + 1) ∧ o.ctx = h.ctxId ∧ 1 ≤ o.k ∧ o.k ≤ 1024 ∧
        ∃ r, o.shares = [⟨p, o.m, r⟩] ∧ ∀ q ∈ (q0 :: rest).take (batchMax h), q.f.rank.lt r = false) ∧
      u.bearing = { s.bearing with
        batches := s.bearing.batches + 1
        queries := s.bearing.queries.map fun q =>
          if q.f.handle ∈ hs
          then { q with st := .building, batch := s.bearing.batches + 1, col := hs.idxOf q.f.handle } else q } ∧
      Only [.now, .bearing, .helm] s u) ∧
  (∀ (s : State) (h : Handle) (q : Query) (hd : IndexHeader) (cb : Obj), isReady s = true → queryOf s h = some q →
    q.st = .building → batchRunning s q.batch = false → qHeader s q = some hd →
    heldObj s q.refs 3 hd.codebookObj = some cb →
    let reads : List ObjRead := if hd.metric = 1 then [⟨cb.uid, 64 + normsAt hd, 4 * nCentroids hd⟩] else []
    let vs := (tableVals hd (secBody (qSection s q hd.codebookObj)) (builtVals hd q)).map dec32
    (hd.sketchBits ≠ 0 →
      ∃ u, exec (.distanceTableWrite h) s = .next u ∧
        QueryBecomes s u h { q with st := .built, sketch := sketchOf (builtVals hd q) } ∧ Only [.bearing] s u) ∧
    (hd.sketchBits = 0 → readsOpen s h.part reads = true → readsBad s reads = false → (∀ v ∈ vs, v.isFin = true) →
      ∃ u, exec (.distanceTableWrite h) s = .next u ∧
        QueryBecomes s u h { q with
          st := .built, texp := tableExp vs, table := vs.map fun v => (v.scale (-(tableExp vs))).nearest } ∧
        Only [.bearing, .parts] s u))

/-- R176, R181: what considering items reads of them. -/
abbrev usesOf (s : State) (q : Query) (hd : IndexHeader) (items : List Nat) : List (Nat × Nat) :=
  items.flatMap fun v => (evalKinds s q hd v).map fun k => (k, v)

/-- R181: the prefetch buffer after a step of a walk: no line of another walk has left it, what has joined it is asked for by
this walk, and it holds no more than 262,144 lines. -/
abbrev LinesKept (s u : State) (h : Handle) : Prop :=
  (∀ l ∈ s.bearing.lines, l.h ≠ h → l ∈ u.bearing.lines) ∧
  (∀ l ∈ u.bearing.lines, l ∈ s.bearing.lines ∨ (l.h = h ∧ l.arrived = false)) ∧
  sumN (u.bearing.lines.map (·.lines)) ≤ max 262144 (sumN (s.bearing.lines.map (·.lines)))

/-- R176, R181: the query of a handle has become `q`, but for prefetch reads that were refused and stay refused. -/
def WalkBecomes (s u : State) (h : Handle) (q : Query) : Prop :=
  ∃ rs, QueryBecomes s u h { q with retry := rs } ∧ ∀ r ∈ rs, r ∈ q.retry

/-- On a READY device with Bearing not all off, where the regulators admit what it reads and none of it is poisoned:
WALK_START of the next built query, with a walk slot free, considers the index's entry items in order. WALK_EXPANSION of
a walk whose list still holds an unexpanded entry, with evaluations left, marks the first one expanded and takes in its
neighbours as R176 says; when none is left, or EVAL_MAX is reached, the walk stops and, where items are to be
re-ranked, their full-vector reads start with a deadline RERANK_US later. A lane's parity error changes none of this.
NEIGHBOUR_LIST_ARRIVAL marks the list arrived and prefetches only codes, attributes and bitmap bits of neighbours that
are items and whose visited bit reads 0. The prefetch buffer never grows past 262,144 lines, and no line of another walk
leaves it. PREFETCH_LINE_AGEING frees exactly the lines unused for 200 us. (R175, R176, R177, R178, R180, R181, R185,
R189) -/
def Obligations.WalksExpandAndPrefetch : Prop :=
  let quiet : List StateField := [.now, .bearing, .parts, .cnt]
  let wide : List StateField := [.faults, .boot, .flash, .pins, .host, .links, .lb, .free] ++ quiet
  (∀ (s : State) (h : Handle) (lane : Option Nat) (q : Query) (hd : IndexHeader), isReady s = true → bearingUp s = true →
    nextWalk s = some q → q.f.handle = h → qHeader s q = some hd → activeWalks s < walkSlots hd →
    let used := usesOf s q hd (evaluated s hd { q with f := { q.f with evalMax := 2 ^ 32 } } hd.entries)
    readsOpen s h.part (readsOf s q hd used) = true → readsBad s (readsOf s q hd used) = false →
    ∃ u, exec (.walkStart h lane) s = .next u ∧
      WalkBecomes s u h (hd.entries.foldl (fun q v => consider s hd q v) { q with st := .walking }) ∧
      LinesKept s u h ∧ (lane = none → Only quiet s u) ∧ Only wide s u) ∧
  (∀ (s : State) (h : Handle) (t : Nat) (lane : Option Nat) (q : Query) (hd : IndexHeader), isReady s = true →
    bearingUp s = true → queryOf s h = some q → qHeader s q = some hd → q.st = .walking →
    (∀ c, q.cand.find? (fun e => !e.expanded) = some c → q.evals < q.f.evalMax →
      let q1 : Query := { q with cand := q.cand.map fun e => if e.item = c.item then { e with expanded := true } else e }
      let ns := neighbours s q1 hd c.item
      let q2 := expandList s hd q1 ns
      let used := (0, c.item) :: usesOf s q1 hd (evaluated s hd q1 ns)
      readsOpen s h.part (readsOf s q hd (onDemand s h used)) = true → readsBad s (readsOf s q hd used) = false →
      (q2.evals < q2.f.evalMax →
        ∃ u, exec (.walkExpansion h t lane) s = .next u ∧ WalkBecomes s u h q2 ∧ LinesKept s u h ∧
          (lane = none → Only quiet s u) ∧ Only wide s u) ∧
      (q2.f.evalMax ≤ q2.evals → rerankCount hd q.f ≠ 0 → q2.res ≠ [] →
        ∃ u, exec (.walkExpansion h t lane) s = .next u ∧
          QueryBecomes s u h { q2 with
            st := .rerank, stopAt := max s.now t, wait := (q2.res.take (rerankCount hd q.f)).map (·.item) } ∧
          LinesKept s u h ∧ Only (.tiers :: wide) s u)) ∧
    ((q.cand.find? (fun e => !e.expanded) = none ∨ q.f.evalMax ≤ q.evals) → rerankCount hd q.f ≠ 0 → q.res ≠ [] →
      ∃ u, exec (.walkExpansion h t lane) s = .next u ∧
        QueryBecomes s u h { q with
          st := .rerank, stopAt := max s.now t, wait := (q.res.take (rerankCount hd q.f)).map (·.item) } ∧
        u.tiers = { s.tiers with reads := s.tiers.reads ++
          ((q.res.take (rerankCount hd q.f)).map fun e => ⟨0, h, e.item, max s.now t + q.f.rerankUs * 1000⟩) } ∧
        (∀ l, l ∈ u.bearing.lines ↔ l ∈ s.bearing.lines ∧ l.h ≠ h) ∧ Only [.now, .bearing, .tiers, .cnt] s u)) ∧
  (∀ (s : State) (h : Handle) (item t : Nat),
    (∃ l ∈ s.bearing.lines, l.h = h ∧ l.kind = 0 ∧ l.item = item ∧ l.arrived = false) →
    ∃ u more, exec (.neighbourListArrival h item t) s = .next u ∧
      u.bearing = { s.bearing with
        queries := u.bearing.queries
        lines := (s.bearing.lines.map fun l =>
          if l.h = h ∧ l.kind = 0 ∧ l.item = item then { l with arrived := true, at_ := max s.now t } else l) ++ more } ∧
      (∀ q, queryOf s h = some q → ∃ rs, queryOf u h = some { q with retry := q.retry ++ rs }) ∧
      (∀ x, x ≠ h → queryOf u x = queryOf s x) ∧
      (∀ l ∈ more, l.h = h ∧ (l.kind = 1 ∨ l.kind = 2 ∨ l.kind = 3) ∧
        ∃ q hd, queryOf s h = some q ∧ qHeader s q = some hd ∧ l.item < hd.itemCount ∧
          l.item ∈ neighbours s q hd item ∧ visitBit hd l.item ∉ q.visited) ∧
      sumN (u.bearing.lines.map (·.lines)) ≤ max 262144 (sumN (s.bearing.lines.map (·.lines))) ∧
      walkLines u h ≤ max (walkLines s h) (max 64 (262144 / max 1 (activeWalks s))) ∧ Only quiet s u) ∧
  (∀ (s : State) (t : Nat),
    ∃ u, exec (.prefetchLineAgeing t) s = .next u ∧ u.bearing = { s.bearing with lines := u.bearing.lines } ∧
      (∀ l, l ∈ u.bearing.lines ↔ l ∈ s.bearing.lines ∧ max s.now t < l.at_ + 200000) ∧ Only [.now, .bearing, .cnt] s u)

/-- FULL_VECTOR_ARRIVAL of a vector that is awaited, where the regulators admit it, takes its read off the queue. In time and
correct, its item is scored exactly with flag bit 0; late or uncorrectable, the item keeps its PQ score, or minus
infinity on the sketch path, with flag bit 1, and is counted. While other vectors are awaited the query waits on; after
the last, a query of this device hands the home side its list: item and score in R177's order, at most SHARD_K, and the
query ends here. SKETCH_SCAN, with Bearing not all off and what it reads admitted and not poisoned, ranks the items of
the next 1 MiB of sketches for up to 16 queries of the index and partition in one pass; after the last item each goes on
to exact re-rank, or, with nothing to re-rank, ends with its list sent; no other query moves. That a sketch index with
RERANK_N 0 re-ranks SHARD_K items is the model's choice (assumption log 82). (R177, R184, R185, R186, R188, R189,
R297) -/
def Obligations.ExactScoresAndScansRankItems : Prop :=
  (∀ (s : State) (h : Handle) (item t : Nat) (q : Query) (hd : IndexHeader) (r : ObjRead),
    queryOf s h = some q → q.st = .rerank → item ∈ q.wait → qHeader s q = some hd → hasRead s 0 h item = true →
    vectorRead s q hd item = some r → readsOpen s h.part [r] = true →
    let exact : ShardRec := ⟨item, exactScore hd.metric (queryIn hd.vecFmt q.q).1
      (fmtVals hd.vecFmt (secRec (qSection s q hd.vectorsObj) item) 0 hd.dim), 1⟩
    let rest := q.wait.filter (· != item)
    let intime := max s.now t ≤ q.stopAt + q.f.rerankUs * 1000
    let read := fun (u : State) => u.tiers.reads = s.tiers.reads.filter fun r => !(r.kind == 0 && r.h == h && r.item == item)
    let quiet : List StateField := [.now, .bearing, .tiers, .parts, .cnt]
    let wide : List StateField := [.faults, .boot, .flash, .pins, .host, .lb, .links] ++ quiet
    (readsBad s [r] = false → intime → rest ≠ [] →
      ∃ u, exec (.fullVectorArrival h item t []) s = .next u ∧
        QueryBecomes s u h { q with wait := rest, scored := q.scored ++ [exact] } ∧ read u ∧
        u.tiers = { s.tiers with reads := u.tiers.reads } ∧ Only quiet s u) ∧
    (readsBad s [r] = false → intime → rest = [] → q.f.home = devno s →
      ∃ u rs, exec (.fullVectorArrival h item t []) s = .next u ∧ queryOf u h = none ∧
        u.links.inbox = (devno s, .shardList h (shardRank s q.f.indexId) rs (decide (q.res.length < q.f.shardK))
          q.evals q.subs q.bad) :: s.links.inbox ∧
        rs.map (fun r => (r.item, r.score)) = listOf q.f (q.scored ++ [exact]) ∧
        (∀ x, x ≠ h → queryOf u x = queryOf s x) ∧ Only ([.links, .helm] ++ quiet) s u) ∧
    (∀ e, q.res.find? (·.item == item) = some e → rest ≠ [] →
      let given : Query := { q with
        wait := rest, subs := q.subs + 1
        scored := q.scored ++ [⟨item, if hd.sketchBits ≠ 0 then ninf32 else pqScore hd q e.score, 2⟩] }
      ((readsBad s [r] = true ∨ ¬ intime) →
        ∃ u, exec (.fullVectorArrival h item t []) s = .next u ∧ QueryBecomes s u h given ∧ read u ∧
          u.tiers = { s.tiers with reads := u.tiers.reads } ∧ Only quiet s u) ∧
      (∀ bad, (∃ o ∈ bad, o < r.len) → (placeFor s (.image r.uid)).isSome = true →
        ∃ u, exec (.fullVectorArrival h item t bad) s = .next u ∧ QueryBecomes s u h given ∧ read u ∧ Only wide s u))) ∧
  (∀ (s : State) (index p t : Nat) (lane : Option Nat) (q0 : Query) (hd : IndexHeader), isReady s = true →
    bearingUp s = true → (s.bearing.queries.map (·.f.handle)).Nodup → (scanSet s index p).head? = some q0 →
    qHeader s q0 = some hd →
    let lo := q0.scanAt
    let hi := min hd.itemCount (lo + scanStep hd)
    let sk := (scanRead s q0 hd lo hi 1).toList
    readsOpen s p sk = true → (∀ q ∈ scanSet s index p, readsBad s (sk ++ filterReads s q hd lo hi) = false) →
    ∃ u, exec (.sketchScan index p t lane) s = .next u ∧
      (∀ q ∈ scanSet s index p, ∀ hq, qHeader s q = some hq →
        let q1 := scanQuery s hd lo hi q
        let n := rerankCount hq q.f
        (hi < hd.itemCount → queryOf u q.f.handle = some q1) ∧
        (hi = hd.itemCount → n ≠ 0 → q1.res ≠ [] → queryOf u q.f.handle =
          some { q1 with st := .rerank, stopAt := max s.now t, wait := (q1.res.take n).map (·.item) }) ∧
        (hi = hd.itemCount → (n = 0 ∨ q1.res = []) → queryOf u q.f.handle = none)) ∧
      (∀ x, x ∉ (scanSet s index p).map (·.f.handle) → queryOf u x = queryOf s x) ∧
      (lane = none → Only [.now, .bearing, .tiers, .links, .helm, .parts, .cnt] s u) ∧
      Only [.now, .bearing, .tiers, .links, .helm, .parts, .cnt, .faults, .boot, .flash, .pins, .host, .lb, .free] s u)

/-- R21, R66: the request of a slot has ended: its entry is COMMITTING, and its commit has this status and DETAIL. -/
def Ended (u : State) (slot : Nat) (st : Status) (detail : Nat) : Prop :=
  (entry u slot).st = .committing ∧
    ∃ w c, work u slot = some w ∧ w.commit = some c ∧ c.status = st ∧ c.detail = detail

/-- R21, R47: a request has ended with this status at this stage. -/
def EndedIn (u : State) (slot : Nat) (st : Status) (stage : Nat) : Prop :=
  (entry u slot).st = .committing ∧
    ∃ w c, work u slot = some w ∧ w.commit = some c ∧ c.status = st ∧ c.detail = 0 ∧ c.stage = stage

/-- R93: transfers of a partition in HBM and in board memory may be issued. -/
abbrev RegsOpen (s : State) (p : Nat) : Prop := regOpen s p 0 1 = true ∧ regOpen s p 1 1 = true

/-- R227, R297: no line of a vocabulary is poisoned. -/
abbrev VocabClean (s : State) (v : Obj × VocabObj) : Prop := ∀ line, readsBad s [lineOf v line] = false

/-- R63: the prompt record of a slot has been written as `w` has it, at its place, and nothing else of memory. -/
def PromptWritten (s u : State) (slot : Nat) (w : Work) : Prop :=
  (∀ p, placeFor s (.prompt slot) = some p → u.mem = s.mem.write p.addr ((promptBytes w).take p.len)) ∧
    (placeFor s (.prompt slot) = none → u.mem = s.mem ∧ u.tiers = s.tiers)

/-- Entries of every other slot stay, and of their records all but feature rows that waited for the loaded context. -/
def OtherRows (s u : State) (slot : Nat) : Prop :=
  ∀ k, k ≠ slot → entry u k = entry s k ∧ (work s k = none → work u k = none) ∧
    ∀ x, work s k = some x → ∃ r, work u k = some { x with featRows := r }

/-- R341: a message is delivered here, or stands in the queue of its kind at the port toward its receiver. -/
def SentTo (s u : State) (dev p : Nat) (m : Msg) : Prop :=
  (dev = devno s → (devno s, m) ∈ u.links.inbox) ∧
    (dev ≠ devno s → ∀ q, pickPort s dev m.queue = some q → (dev, p, m) ∈ tget [] (port u q).queues m.queue)

/-- Entries and records of every other slot stay. -/
def OtherSlots (s u : State) (slot : Nat) : Prop := ∀ k, k ≠ slot → entry u k = entry s k ∧ work u k = work s k

/-- R231, R233: the tokens of a text cut to a limit, under one vocabulary. -/
def textToks (s : State) (w : Work) (vocab limit : Nat) (b : List Byte) : List Nat :=
  match heldVocab s w vocab with
  | some v => tokenise v.2 (if b.length ≤ limit then b else cutText b limit)
  | none => []

/-- R213, R215: the pooled vectors of one candidate, as bytes. -/
def featRow (s : State) (w : Work) (pos : Nat) : List Byte :=
  f32Bytes ((heldSet s w).zipIdx.flatMap fun l =>
    match heldFeat s w l.1.table with
    | some t => pooled t l.1.mean (w.featGot.filter fun p => p.cand == pos && p.lookup == l.2)
    | none => [])

/-- Fields an ending request touches on its home device. -/
def endFields : List StateField :=
  [.now, .lb, .parts, .host, .gen, .compass, .bearing, .lists, .links, .helm, .streams, .wp, .cnt]

/-- QUERY_TOKENISATION of a request at stage 1 whose query text may be read, with the Plotter, the array and Arc not off,
the text read, the regulators open and no line of its vocabularies poisoned: the first QUERY_LEN bytes, cut to 32,768 at a
character, are tokenised under the retrieval vocabulary, and under the generation vocabulary where the request needs
another, each list cut to QUERY_TOKENS_MAX; they join the prompt record, and the entry stands in FRONT at stage 3. A
failed read ends the request DATA_ERROR at stage 2. EMBEDDING of a request at stage 3 for which no embedder stream runs,
with the move engines and Sextant not off, keeps the query vector, sends it to the active device of every shard of the
index, takes a free Sextant list of a domain that is ON where there is one, and puts the entry at stage 8 with the merge
empty. (R17, R19, R63, R194, R198, R223, R231) -/
def Obligations.QueriesAreTokenisedAndFannedOut : Prop :=
  (∀ (s : State) (slot t : Nat) (w : Work), atStage s slot 1 = some w →
    regOpen s w.handle.part 4 (dQueryLen w.desc) = true → plotterUp s = true →
    (∀ b : List Byte, arrayUp s = true → arcUp s = true → RegsOpen s w.handle.part →
      (∀ id v, heldVocab s w id = some v → VocabClean s v) →
      ∃ u w', exec (.queryTokenisation slot t (some b)) s = .next u ∧
        (entry u slot).st = .front ∧ (entry u slot).stage = 3 ∧ work u slot = some w' ∧
        w'.retToks = (textToks s w w.prof.retVocab 32768 (b.take (dQueryLen w.desc))).take w.prof.queryMax ∧
        w'.genToks = (if twoVocabs w
          then (textToks s w (genVocabId w.prof) 32768 (b.take (dQueryLen w.desc))).take w.prof.queryMax else w'.retToks) ∧
        w' = { w with retToks := w'.retToks, genToks := w'.genToks,
                      quals := { w.quals with truncated := w'.quals.truncated } } ∧
        PromptWritten s u slot w' ∧ OtherSlots s u slot ∧
        Only [.now, .lb, .parts, .links, .cnt, .vcache, .mem, .tiers, .helm] s u) ∧
    (w.writes = [] → ∃ u, exec (.queryTokenisation slot t none) s = .next u ∧ EndedIn u slot .dataError 2 ∧
      OtherSlots s u slot ∧ Only endFields s u)) ∧
  (∀ (s : State) (slot t : Nat) (vec : List Nat) (w : Work), atStage s slot 3 = some w →
    streamRuns s 0 w.handle = false → movesUp s = true → sextantUp s = true →
    ∃ u w', exec (.embedding slot t vec) s = .next u ∧
      (entry u slot).st = .front ∧ (entry u slot).stage = 8 ∧ work u slot = some w' ∧
      w' = { w with vec := vec, fanoutAt := max s.now t, wanted := (shardsOf s w.prof.indexId).map (·.1), got := [],
                    merge := [], sentTo := w'.sentTo } ∧
      (∀ x ∈ shardsOf s w.prof.indexId, x.2 ∈ w'.sentTo ∧
        SentTo s u x.2 w.handle.part (.fanOut (fanOutOf (devno s) w vec))) ∧
      (∀ d ∈ w.sentTo, d ∈ w'.sentTo) ∧
      ((∃ l < 64, listOn s l = true ∧ l ∉ s.lists.map (·.1)) →
        ∃ l < 64, listOn s l = true ∧ l ∉ s.lists.map (·.1) ∧ u.lists = s.lists ++ [(l, w.handle)]) ∧
      ((∀ l < 64, listOn s l = true → l ∈ s.lists.map (·.1)) → u.lists = s.lists) ∧
      OtherSlots s u slot ∧ Only [.now, .lb, .links, .lists] s u)

/-- SHARD_LIST_RECEIVE at stage 8, no later than MERGE_DEADLINE_US after the fan-out: the first list of a wanted rank, when
others are missing, enters the merge list (bounded by SEARCH_K) and, with a substitution on its shard, degrades the
request, and nothing else of the request changes; while the merge holds no Sextant list it waits and nothing changes; a
second list of the same rank changes nothing of the Logbook; nor does a list for a request that has ended. MERGE_DEADLINE
once MERGE_DEADLINE_US have passed since the fan-out: with fewer lists than MIN_SHARDS the request ends DATA_ERROR with
DETAIL the missing shards; else a SEARCH request whose output may be written ends with the first qualifier that applies
(degraded where a shard is missing or a score was substituted, short where the list is, truncated where the buffer is),
DETAIL the missing shards for OK_DEGRADED, and its whole records written; any other request goes on to its texts with the
merged list as its candidates. (R20, R21, R22, R40, R47, R185, R192, R194, R198, R200, R201, R202) -/
def Obligations.MergesCollectTheLists : Prop :=
  (∀ (s : State) (h : Handle) (slot rank t : Nat) (recs : List ShardRec) (short : Bool) (subs : Nat) (w : Work),
    liveSlot s h = some slot → atStage s slot 8 = some w → max s.now t ≤ w.fanoutAt + w.prof.mergeUs * 1000 →
    (∀ l, rank ∈ w.wanted → rank ∉ w.got → Sys2Proof.Machine.listOf s h = some l →
      (insertNat rank w.got).length ≠ w.wanted.length →
      ∃ u, exec (.shardListReceive h rank t recs short subs) s = .next u ∧
        work u slot = some { (if subs = 0 then w else degrade w) with
          got := insertNat rank w.got, merge := putElems (dSearchK w.desc) w.merge (elemsOf rank recs) } ∧
        (∀ k, entry u k = entry s k) ∧ (∀ k, k ≠ slot → work u k = work s k) ∧ Only [.now, .links, .lb, .cnt] s u) ∧
    (rank ∈ w.wanted → rank ∉ w.got → Sys2Proof.Machine.listOf s h = none →
      exec (.shardListReceive h rank t recs short subs) s = .next s) ∧
    (rank ∈ w.got →
      ∃ u, exec (.shardListReceive h rank t recs short subs) s = .next u ∧ u.lb = s.lb ∧ Only [.now, .links, .cnt] s u)) ∧
  (∀ (s : State) (h : Handle) (rank t : Nat) (recs : List ShardRec) (short : Bool) (subs : Nat), liveSlot s h = none →
    ∃ u, exec (.shardListReceive h rank t recs short subs) s = .next u ∧ Only [.now, .links, .cnt] s u) ∧
  (∀ (s : State) (slot t : Nat) (w : Work), atStage s slot 8 = some w → (entry s slot).st = .front → w.writes = [] →
    w.fanoutAt + w.prof.mergeUs * 1000 ≤ max s.now t →
    let missing := w.wanted.length - w.got.length
    let quals : Quals := { w.quals with
      degraded := w.quals.degraded || missing != 0 || w.merge.any fun e => bit e.flags 1
      short := w.quals.short || decide (w.merge.length < dSearchK w.desc) }
    let fit := min w.merge.length ((entry s slot).outLen / 16)
    (w.got.length < w.prof.minShards →
      ∃ u, exec (.mergeDeadline slot t) s = .next u ∧ Ended u slot .dataError missing ∧ OtherSlots s u slot ∧
        Only endFields s u) ∧
    (w.prof.minShards ≤ w.got.length → dLast w.desc = 0 → regOpen s w.handle.part 4 (16 * fit) = true →
      let st := qualStatus { quals with truncated := quals.truncated || decide (fit < w.merge.length) }
      ∃ u, exec (.mergeDeadline slot t) s = .next u ∧ Ended u slot st (if st = .okDegraded then missing else 0) ∧
        (entry u slot).outBytes = 16 * fit ∧
        ((part s w.handle.part).cqWait = [] → (entry s slot).mirrored = false →
          ∀ i c, i < fit → (w.merge.map candOf)[i]? = some c →
            (∀ j, j < 16 → (entry s slot).outAddr + 16 * i + j < cqSlot s w.handle.part ∨
              cqSlot s w.handle.part + 32 ≤ (entry s slot).outAddr + 16 * i + j) →
            BytesAt u.host.mem ((entry s slot).outAddr + 16 * i) (outRecord c.item c.rank (c.flags % 4) c.score)) ∧
        OtherSlots s u slot ∧ Only endFields s u) ∧
    (w.prof.minShards ≤ w.got.length → dLast w.desc ≠ 0 →
      (∃ e ∈ w.merge, reachable s (ownerOf s w e.rank) = true) →
      ∃ u w', exec (.mergeDeadline slot t) s = .next u ∧ (entry u slot).st = .front ∧ (entry u slot).stage = 9 ∧
        work u slot = some w' ∧ w'.fetchAt = max s.now t ∧ w'.missing = missing ∧ w'.quals = quals ∧
        w'.cands.map (fun c => (c.item, c.rank, c.score)) = w.merge.map (fun e => (e.item, e.rank, e.key)) ∧
        (∀ c ∈ w'.cands, c.fetch = (if reachable s (ownerOf s w c.rank) then TextSt.wanted else .absent)) ∧
        (∀ c ∈ w'.cands, c.fetch = .wanted → SentTo s u (ownerOf s w c.rank) w.handle.part
          (.fetch w.handle w.prof.indexId c.item (max s.now t + w.prof.fetchUs * 1000))) ∧
        OtherSlots s u slot ∧ Only [.now, .lb, .links, .lists, .cnt] s u))

/-- PASSAGE_FETCH on a device that is not READY answers NOT_READY; on a READY one it answers DATA_ERROR where the fetch is
past its deadline, its index has no set, the item no entry, or a die that holds the record is retired, DOMAIN_OFF where
the record's flash group is not ON, and else, with bandwidth, the text and key block of the record whose codewords were
correct and whose header agrees. PASSAGE_TEXT_RECEIVE at stage 9, in time, gives the candidate of that shard and item its
text; one that failed, other than for a flash group, leaves it without text; while other texts are awaited the request
waits, and after the last it goes on to stage 10, degraded where a passage has no text. READ_DEADLINE_REMOVAL leaves no
read past its deadline in the queue but a prefix read-back, and neither a fetch nor a lookup past its deadline among the
messages. (R163, R185, R240, R304, R305, R317, R332) -/
def Obligations.PassageTextsComeOrAreMissed : Prop :=
  (∀ (s : State) (home : Nat) (h : Handle) (index item t : Nat) (good : Bool),
    let text : Status → List Byte → List Nat → Msg := fun st b k => .text h (shardRank s index) item st b k
    (isReady s = false →
      ∃ u, exec (.passageFetch home h index item t good) s = .next u ∧
        SentTo s u home h.part (text .notReady [] []) ∧ Only [.now, .links] s u) ∧
    (isReady s = true → fetchLate (tick s t) home h index item = true →
      ∃ u, exec (.passageFetch home h index item t good) s = .next u ∧
        SentTo s u home h.part (text .dataError [] []) ∧ Only [.now, .links, .cnt] s u) ∧
    (isReady s = true → fetchLate (tick s t) home h index item = false →
    ((setOf s index).bind (fun x => dirOf x item) = none →
      ∃ u, exec (.passageFetch home h index item t good) s = .next u ∧
        SentTo s u home h.part (text .dataError [] []) ∧ Only [.now, .links] s u) ∧
    (∀ x e, setOf s index = some x → dirOf x item = some e →
      ((∃ d ∈ recDies s e, d ∈ s.ps.deadDies) →
        ∃ u, exec (.passageFetch home h index item t good) s = .next u ∧
          SentTo s u home h.part (text .dataError [] []) ∧ Only [.now, .links] s u) ∧
      ((∀ d ∈ recDies s e, d ∉ s.ps.deadDies) →
      ((∃ d ∈ recDies s e, domIs s (flashDom s d) .on = false) →
        ∃ u, exec (.passageFetch home h index item t good) s = .next u ∧
          SentTo s u home h.part (text .domainOff [] []) ∧ Only [.now, .links] s u) ∧
      (∀ r, (∀ d ∈ recDies s e, domIs s (flashDom s d) .on = true) → regOpen s h.part 2 (codewordBytes e) = true →
        tget none x.recs item = some r →
        (good = true → headerOk r item e = true →
          ∃ u, exec (.passageFetch home h index item t good) s = .next u ∧
            SentTo s u home h.part (text .ok r.text r.keys) ∧ Only [.now, .links, .parts] s u) ∧
        ((good = false ∨ headerOk r item e = false) →
          ∃ u, exec (.passageFetch home h index item t good) s = .next u ∧
            SentTo s u home h.part (text .dataError [] []) ∧ Only [.now, .links, .parts] s u)))))) ∧
  (∀ (s : State) (slot rank item t : Nat) (st : Status) (text : List Byte) (keys : List Nat) (w : Work),
    atStage s slot 9 = some w → (∃ c ∈ w.cands, c.rank = rank ∧ c.item = item ∧ c.fetch = .wanted) →
    max s.now t ≤ w.fetchAt + w.prof.fetchUs * 1000 → st ≠ .domainOff → st ≠ .cancelled →
    let cands := w.cands.map fun c =>
      if c.rank = rank ∧ c.item = item then
        (if st = .ok then { c with fetch := .here, text := text, keys := keys }
         else { c with fetch := if c.fetch = .wanted then .absent else c.fetch })
      else c
    let more := ∃ c ∈ w.cands, c.fetch = .wanted ∧ (c.rank ≠ rank ∨ c.item ≠ item)
    (more →
      ∃ u, exec (.passageTextReceive slot rank item t st text keys) s = .next u ∧
        work u slot = some { w with cands := cands } ∧ (∀ k, entry u k = entry s k) ∧
        (∀ k, k ≠ slot → work u k = work s k) ∧ Only [.now, .links, .lb] s u) ∧
    (¬ more → plotterUp s = true →
      ∃ u w', exec (.passageTextReceive slot rank item t st text keys) s = .next u ∧ work u slot = some w' ∧
        w'.cands = cands ∧ (entry u slot).stage = 10 ∧
        (w'.quals.degraded = true ↔ w.quals.degraded = true ∨ ∃ c ∈ cands, c.fetch = .absent) ∧
        OtherSlots s u slot ∧ Only [.now, .links, .lb] s u)) ∧
  (∀ (s : State) (t : Nat),
    ∃ u, exec (.readDeadlineRemoval t) s = .next u ∧ u.now = max s.now t ∧
      (∀ r ∈ u.tiers.reads, r ∈ s.tiers.reads ∧ (r.kind = 1 ∨ max s.now t ≤ r.deadline)) ∧
      (∀ r ∈ s.tiers.reads, (r.kind = 1 ∨ max s.now t ≤ r.deadline) → r ∈ u.tiers.reads) ∧
      (∀ m ∈ u.links.inbox, lateRead (max s.now t) m.2 = false) ∧ Only (.tiers :: endFields) s u)

/-- PASSAGE_TOKENISATION at stage 10 (regulators open, no line of its vocabularies and no row of its tables poisoned)
tokenises every passage with text, cut to PASSAGE_BYTES_MAX, builds the pairs of the candidates scored, and the request
enters stage 11, where, with a feature set, its rows must fit their stride (else LIMIT_EXCEEDED). FEATURE_LOOKUP on an
owner, with the regulators open, answers each item with its partial sum and row count; a row that cannot be read answers
DATA_ERROR, as does a lookup past its deadline; NO_RESOURCE without the table, NOT_READY or DOMAIN_OFF of the device.
FEATURE_PARTIAL_RECEIVE takes a wanted partial in time; after the last one the pooled vectors stand at each scored
candidate's row, and no other byte of memory changes, once the head's context is loaded: with another loaded they wait.
FEATURE_DEADLINE replaces every partial still wanted by k times the default row, and the request is degraded. (R208,
R212, R213, R214, R215, R216, R223, R233, R237, R297, R304) -/
def Obligations.FeaturesArePooledOrReplaced : Prop :=
  (∀ (s : State) (slot t : Nat) (w : Work), atStage s slot 10 = some w → (entry s slot).st = .front → w.writes = [] →
    arrayUp s = true → arcUp s = true → sextantUp s = true → (w.prof.featSet = 0 ∨ featureUp s = true) →
    (w.cands.map fun c => (c.rank, c.item)).Nodup → RegsOpen s w.handle.part →
    (∀ id v, heldVocab s w id = some v → VocabClean s v) →
    (∀ id o tb row, heldFeatObj s w id = some (o, tb) → readsBad s [rowRead o tb row] = false) →
    let size := sumN ((heldSet s w).map fun l => match heldFeat s w l.table with | some t => 4 * rowElts t | none => 0)
    ((w.prof.featSet = 0 ∨ size ≤ w.prof.featStride) →
      ∃ u w', exec (.passageTokenisation slot t) s = .next u ∧ (entry u slot).stage = 11 ∧ (entry u slot).st = .front ∧
        work u slot = some w' ∧
        w'.cands = w.cands.map (fun c => if c.fetch = .here then
          let r := textToks s w w.prof.retVocab w.prof.passageMax c.text
          { c with retToks := r
                   genToks := if twoVocabs w then textToks s w (genVocabId w.prof) w.prof.passageMax c.text else r }
          else c) ∧
        (∀ tp v, heldTemplate s w w.prof.pairTemplate = some tp → heldVocab s w w.prof.retVocab = some v →
          w'.pairs = pairsFor tp v.2 w') ∧
        (w.prof.featSet = 0 → w' = { w with cands := w'.cands, pairs := w'.pairs, quals := w'.quals } ∧
          OtherSlots s u slot ∧ Only [.now, .lb, .vcache, .cnt, .parts] s u) ∧
        (w.prof.featSet ≠ 0 → w'.featAt = max s.now t) ∧
        OtherRows s u slot ∧ Only [.now, .lb, .vcache, .cnt, .parts, .feat, .links, .mem, .tiers, .helm] s u) ∧
    (w.prof.featSet ≠ 0 → w.prof.featStride < size →
      ∃ u, exec (.passageTokenisation slot t) s = .next u ∧ EndedIn u slot .limitExceeded 11 ∧
        OtherSlots s u slot ∧ Only (.vcache :: endFields) s u)) ∧
  (∀ (s : State) (home : Nat) (h : Handle) (deadline : Nat) (items : List LookupItem) (t : Nat),
    (isReady s = false →
      ∃ u, exec (.featureLookup home h deadline items t) s = .next u ∧
        SentTo s u home h.part (.lookupRefused h items .notReady) ∧ Only [.now, .links] s u) ∧
    (isReady s = true → featureUp s = false →
      ∃ u, exec (.featureLookup home h deadline items t) s = .next u ∧
        SentTo s u home h.part (.lookupRefused h items .domainOff) ∧ Only [.now, .links] s u) ∧
    (isReady s = true → featureUp s = true → deadline < max s.now t →
      ∃ u, exec (.featureLookup home h deadline items t) s = .next u ∧
        SentTo s u home h.part (.lookupRefused h items .dataError) ∧ Only [.now, .links, .cnt] s u) ∧
    (isReady s = true → featureUp s = true → max s.now t ≤ deadline → RegsOpen s h.part →
      ∃ u, exec (.featureLookup home h deadline items t) s = .next u ∧
        (∀ x ∈ items, match featTableOf s x.table with
          | some (o, tb) =>
            ((∀ row ∈ x.rows, readsBad s [rowRead o tb row] = false) → SentTo s u home h.part
              (.partialSum h ⟨x.cand, x.lookup, tb.thisShard, poolRows tb x.rows, x.rows.length⟩)) ∧
            (o.tier ≠ 1 → (∃ row ∈ x.rows, readsBad s [rowRead o tb row] = true) →
              SentTo s u home h.part (.lookupRefused h [x] .dataError))
          | none => SentTo s u home h.part (.lookupRefused h [x] .noResource)) ∧
        Only [.now, .links, .feat, .cnt, .parts] s u)) ∧
  (∀ (s : State) (slot t : Nat) (p : Partial) (w : Work) (x : FeatWait), atStage s slot 11 = some w →
    w.featWait.find? (fun x => x.cand == p.cand && x.lookup == p.lookup && x.shard == p.shard) = some x →
    max s.now t ≤ w.featAt + w.prof.featUs * 1000 →
    let w' := { w with featWait := w.featWait.erase x, featGot := w.featGot ++ [p] }
    let rowAt := fun pos => w.prof.featAddr + pos * w.prof.featStride
    (w'.featWait ≠ [] →
      ∃ u, exec (.featurePartialReceive slot p t) s = .next u ∧ work u slot = some w' ∧ (∀ k, entry u k = entry s k) ∧
        (∀ k, k ≠ slot → work u k = work s k) ∧ Only [.now, .links, .lb] s u) ∧
    (w'.featWait = [] → w.prof.featSet ≠ 0 → (s.lb.work.map (·.1)).Nodup →
      (∀ e ∈ s.lb.work, e.1 ≠ slot → e.2.featRows = [] ∨ e.2.featCtx ≠ s.helm.ctx) →
      (headCtx s w = s.helm.ctx →
        ∃ u, exec (.featurePartialReceive slot p t) s = .next u ∧
          work u slot = some { w' with featRows := [], featCtx := headCtx s w } ∧
          ((∀ pos ∈ scoredPos w, (featRow s w' pos).length ≤ w.prof.featStride) →
            ∀ pos ∈ scoredPos w, BytesAt u.mem (rowAt pos) (featRow s w' pos)) ∧
          (∀ a, (∀ pos ∈ scoredPos w, a < rowAt pos ∨ rowAt pos + (featRow s w' pos).length ≤ a) →
            u.mem.byte a = s.mem.byte a) ∧
          (∀ k, entry u k = entry s k) ∧ (∀ k, k ≠ slot → work u k = work s k) ∧
          Only [.now, .links, .lb, .mem, .tiers, .helm] s u) ∧
      (headCtx s w ≠ s.helm.ctx →
        ∃ u, exec (.featurePartialReceive slot p t) s = .next u ∧
          work u slot = some { w' with
            featRows := (scoredPos w).map fun pos => (rowAt pos, featRow s w' pos), featCtx := headCtx s w } ∧
          (∀ k, entry u k = entry s k) ∧ (∀ k, k ≠ slot → work u k = work s k) ∧ Only [.now, .links, .lb] s u))) ∧
  (∀ (s : State) (slot t : Nat) (w : Work), atStage s slot 11 = some w → w.featWait ≠ [] →
    w.featAt + w.prof.featUs * 1000 ≤ max s.now t →
    ∃ u w', exec (.featureDeadline slot t) s = .next u ∧ work u slot = some w' ∧ w'.featWait = [] ∧
      w'.quals.degraded = true ∧
      w'.featGot = w.featGot ++ w.featWait.filterMap (fun x =>
        ((heldSet s w)[x.lookup]?).bind fun l => (heldFeat s w l.table).map fun tb => defaultPartial tb x) ∧
      (entry u slot) = entry s slot ∧ OtherRows s u slot ∧ Only [.now, .lb, .cnt, .mem, .tiers, .helm] s u)

/-- CROSS_ENCODER_RERANK at stage 11, with a free Sextant list, no partial awaited, the feature rows in the head's context
and no stream of the encoder or the head running for the request, gives each scored candidate its score and orders the
merged list: scored candidates first, by score, then every other item in merged order, each position once. A RERANK
request whose output may be written ends there with its records; another goes on to stage 12 (with the Plotter not off).
PACKING at stage 12, with the regulators open and no line of the vocabulary poisoned, builds the prompt from the
template's segments, the query tokens and the packed passages, each packed passage the front of a passage's tokens, and
the prompt record holds it; with one query segment and at most one passages segment it never exceeds the budget. A PACK
request whose output may be written ends there; another goes on to stage 13. Fixed tokens past the budget end the request
LIMIT_EXCEEDED. (R20, R40, R63, R194, R203, R208, R238, R239) -/
def Obligations.RerankAndPackOrderPassages : Prop :=
  (∀ (s : State) (slot t : Nat) (scores : List Nat) (w : Work), atStage s slot 11 = some w →
    (entry s slot).st = .front → w.writes = [] → w.featWait = [] → w.featRows = [] → (freeList s).isSome = true →
    streamRuns s 1 w.handle = false → streamRuns s 2 w.handle = false →
    let sc := (scoredPos w).zipIdx.map fun x => (x.1, scores.getD x.2 nan32)
    let order := rerankOrder w.cands.length sc
    let cands := w.cands.zipIdx.map fun c => { c.1 with ce := sc.lookup c.2 }
    order.Perm (List.range w.cands.length) ∧
    (dLast w.desc ≠ 1 → plotterUp s = true →
      ∃ u, exec (.crossEncoderRerank slot t scores) s = .next u ∧
        work u slot = some { w with cands := cands, order := order } ∧ (entry u slot).stage = 12 ∧
        (entry u slot).st = .front ∧ OtherSlots s u slot ∧ Only [.now, .lb, .cnt] s u) ∧
    (dLast w.desc = 1 →
      let fit := min w.cands.length ((entry s slot).outLen / 16)
      let st := qualStatus { w.quals with truncated := w.quals.truncated || decide (fit < w.cands.length) }
      regOpen s w.handle.part 4 (16 * fit) = true →
      ∃ u, exec (.crossEncoderRerank slot t scores) s = .next u ∧
        Ended u slot st (if st = .okDegraded then w.missing else 0) ∧ (entry u slot).outBytes = 16 * fit ∧
        OtherSlots s u slot ∧ Only endFields s u)) ∧
  (∀ (s : State) (slot t : Nat) (w : Work) (tp : TemplateObj) (v : Obj × VocabObj), atStage s slot 12 = some w →
    (entry s slot).st = .front → w.writes = [] →
    heldTemplate s w w.prof.promptTemplate = some tp → heldVocab s w (genVocabId w.prof) = some v →
    (workBudget w < fixedTokens tp w.genToks →
      ∃ u, exec (.packing slot t) s = .next u ∧ EndedIn u slot .limitExceeded 12 ∧ OtherSlots s u slot ∧
        Only endFields s u) ∧
    (fixedTokens tp w.genToks ≤ workBudget w → RegsOpen s w.handle.part → VocabClean s v →
      ∃ prompt psgs, prompt = assemble tp w.genToks psgs ∧
        (∀ x ∈ psgs, ∃ c ∈ w.cands, c.fetch = .here ∧ x <+: c.genToks) ∧
        ((tp.segs.filter (·.1 == 1)).length = 1 → (tp.segs.filter fun g => 2 ≤ g.1).length ≤ 1 →
          prompt.length ≤ workBudget w) ∧
        (dLast w.desc ≠ 2 →
          ∃ u, exec (.packing slot t) s = .next u ∧ work u slot = some { w with prompt := prompt } ∧
            (entry u slot).stage = 13 ∧ (entry u slot).st = .front ∧ PromptWritten s u slot { w with prompt := prompt } ∧
            OtherSlots s u slot ∧ Only [.now, .lb, .links, .cnt, .vcache, .parts, .mem, .tiers, .helm] s u) ∧
        (dLast w.desc = 2 →
          let fit := min prompt.length ((entry s slot).outLen / 4)
          let st := qualStatus { w.quals with truncated := w.quals.truncated || decide (fit < prompt.length) }
          regOpen s w.handle.part 4 (4 * fit) = true →
          ∃ u, exec (.packing slot t) s = .next u ∧ Ended u slot st (if st = .okDegraded then w.missing else 0) ∧
            (entry u slot).outBytes = 4 * fit ∧ PromptWritten s u slot { w with prompt := prompt } ∧
            OtherSlots s u slot ∧ Only ([.vcache, .mem, .tiers] ++ endFields) s u)))

/-- R257, R258: the reuse run of a prompt: the entries that hit, from block 0 to the first that does not. -/
def reuseRun (s : State) (o : GenOrder) : List PfxEntry :=
  (((List.range (nBlocks o.toks.length)).map fun b => (lookUp s o b).1).takeWhile (·.isSome)).filterMap id

/-- R204: the token a sequence samples from a logit row. -/
def sampledTok (q : Sequence) (row : List Nat) (mask : Option (List Nat)) : Nat :=
  (sampleRow mask row q.o.temp q.o.topP q.o.topK q.o.seed q.pos).tok

/-- PREFIX_LOOKUP of a request at stage 13 whose prompt is as long as its model's context ends it LIMIT_EXCEEDED. Else
it hashes every block; with PREFIX_MODE not 0 the reuse run is the leading blocks that hit, each pinned with its age
0. With no block of the run in the spill area the entry goes on to WAIT_PREFILL, stage 14, and this member has its job;
else it stays at stage 13 for the read-backs. PREFILL_ADMISSION on a member that the job has reached, with its scratch
free, takes one block for each of the request's blocks divided among the members, and tells the home device. At home a
member's admission is noted; when every member has admitted it and this device holds the reservation, with no reused block
poisoned, the entry enters PREFILL with this device as its decode device, where the sequence opens. (R18, R65, R250, R253,
R255, R257, R258, R266) -/
def Obligations.PrefixesAreLookedUpAndPrefillIsAdmitted : Prop :=
  (∀ (s : State) (slot t : Nat) (w : Work) (m : ModelObj), atPrefix s slot = some w →
    ((entry s slot).st = .front ∨ (entry s slot).st = .waitPrefill) → w.hashes = [] → heldModel s w = some m →
    (m.maxContext ≤ (fullPrompt w).length → w.writes = [] →
      ∃ u, exec (.prefixLookup slot t) s = .next u ∧ EndedIn u slot .limitExceeded 13 ∧ OtherSlots s u slot ∧
        Only endFields s u) ∧
    ((fullPrompt w).length < m.maxContext → fullPrompt w ≠ [] →
      let hs := promptHashes w.prof.genModel (dVariant w.desc) (fullPrompt w)
      let run := if w.prof.prefixMode = 0 then []
        else reuseRun s (orderOf s slot { w with hashes := hs, reuse := 0, late := [] } 0xFFFF)
      ∃ u w', exec (.prefixLookup slot t) s = .next u ∧ work u slot = some w' ∧ w'.hashes = hs ∧
        w'.reuse = run.length ∧ w'.pins = w.pins ++ run.map (fun e => (e.spill, e.g, e.idx)) ∧ w'.late = [] ∧
        w'.prefixAt = max s.now t ∧
        (∀ e ∈ run, ∃ x ∈ tget [] u.gen.pfx (bucketOf e.hash), sameBlock x e = true ∧ 1 ≤ x.pin ∧ x.age = 0) ∧
        ((∀ e ∈ run, e.spill = false) → (entry u slot).st = .waitPrefill ∧ (entry u slot).stage = 14 ∧
          (∃ j, jobOf u w.handle = some j ∧ j.o.toks = fullPrompt w ∧ j.o.hashes = hs ∧ j.o.reuse = run.length ∧
            (run = [] → j.prefixIn = true) ∧ (jobOf s w.handle = none → run ≠ [] → j.prefixIn = false))) ∧
        ((∃ e ∈ run, e.spill = true) → (entry u slot).stage = 13 ∧ w'.readBacks ≠ []) ∧
        OtherSlots s u slot ∧ Only [.now, .lb, .gen, .tiers, .parts, .links, .cnt] s u)) ∧
  (∀ (s : State) (h : Handle) (t g : Nat) (j : PrefillJob) (r : List Nat × State), isReady s = true →
    jobOf s h = some j → j.admitted = false → gslotOf s j.o.model = some g → stageUnitUp s 14 = true →
    let n := cdiv (nBlocks j.o.toks.length) j.o.group.length
    n ≤ unreserved s g → takeMany (tick s t) g n = some r → j.o.home ≠ devno s →
    r.1.length = n ∧
    ∃ u, exec (.prefillAdmission h (devno s) t) s = .next u ∧
      jobOf u h = some { j with admitted := true, scratch := r.1, gslot := g } ∧
      SentTo s u j.o.home h.part (.prefillAdmit h) ∧ Only [.now, .gen, .links, .mem, .tiers] s u) ∧
  (∀ (s : State) (h : Handle) (member slot t : Nat) (w : Work), isReady s = true → member ≠ devno s →
    member ∈ groupOf s → liveSlot s h = some slot → work s slot = some w → w.handle = h →
    (entry s slot).st = .waitPrefill → (entry s slot).stage = 14 →
    ((∃ d ∈ groupOf s, d ≠ member ∧ d ∉ w.admittedBy) →
      ∃ u, exec (.prefillAdmission h member t) s = .next u ∧
        work u slot = some { w with admittedBy := insertNat member w.admittedBy } ∧ (∀ k, entry u k = entry s k) ∧
        (∀ k, k ≠ slot → work u k = work s k) ∧ Only [.now, .links, .lb] s u) ∧
    ((∀ d ∈ groupOf s, d = member ∨ d ∈ w.admittedBy) → stageUnitUp s 14 = true → (tableOf s h).isSome = true →
      (∀ q ∈ s.gen.seqs, q.o.h = h → q.o.home = devno s) →
      (∀ g m, gslotOf s w.prof.genModel = some g → heldModel s w = some m →
        ∀ x ∈ reusedBlocks w (orderOf s slot w 0xFFFF), poisoned s (kvAddr s false g x.2) (blockBytes m) = false) →
      ∃ u, exec (.prefillAdmission h member t) s = .next u ∧ (entry u slot).st = .prefill ∧
        (entry u slot).kvDev = devno s ∧ (seqOf u h).isSome = true ∧ OtherSlots s u slot ∧
        Only [.now, .links, .lb, .parts, .gen, .compass, .mem, .tiers, .cnt] s u))

/-- PARTIAL_ROWS_RECEIVE on an admitted job keeps a member's partial rows; once every member's are in, the row is their
sum from +0 in ascending member order and the partials go; without such a job they are a late result. PREFILL_DONE of a
job with its prefix slices and a decode device, with no prefill stream running for it, no slice poisoned and the
regulators open, sends every slice of its blocks, as it stands in the scratch, and its logit share there.
RESHARD_SLICE_RECEIVE, with the regulators open: a new slice is counted once and written into its block at its member's
place, its block is entered when every member's layers of it are here, and a member whose last slice this is gets an
acknowledgement; a slice counted before changes nothing; a logit share joins the others; with every block of the prompt
entered and every share in, and a Sextant list free, the first token of a sequence under no grammar goes to its home
device. RESHARD_ACK_RECEIVE frees the member's scratch and ends its job. (R24, R27, R65, R204, R247, R265, R267, R268) -/
def Obligations.PrefillRowsSlicesAndAcknowledgements : Prop :=
  (∀ (s : State) (h : Handle) (member row : Nat) (vals : List Nat), jobOf s h = none →
    ∃ u, exec (.partialRowsReceive h member row vals) s = .next u ∧ Only [.links, .cnt] s u) ∧
  (∀ (s : State) (h : Handle) (member row : Nat) (vals : List Nat) (j : PrefillJob), jobOf s h = some j →
    j.admitted = true → member ∈ j.o.group →
    let parts := j.o.group.map fun m => if m = member then some vals
      else (j.rows.find? fun x => x.1 == row && x.2.1 == m).map (·.2.2)
    ∃ u j', exec (.partialRowsReceive h member row vals) s = .next u ∧ jobOf u h = some j' ∧
      (none ∈ parts → j'.hidden = j.hidden ∧
        j'.rows = (row, member, vals) :: j.rows.filter fun x => !(x.1 == row && x.2.1 == member)) ∧
      (none ∉ parts → j'.hidden = (row, sumRows (parts.filterMap id)) :: (j.hidden.filter fun x => x.1 != row) ∧
        j'.rows = j.rows.filter fun x => x.1 != row) ∧
      j' = { j with rows := j'.rows, hidden := j'.hidden } ∧ Only [.links, .gen] s u) ∧
  (∀ (s : State) (h : Handle) (t : Nat) (logits : List Nat) (j : PrefillJob) (m : ModelObj), jobOf s h = some j →
    j.admitted = true → j.sent = false → j.prefixIn = true → j.o.decodeDev ≠ 0xFFFF → streamRuns s 3 h = false →
    modelFor s j.refs j.o.model = some m → movesUp s = true → RegsOpen s h.part →
    (∀ x ∈ sliceList j.o (devno s) m.layers, sliceBad s j m x = false) →
    ∃ u, exec (.prefillDone h t logits) s = .next u ∧ jobOf u h = some { j with sent := true } ∧
      (∀ x ∈ sliceList j.o (devno s) m.layers,
        SentTo s u j.o.decodeDev j.o.h.part (.slices j.o.h x (sliceData s j m x))) ∧
      SentTo s u j.o.decodeDev j.o.h.part (.logits j.o.h (devno s) logits) ∧
      (∀ slot, j.o.home = devno s → liveSlot s h = some slot → (entry u slot).stage = 15) ∧
      (j.o.home ≠ devno s → Only [.now, .gen, .links, .parts] s u) ∧ Only [.now, .gen, .links, .lb, .parts] s u) ∧
  (∀ (s : State) (h : Handle) (id : SliceId) (t : Nat) (d : Mem) (q : Sequence), seqOf s h = some q → q.st = .reshard →
    id.member ∈ q.o.group → RegsOpen s h.part →
    (∀ m, seqModel s q = some m → id ∈ q.got →
      ∃ u, exec (.reshardSliceReceive h id t d none) s = .next u ∧ Only [.now, .links] s u) ∧
    (∀ m, seqModel s q = some m → id ∉ q.got → id.layer < m.layers → id.block ∈ computedBlocks q.o →
      ((q.filling.lookup id.block).isSome = true ∨
        (takeReserved (takeMsg (tick s t) id.member (.slices h id d)) h).isSome = true) →
      (∃ d ∈ q.o.group, q.shares.lookup d = none) →
      ∃ u q', exec (.reshardSliceReceive h id t d none) s = .next u ∧ seqOf u h = some q' ∧ q'.got = id :: q.got ∧
        q'.entered = (if ((id :: q.got).filter fun x => x.block == id.block).length < q.o.group.length * m.layers
          then q.entered else insertNat id.block q.entered) ∧
        (∀ i, q.filling.lookup id.block = some i →
          let S := q.o.group.length
          let n := runBytes m S
          let at_ := fun v => kvAddr s false q.gslot i + runOffset m S (memberIdx q.o.group id.member) id.layer v
          u.mem = (s.mem.place (at_ false) n (d.slice 0 n)).place (at_ true) n (d.slice n n)) ∧
        (((id :: q.got).filter fun x => x.member == id.member).length = (computedBlocks q.o).length * m.layers →
          SentTo s u id.member h.part (.reshardAck h)) ∧
        Only [.now, .gen, .links, .parts, .mem, .tiers] s u) ∧
    (∀ v, q.shares.lookup id.member = none →
      ((∃ d ∈ q.o.group, d ≠ id.member ∧ q.shares.lookup d = none) →
        ∃ u, exec (.reshardSliceReceive h id t d (some v)) s = .next u ∧
          seqOf u h = some { q with shares := q.shares ++ [(id.member, v)] } ∧ Only [.now, .gen, .links] s u) ∧
      (∀ l, allSome (q.o.group.map fun d => (q.shares ++ [(id.member, v)]).lookup d) = some l →
        allEntered s q.o = true → stageUnitUp s 16 = true → q.o.grammar = none → (freeList s).isSome = true →
        ∃ u, exec (.reshardSliceReceive h id t d (some v)) s = .next u ∧
          SentTo s u q.o.home h.part (.token h q.pos (sampledTok q l.flatten none)) ∧
          Only ([.mem, .tiers] ++ endFields) s u))) ∧
  (∀ (s : State) (h : Handle) (j : PrefillJob), jobOf s h = some j → j.sent = true →
    ∃ u, exec (.reshardAckReceive h) s = .next u ∧ jobOf u h = none ∧ (∀ x, x ≠ h → jobOf u x = jobOf s x) ∧
      (∀ i, i ∈ (pool u j.gslot).used ↔ i ∈ (pool s j.gslot).used ∧ i ∉ j.scratch) ∧
      (∀ g, g ≠ j.gslot → pool u g = pool s g) ∧ Only [.links, .gen] s u)

/-- DECODE_STEP on a READY device with its units not off and Compass building masks, where no decode stream of the generator
runs: each sequence of the step (R24: those that joined at its start; a sequence still without its mask sits out) whose
block is open appends one position, and under no grammar its token goes home; until every one of them has its row the step
waits. MASK_BUILT keeps the mask of a sequence first in order, and a sequence that waited for it, with a token allowed and
a list free, samples under it. TOKEN_COMMIT at home: the token next in position order is committed, its whole characters
that fit are queued for writing and the rest held; a mirrored one is held for the twin instead; one that comes early
waits; one already taken changes nothing. OUTPUT_WRITE_DONE puts the oldest text at its place in the buffer, and for
generated text sets the first-token time, or closes a gap. Reads of HBM go where the regulators are open and nothing is
poisoned. (R23, R24, R40, R74, R75, R76, R80, R204, R242, R270, R278, R280) -/
def Obligations.TokensAreDecodedAndCommitted : Prop :=
  (∀ (s : State) (model t : Nat) (rows : List (Handle × List Nat)), isReady s = true → stageUnitUp s 16 = true →
    compassBuilds s = true → (s.gen.seqs.map (·.o.h)).Nodup →
    ((∃ q ∈ stepSet s model, rows.lookup q.o.h = none ∨ streamRuns s 4 q.o.h = true) →
      exec (.decodeStep model t rows) s = .next s) ∧
    ((∀ q ∈ stepSet s model, (rows.lookup q.o.h).isSome = true ∧ streamRuns s 4 q.o.h = false ∧ RegsOpen s q.o.h.part ∧
        ∃ i tb, tableOf s q.o.h = some (i, tb) ∧ (tget (0, 0) tb.entries (tb.length / 64)).1 ≠ 0) →
      (freeList s).isSome = true →
      ∃ u, exec (.decodeStep model t rows) s = .next u ∧ Only endFields s u ∧
        (∀ q ∈ stepSet s model, ∀ i tb row, tableOf s q.o.h = some (i, tb) → rows.lookup q.o.h = some row →
          tableOf u q.o.h = some (i, { tb with length := tb.length + 1 }) ∧
          (q.o.grammar = none →
            SentTo s u q.o.home q.o.h.part (.token q.o.h q.pos (sampledTok q row none)))) ∧
        ((s.lb.work.map (·.1)).Nodup →
          ∀ q ∈ s.gen.seqs, q.waiting.isSome = true → q.inStep = false → seqOf u q.o.h = some q))) ∧
  (∀ (s : State) (h : Handle) (t : Nat) (q : Sequence) (o : Obj) (g : GrammarObj) (r : CompassRec),
    ((wantMask s).take (compassOn s)).find? (fun q => q.o.h == h) = some q → seqGrammarObj s q = some (o, g) →
    s.compass.recs.find? (fun r => r.h == h) = some r → RegsOpen s h.part →
    (∀ l ∈ maskLines g r, readsBad s [⟨o.uid, 64 * l, 64⟩] = false) →
    (q.waiting = none →
      ∃ u, exec (.maskBuilt h t) s = .next u ∧ u.compass.masks = s.compass.masks ++ [(h, maskOf g r)] ∧
        u.compass.recs = s.compass.recs ∧ Only [.now, .compass, .cnt, .parts] s u) ∧
    (∀ row, q.waiting = some row → maskOf g r ≠ [] → (freeList s).isSome = true →
      ∃ u, exec (.maskBuilt h t) s = .next u ∧
        SentTo s u q.o.home h.part (.token h q.pos (sampledTok q row (some (maskOf g r)))) ∧ Only endFields s u)) ∧
  (∀ (s : State) (slot pos id t : Nat) (w : Work), isReady s = true → work s slot = some w →
    liveSlot s w.handle = some slot → (entry s slot).st = .decode → w.genEnd = none → w.ending = none →
    let n := (entry s slot).tokens + w.held.length
    (∀ v, pos = n → w.held = [] → w.early = [] → (entry s slot).mirrored = false → plotterUp s = true →
      heldVocab s w (genVocabId w.prof) = some v → RegsOpen s w.handle.part → VocabClean s v →
      let r := releaseText w.hold (if id = v.2.eos then [] else tokText v.2 id)
      let fit := fitChars ((entry s slot).outLen - outIssued (entry s slot) w) r.1
      let bytes := fit.1.flatMap (·.1)
      fit.2 = false →
      ∃ u, exec (.tokenCommit slot pos id t) s = .next u ∧
        entry u slot = { entry s slot with tokens := (entry s slot).tokens + 1, stage := 17 } ∧
        work u slot = some { w with
          out := w.out ++ [id], hold := r.2
          writes := if bytes = [] then w.writes else w.writes ++ [(outIssued (entry s slot) w, bytes)] } ∧
        OtherSlots s u slot ∧ Only [.now, .links, .lb, .cnt, .vcache, .parts] s u) ∧
    (pos = n → (entry s slot).mirrored = true → w.early = [] →
      ∃ u, exec (.tokenCommit slot pos id t) s = .next u ∧ work u slot = some { w with held := w.held ++ [id] } ∧
        (∀ k, entry u k = entry s k) ∧ (∀ k, k ≠ slot → work u k = work s k) ∧ Only [.now, .links, .lb] s u) ∧
    (n < pos → (∀ x ∈ w.early, x.1 ≠ pos) →
      ∃ u, exec (.tokenCommit slot pos id t) s = .next u ∧ work u slot = some { w with early := w.early ++ [(pos, id)] } ∧
        (∀ k, entry u k = entry s k) ∧ (∀ k, k ≠ slot → work u k = work s k) ∧ Only [.now, .links, .lb] s u) ∧
    (pos < n → ∃ u, exec (.tokenCommit slot pos id t) s = .next u ∧ Only [.now, .links] s u)) ∧
  (∀ (s : State) (slot t off : Nat) (b : List Byte) (rest : List (Nat × List Byte)) (w : Work), isReady s = true →
    work s slot = some w → w.writes = (off, b) :: rest → regOpen s w.handle.part 4 b.length = true →
    (entry s slot).st = .decode → w.genEnd = none → w.ending = none →
    let e := entry s slot
    let now := max s.now t
    ∃ u w', exec (.outputWriteDone slot t) s = .next u ∧
      BytesAt u.host.mem (e.outAddr + off) b ∧ BytesOnly (e.outAddr + off) b.length s.host.mem u.host.mem ∧
      u.host = { s.host with mem := u.host.mem } ∧ work u slot = some w' ∧ w'.writes = rest ∧
      (entry u slot).outBytes = off + b.length ∧
      (e.lastStage ≠ 3 → entry u slot = { e with outBytes := off + b.length } ∧ w' = { w with writes := rest }) ∧
      (e.lastStage = 3 → w'.lastWrite = now ∧ (entry u slot).lastTokenUs = min 0xFFFFFFFF (usUp (sinceArrival e now)) ∧
        (e.ttftUs = 0xFFFFFFFF → (entry u slot).ttftUs = min 0xFFFFFFFE (usUp (sinceArrival e now)) ∧
          (entry u slot).tbtMax = e.tbtMax) ∧
        (e.ttftUs ≠ 0xFFFFFFFF → (entry u slot).ttftUs = e.ttftUs ∧ w'.gaps = w.gaps + 1 ∧
          (entry u slot).tbtMax = min 0xFFFF (max e.tbtMax (cdiv (now - w.lastWrite) 10000)))) ∧
      OtherSlots s u slot ∧ Only [.now, .host, .parts, .lb, .cnt] s u)

/-- KV_SPILL at the end of a write-back of a block that no request has pinned frees the pool block, whose keys and values
stand in the spill block. PREFIX_READ_BACK takes the read off the queue: where the regulators admit it and the block can
be read, the block goes into a free pool block; where it cannot, every request that waits for it recomputes it, degraded.
PREFIX_AGEING, once an age interval has passed: in every bucket an entry that a request has pinned stays as it is, the age
of every other rises by one to at most 255, and an unpinned entry whose age reaches PREFIX_AGE_MAX is gone, all others
remain. (R251, R252, R253, R256, R259, R297, R304, R305) -/
def Obligations.KeyValueBlocksSpillReturnAndAge : Prop :=
  (∀ (s : State) (g b i c : Nat) (e : PfxEntry), (pool s g).spilling = some (b, i, c) →
    (tget [] s.gen.pfx b).find? (fun e => e.valid && e.g == g && !e.spill && e.idx == i) = some e → e.pin = 0 →
    ∃ u, exec (.kvSpill g) s = .next u ∧ i ∉ (pool u g).used ∧ (∀ k ∈ (pool u g).used, k ∈ (pool s g).used) ∧
      (pool u g).reserved = (pool s g).reserved ∧ u.gen = { s.gen with pools := u.gen.pools, pfx := u.gen.pfx, tags := u.gen.tags } ∧
      u.mem = s.mem.place (kvAddr s true g c) (blockBytesMax s) (s.mem.slice (kvAddr s false g i) (blockBytesMax s)) ∧
      Only [.gen, .mem, .tiers] s u) ∧
  (∀ (s : State) (g spill t : Nat) (rd : DRead),
    s.tiers.reads.find? (fun r => r.kind == 1 && r.item == readBackItem g spill) = some rd →
    let n := blockBytesMax s
    ((pfxAll s).find? (fun e => e.2.g == g && e.2.spill && e.2.idx == spill) = none →
      ∃ u, exec (.prefixReadBack g spill t []) s = .next u ∧
        u.tiers = { s.tiers with reads := s.tiers.reads.erase rd } ∧ Only [.now, .tiers] s u) ∧
    (∀ b e, (pfxAll s).find? (fun e => e.2.g == g && e.2.spill && e.2.idx == spill) = some (b, e) →
      regOpen s rd.h.part 1 n = true → regOpen s rd.h.part 0 n = true →
      (∀ i s1, poisoned s (kvAddr s true g spill) n = false →
        takeBlock (charge (tick s t) rd.h.part 1 n) g = some (i, s1) →
        ∃ u, exec (.prefixReadBack g spill t []) s = .next u ∧ u.tiers.reads = s.tiers.reads.erase rd ∧
          u.mem = s1.mem.place (kvAddr s false g i) n (s1.mem.slice (kvAddr s true g spill) n) ∧
          ((∀ x ∈ pfxAll s, ¬ (x.2.g = g ∧ x.2.spill = false ∧ x.2.idx = i)) → i ∈ (pool u g).used) ∧
          Only [.now, .tiers, .gen, .lb, .cnt, .parts, .links, .mem] s u) ∧
      (poisoned s (kvAddr s true g spill) n = true → (s.lb.work.map (·.1)).Nodup →
        ∃ u, exec (.prefixReadBack g spill t []) s = .next u ∧
          u.tiers = { s.tiers with reads := s.tiers.reads.erase rd } ∧
          (∀ slot w r, atPrefix s slot = some w → gslotOf s w.prof.genModel = some g →
            w.readBacks.find? (fun r => r.2 == spill) = some r →
            ∃ w', work u slot = some w' ∧ r.1 ∈ w'.late ∧ w'.quals.degraded = true) ∧
          Only [.now, .tiers, .gen, .lb, .cnt, .parts, .links] s u))) ∧
  (∀ (s : State) (t : Nat), s.gen.ageAt + prefixAgeNs s ≤ max s.now t →
    let aged : PfxEntry → PfxEntry := fun e => if e.pin = 0 then { e with age := min 255 (e.age + 1) } else e
    ∃ u, exec (.prefixAgeing t) s = .next u ∧ u.gen.ageAt = max s.now t ∧
      (∀ b e, e ∈ tget [] u.gen.pfx b → e.valid = true →
        ∃ e0 ∈ tget [] s.gen.pfx b, e = aged e0 ∧ (e0.pin ≠ 0 ∨ e.age < prefixAgeMax s)) ∧
      ((∀ b x y, x ∈ tget [] s.gen.pfx b → y ∈ tget [] s.gen.pfx b → sameBlock x y = true → x = y) →
        ∀ b e0, e0 ∈ tget [] s.gen.pfx b → e0.valid = true → (e0.pin ≠ 0 ∨ (aged e0).age < prefixAgeMax s) →
          aged e0 ∈ tget [] u.gen.pfx b) ∧
      Only [.now, .gen] s u)

/-- UPDATE_RECORD_RECEIVE on a READY device keeps a contribution of an epoch not applied yet; with the Feature units
off, or its epoch applied, it is discarded and its table reads STALE. UPDATE_EPOCH_END at or after the running epoch's
end moves to the epoch of the time, by the length that UPD_EPOCH_US now has, which numbers its records from 0; before it
nothing changes. EPOCH_APPLY, UPD_GRACE_US after the epoch's end, takes the contributions up to it: with the Feature units
not off and no row of theirs poisoned, where the epoch is the first with contributions, every row of a resident table that
has some is updated once, in ascending order of source and position, and every other row and object stays; with no object
in board memory the row cache stays too; with the Feature units off their tables read STALE. ROW_CACHE_AGEING halves every
count. VOCABULARY_CACHE_AGEING frees exactly the lines not hit for VCACHE_AGE_US. (R217, R219, R220, R221, R222, R227) -/
def Obligations.FeatureUpdatesAndCachesAge : Prop :=
  (∀ (s : State) (r : GradRec), isReady s = true →
    (s.feat.applied ≤ r.epoch → featureUp s = true →
      ∃ u, exec (.updateRecordReceive r) s = .next u ∧ u.feat = { s.feat with contribs := s.feat.contribs ++ [r] } ∧
        Only [.links, .feat] s u) ∧
    ((r.epoch < s.feat.applied ∨ featureUp s = false) →
      ∃ u, exec (.updateRecordReceive r) s = .next u ∧ r.table ∈ u.feat.stale ∧
        (∀ x, x ∈ u.feat.stale ↔ x = r.table ∨ x ∈ s.feat.stale) ∧ u.feat = { s.feat with stale := u.feat.stale } ∧
        Only [.links, .feat, .cnt] s u)) ∧
  (∀ (s : State) (t : Nat),
    let stop := epochEnd s s.feat.epoch
    (stop ≤ max s.now t →
      ∃ u, exec (.updateEpochEnd t) s = .next u ∧
        u.feat = { s.feat with
          epoch := s.feat.epoch + 1 + (max s.now t - stop) / epochNs s, pos := 0, spans := u.feat.spans } ∧
        (u.feat.spans = s.feat.spans ∨ u.feat.spans = (s.feat.epoch + 1, stop, epochNs s) :: s.feat.spans) ∧
        (∃ x, u.feat.spans.head? = some x ∧ x.2.2 = epochNs s) ∧ Only [.now, .feat] s u) ∧
    (max s.now t < stop → ∃ u, exec (.updateEpochEnd t) s = .next u ∧ Only [.now] s u)) ∧
  (∀ (s : State) (epoch t : Nat), s.feat.applied ≤ epoch →
    let s1 := advanceEpoch (tick s t)
    epoch < s1.feat.epoch → epochEnd s1 epoch + graceNs s ≤ max s.now t →
    let left := s.feat.contribs.filter fun c => decide (epoch < c.epoch)
    let cs := s.feat.contribs.filter fun c => c.epoch == epoch
    let of := fun (id : Nat) (tb : FeatTable) (k : Nat) =>
      cs.filter fun c => c.table == id && c.row % tb.shards == tb.thisShard && localIdx tb c.row == k
    (featureUp s = true → (∀ c ∈ s.feat.contribs, epoch ≤ c.epoch) → (s.obj.objs.map (·.uid)).Nodup →
      (∀ o ∈ s.obj.objs, ∀ tb, o.body = .featTable tb → o.kind = 8 ∧
        ∀ c ∈ cs, c.table = o.id → readsBad s [rowRead o tb c.row] = false) →
      ∃ u, exec (.epochApply epoch t) s = .next u ∧
        u.feat = { s1.feat with contribs := left, applied := epoch + 1, cache := u.feat.cache, order := u.feat.order } ∧
        u.obj = { s.obj with objs := u.obj.objs } ∧ u.obj.objs.length = s.obj.objs.length ∧
        (∀ (i : Nat) (o : Obj), s.obj.objs[i]? = some o → ∃ o', u.obj.objs[i]? = some o' ∧
          (∀ tb, o.body = .featTable tb → o.evicted = false →
            ∃ rows, o' = { o with body := .featTable { tb with rows := rows } } ∧ rows.length = tb.rows.length ∧
              ∀ k r, tb.rows[k]? = some r →
                rows[k]? = some (if of o.id tb k = [] then r else (applyRow tb r (of o.id tb k)).1)) ∧
          (((∀ tb, o.body ≠ .featTable tb) ∨ o.evicted = true) → o' = o)) ∧
        ((∀ o ∈ s.obj.objs, o.tier ≠ 1) → u.feat.cache = s.feat.cache ∧ u.feat.order = s.feat.order) ∧
        Only [.now, .feat, .obj, .cnt, .mem, .tiers, .helm] s u) ∧
    (featureUp s = false →
      ∃ u, exec (.epochApply epoch t) s = .next u ∧ u.feat.applied = epoch + 1 ∧ u.feat.contribs = left ∧
        (∀ x, x ∈ u.feat.stale ↔ x ∈ s.feat.stale ∨ ∃ c ∈ s.feat.contribs, c.epoch ≤ epoch ∧ c.table = x) ∧
        Only [.now, .feat, .cnt] s u)) ∧
  (∀ (s : State) (t : Nat),
    (∃ u, exec (.rowCacheAgeing t) s = .next u ∧ u.feat = { s.feat with cache := u.feat.cache } ∧
      (∀ k, tget [] u.feat.cache k = (tget [] s.feat.cache k).map fun x => { x with count := x.count / 2 }) ∧
      Only [.now, .feat] s u) ∧
    (∃ u, exec (.vocabularyCacheAgeing t) s = .next u ∧
      (∀ l, l ∈ u.vcache ↔ l ∈ s.vcache ∧ max s.now t < l.hit + vcacheAgeNs s) ∧ Only [.now, .vcache] s u))

/-- R335: a port knows the partner that has trained, under another START_COUNT. -/
def startedAnew (P : Port) (r : Training) : Bool :=
  match P.partner with | some (d, _, c) => d == r.dev && c != r.startCount | none => false

/-- A frame that ends the copy of a reuse run (R261). -/
def endsCopy (g : Frame) : Bool := match g.msg with | some (.prefixCopy _ _) => true | _ => false

/-- Fields that charging an error to a die may touch: the window's count, a declared retirement, or FAULTED. -/
def errFields : List StateField :=
  [.now, .ps, .cnt, .faults, .boot, .flash, .pins, .host, .parts, .links, .free, .lb]

/-- Fields that a change of a port or of network time may touch: the port itself, its traffic, LINK_STATE, and the
topology check, which may make the device READY. -/
def portFields : List StateField :=
  [.now, .links, .nt, .host, .parts, .free, .cnt, .boot, .flash, .faults, .feat]

/-- Fields that the loss of a receiver, or a refused message, may touch. -/
def lossFields : List StateField :=
  [.now, .cnt, .links, .lb, .gen, .compass, .bearing, .lists, .tiers, .parts, .host, .streams, .nextSid, .wp, .feat,
    .mem, .helm, .cell]

/-- R341: a message that waits for a command of its own. -/
def hasCommand : Msg → Bool
  | .prefillCmd _ | .prefixSlices .. | .prefixCopy .. | .genEnd .. | .reserve .. | .reserved .. | .stageRefused .. | .lookupRefused ..
  | .bulk .. | .telemetry => false
  | _ => true

/-- On a READY device and a usable die, a codeword read, and the read of the next patrol page of a verified block set once
PATROL_PERIOD has passed since its last, sends the die the thresholds of the block set's bins and schedules the block set
for rewrite exactly when it took re-reads or more than REWRITE_BITS corrections; one that failed for good adds a transient
error to the die (below its limit, nothing else). BLOCK_SET_VERIFY of a full open block set whose pages are all good
closes it and records time and temperature; with a page that took more than VERIFY_BITS corrections, or failed, the block
set becomes grown bad, is open no more, and, a fresh one being there, nothing of the block map names it. An erase that
ends leaves its block set free and once more worn; a failed program or erase makes its block set grown bad. (R313, R321,
R326, R327, R328, R329, R331, R383) -/
def Obligations.FlashReadsAndFailuresMendBlockSets : Prop :=
  (∀ (s base : State) (c : Instr) (die set page corrected rereads t : Nat) (temp : Int) (good : Bool), isReady s = true →
    dieUsable s die = true →
    (c = .flashCodewordRead die set page corrected rereads t temp good ∧ base = tick s t ∨
      c = .patrolRead die set t corrected rereads temp good ∧ base = patrolled (tick s t) die set ∧
        (∃ x ∈ s.ps.closes, x.die = die ∧ x.set = set ∧ x.patrolAt + patrolNs s ≤ max s.now t)) →
    let sent := tset none s.ps.thr die (some (thresholdEntry base die set temp))
    (good = true →
      ∃ u, exec c s = .next u ∧ u.ps = { base.ps with thr := sent, rewrites := u.ps.rewrites } ∧
        (∀ x, x ∈ u.ps.rewrites ↔ x ∈ s.ps.rewrites ∨ (x = (die, set) ∧ (rewriteBits s < corrected ∨ rereads ≠ 0))) ∧
        Only [.now, .ps, .cnt] s u) ∧
    (good = false → tget 0 s.faults.transient (errKey clsDie die) < transientLimit clsDie →
      ∃ u, exec c s = .next u ∧ u.ps = { base.ps with thr := sent, rewrites := u.ps.rewrites } ∧
        tget 0 u.faults.transient (errKey clsDie die) = tget 0 s.faults.transient (errKey clsDie die) + 1 ∧
        OnlyAt 0 [errKey clsDie die] s.faults.transient u.faults.transient ∧
        u.faults = { s.faults with transient := u.faults.transient } ∧ Only [.now, .ps, .cnt, .faults] s u)) ∧
  (∀ (s : State) (die set t : Nat) (temp : Int) (pages : List (Nat × Nat × Bool)) (o : OpenSet),
    openAt s die set = some o → o.pages = s.ps.pb → dieUsable s die = true → s.ps.stopped = false →
    (pages.any (pageFails s) = false → o.kind ≠ 3 →
      ∃ u, exec (.blockSetVerify die set t temp pages) s = .next u ∧ openAt u die set = none ∧
        ⟨die, set, max s.now t, temp, 0, max s.now t⟩ ∈ u.ps.closes ∧
        u.ps = { s.ps with open_ := u.ps.open_, closes := u.ps.closes } ∧ Only [.now, .ps] s u) ∧
    (pages.any (pageFails s) = true →
      ∃ u, exec (.blockSetVerify die set t temp pages) s = .next u ∧ openAt u die set = none ∧ (die, set) ∈ u.ps.bad ∧
        (freshSet s die false ≠ none → ∀ l, lbMap u l ≠ some (die, set)) ∧ Only errFields s u)) ∧
  (∀ (s : State) (die set t : Nat), die ∉ s.ps.deadDies →
    ((die, set) ∈ s.ps.toErase →
      (∃ u, exec (.programOrEraseDone die set t true true) s = .next u ∧
        u.ps = { s.ps with toErase := s.ps.toErase.erase (die, set), erases := u.ps.erases, spare := u.ps.spare } ∧
        (∀ r, r ∈ u.ps.spare ↔ r ∈ s.ps.spare ∧ ¬ (r.die = die ∧ r.set = set)) ∧
        tget 0 u.ps.erases (eraseKey die set) = tget 0 s.ps.erases (eraseKey die set) + 1 ∧
        OnlyAt 0 [eraseKey die set] s.ps.erases u.ps.erases ∧ Only [.now, .ps] s u) ∧
      (∃ u, exec (.programOrEraseDone die set t true false) s = .next u ∧ (die, set) ∈ u.ps.bad ∧
        (die, set) ∉ u.ps.toErase ∧ Only errFields s u)) ∧
    ((openAt s die set).isSome = true →
      ∃ u, exec (.programOrEraseDone die set t false false) s = .next u ∧ (die, set) ∈ u.ps.bad ∧
        openAt u die set = none ∧ (freshSet s die false ≠ none → ∀ l, lbMap u l ≠ some (die, set)) ∧ Only errFields s u))

/-- PASSAGE_BATCH_COMMIT of the first batch, with bandwidth and room, makes all of it current at once: its index's set
gives each item of the batch its new record, a record without text deletes its item, every other item reads as
before, or is gone when the batch replaces the set; one commit is counted; with every program good the LAST piece's
descriptor completes, and with bad ones their open block sets are rebuilt first. Without room it completes and nothing of
the store changes; where a merge or a stripe must come first it waits. LOG_MERGE moves the logical block with the most
log pages to a fresh block set, and none of its pages is in the log any more; BLOCK_SET_REWRITE gives every name of a
scheduled block set to a fresh one. In both the block set left behind waits for its erase, and every other logical
block stays where it was. (R313, R314, R318, R319, R320, R322, R323, R326, R329, R437) -/
def Obligations.BatchesCommitWholeAndBlockSetsMove : Prop :=
  (∀ (s : State) (t : Nat) (bad : List (Nat × Nat)) (b : Batch) (rest : List Batch), isReady s = true →
    s.ps.stopped = false → s.ps.batches = b :: rest → regOpen s b.part 2 (batchBytes b) = true →
    (∀ s1, applyBatch (tick s t) b = .ok s1 → (b.recs.map (·.item)).Nodup →
      ∃ u x, exec (.passageBatchCommit t bad) s = .next u ∧ setOf u b.index = some x ∧ u.ps.batches = rest ∧
        (∀ r ∈ b.recs, r.text ≠ [] → tget none x.recs r.item = some r ∧ (dirOf x r.item).isSome = true) ∧
        (∀ r ∈ b.recs, r.text = [] → dirOf x r.item = none) ∧
        (∀ i, i ∉ b.recs.map (·.item) →
          (b.replace = true → dirOf x i = none) ∧
          (∀ y, b.replace = false → setOf s b.index = some y →
            tget none x.recs i = tget none y.recs i ∧ dirOf x i = dirOf y i)) ∧
        u.ps.seq = (s.ps.seq + 1) % 2 ^ 64 ∧
        (bad = [] → (part u b.part).cqTail = (part s b.part).cqTail + 1 ∧ Only [.now, .ps, .cnt, .parts, .obj, .host] s u) ∧
        Only (.obj :: errFields) s u) ∧
    (applyBatch (tick s t) b = .error .full →
      ∃ u, exec (.passageBatchCommit t bad) s = .next u ∧ u.ps = { s.ps with batches := rest } ∧
        (part u b.part).cqTail = (part s b.part).cqTail + 1 ∧ Only [.now, .ps, .parts, .obj, .host] s u) ∧
    (applyBatch (tick s t) b = .error .wait → exec (.passageBatchCommit t bad) s = .next s)) ∧
  (∀ (s : State) (die t l f k : Nat), isReady s = true → s.ps.stopped = false → dieUsable s die = true →
    mergeDue s die = true → leastBy (fun a b => decide (logCount s b < logCount s a)) (loggedLbs s die) = some l →
    openable s die false = some (f, k) →
    ∃ u, exec (.logMerge die t) s = .next u ∧ lbMap u l = some (die, f) ∧ logCount u l = 0 ∧
      (∀ k, logCount s k ≤ logCount s l ∨ k ∉ loggedLbs s die) ∧ (∀ k, k ≠ l → lbMap u k = lbMap s k) ∧
      (∀ n, n / s.ps.pb ≠ l → tget none u.ps.logs n = tget none s.ps.logs n) ∧
      (∀ o, lbMap s l = some o → o ∈ u.ps.toErase) ∧ u.ps.sets = s.ps.sets ∧ Only [.now, .ps, .cnt] s u) ∧
  (∀ (s : State) (die set t f k : Nat), isReady s = true → s.ps.stopped = false → dieUsable s die = true →
    (die, set) ∈ s.ps.rewrites → openable s die false = some (f, k) →
    ∃ u, exec (.blockSetRewrite die set t) s = .next u ∧
      (∀ l, lbMap u l = if lbMap s l = some (die, set) then some (die, f) else lbMap s l) ∧
      (die, set) ∉ u.ps.rewrites ∧ (die, set) ∈ u.ps.toErase ∧ u.ps.sets = s.ps.sets ∧ Only [.now, .ps, .cnt] s u)

/-- On an enabled port, FRAME_RECEIVE_DATA of a good DATA frame of LINK_ETHERTYPE for this device: while the device is not
READY it is answered by a NAK of its number with NOT_READY, or INTERNAL_FAULT in FAULTED; the frame next in sequence is
accepted and acknowledged later, and its message, when it is the last of one and waits for a command, is delivered; a
number already accepted is acknowledged again and nothing delivered; one too far ahead changes nothing; a port fenced or
held out answers DOMAIN_OFF. A PAUSE frame is counted and discarded. A frame whose FCS failed adds one to its lane's
count. FRAME_RECEIVE_ACK releases exactly the frames before ACK_SEQ. FRAME_RECEIVE_NAK with INTERNAL_FAULT loses the
device; with another code than DOMAIN_OFF the message refused leaves the window and the frames after it take its numbers.
(R333, R335, R336, R337, R338, R340, R341, R372, R383, R389) -/
def Obligations.FramesAreAcceptedInOrder : Prop :=
  (∀ (s : State) (p lane t : Nat) (f : Frame), (port s p).en = true → f.eth.etype = linkEtype s → linkEtype s ≠ 0x8808 →
    f.kind = 1 → f.dst = devno s →
    let r := rxOf s f.src f.queue
    let nak := fun (u : State) (st : Status) => (∃ g, u.links.sent = (p, g) :: s.links.sent ∧ g.kind = 3 ∧ g.dst = f.src ∧
        g.queue = f.queue ∧ g.seq = f.seq ∧ g.status = st) ∧ rxOf u f.src f.queue = r ∧ u.links.inbox = s.links.inbox
    (isReady s = false →
      ∃ u, exec (.frameReceiveData p f true lane t) s = .next u ∧
        nak u (if s.boot.st = .faulted then .internalFault else .notReady) ∧ Only [.now, .links] s u) ∧
    (isReady s = true → (txOf s f.src f.queue).unacked = [] → NoWaitMet s →
      (f.seq = r.next → (port s p).st ≠ .fenced → (port s p).heldOut = false →
        (f.last = false → refusal s p f = none →
          ∃ u, exec (.frameReceiveData p f true lane t) s = .next u ∧
            rxOf u f.src f.queue = { r with next := (r.next + 1) % 2 ^ 32, owed := some (max s.now t) } ∧
            u.links.inbox = s.links.inbox ∧ Only [.now, .links] s u) ∧
        (∀ m, f.last = true → f.msg = some m → hasCommand m = true →
          ∃ u, exec (.frameReceiveData p f true lane t) s = .next u ∧
            rxOf u f.src f.queue = { r with next := (r.next + 1) % 2 ^ 32, owed := some (max s.now t) } ∧
            u.links.inbox = (f.src, m) :: s.links.inbox ∧ Only [.now, .links] s u)) ∧
      (f.seq = r.next → ((port s p).st = .fenced ∨ (port s p).heldOut = true) →
        ∃ u, exec (.frameReceiveData p f true lane t) s = .next u ∧ nak u .domainOff ∧ Only [.now, .links] s u) ∧
      (f.seq ≠ r.next → seqBefore f.seq r.next = true →
        ∃ u, exec (.frameReceiveData p f true lane t) s = .next u ∧
          rxOf u f.src f.queue = { r with owed := some (max s.now t) } ∧ u.links.inbox = s.links.inbox ∧
          Only [.now, .links] s u) ∧
      (f.seq ≠ r.next → seqBefore f.seq r.next = false →
        ∃ u, exec (.frameReceiveData p f true lane t) s = .next u ∧ Only [.now] s u))) ∧
  (∀ (s : State) (p lane t : Nat) (f : Frame), (port s p).en = true →
    let k := errKey clsLink (p * 4 + lane)
    (f.eth.etype = 0x8808 → ∃ u, exec (.frameReceiveData p f true lane t) s = .next u ∧ Only [.now, .cnt] s u) ∧
    (tget 0 s.faults.corrected k < 1000 →
      ∃ u, exec (.frameReceiveData p f false lane t) s = .next u ∧
        tget 0 u.faults.corrected k = tget 0 s.faults.corrected k + 1 ∧
        OnlyAt 0 [k] s.faults.corrected u.faults.corrected ∧ Only [.now, .cnt, .faults] s u)) ∧
  (∀ (s : State) (p t : Nat) (f : Frame), (port s p).en = true → f.kind = 2 → f.dst = devno s → s.feat.acks = [] →
    NoWaitMet s →
    let x := txOf s f.src f.queue
    let gone := x.unacked.takeWhile fun g => seqBefore g.seq f.ackSeq
    (∀ g ∈ gone, endsCopy g = false) →
    ∃ u, exec (.frameReceiveAck p f t) s = .next u ∧
      (gone = [] → txOf u f.src f.queue = x) ∧
      (gone ≠ [] → txOf u f.src f.queue = { x with
        unacked := x.unacked.drop gone.length, retries := 0, sentAt := max s.now t, lost := false
        alt := x.alt && !(x.unacked.drop gone.length).isEmpty }) ∧
      u.links.inbox = s.links.inbox ∧ Only [.now, .links] s u) ∧
  (∀ (s : State) (p t : Nat) (f : Frame), (port s p).en = true → f.kind = 3 → f.dst = devno s →
    (f.status = .internalFault →
      ∃ u, exec (.frameReceiveNak p f t) s = .next u ∧
        (∀ x ∈ u.links.tx, x.dev = f.src → x.unacked = [] ∧ x.lost = true) ∧ Only lossFields s u) ∧
    (∀ g rest, f.status ≠ .internalFault → f.status ≠ .domainOff → (txOf s f.src f.queue).unacked = g :: rest →
      g.seq = f.seq → g.last = true →
      ∃ u, exec (.frameReceiveNak p f t) s = .next u ∧
        (txOf u f.src f.queue).unacked = rest.map (fun y => { y with seq := (y.seq + 2 ^ 32 - 1) % 2 ^ 32 }) ∧
        (txOf u f.src f.queue).retries = 0 ∧ Only lossFields s u))

/-- FRAME_TRANSMIT on an enabled port that is up or fenced sends a waiting 1588 message first; else the next frame of
the head message of the queue that R342 and R343 pick: numbered with the sender's sequence, which moves on by one, with
the route's Ethernet fields, it joins the unacknowledged frames and, unless it fits no window of its queue, goes out; with
LAST its message leaves the queue. An ACK frame at the head goes out with the number expected next, and joins no window.
ACK_SEND queues the acknowledgement owed on Q0. ACK_TIMEOUT, once the oldest frame has waited ACK_TIMEOUT_US: all
unacknowledged frames are sent again in order; at LINK_RETRY_MAX timeouts the receiver's traffic moves to its alternate
route, and at twice as many it is lost. (R336, R337, R338, R339, R341, R342, R343, R346, R350) -/
def Obligations.FramesAreSentReplayedAndAcknowledged : Prop :=
  (∀ (s : State) (p t len : Nat) (last : Bool), (port s p).en = true →
    (upDegraded (port s p).st = true ∨ (port s p).st = .fenced) → len ≤ maxPayload s →
    ((port s p).ptp ≠ 0 →
      ∃ u, exec (.frameTransmit p t len last) s = .next u ∧ port u p = { port s p with ptp := (port s p).ptp - 1 } ∧
        (∀ q, q ≠ p → port u q = port s q) ∧ Only [.now, .links] s u) ∧
    (∀ k m, (port s p).ptp = 0 → pickQueue (tick s t) p len = some k → headMsg s p k = some m →
      (∀ of_, m.2.2 = .ackFrame of_ →
        ∃ u, exec (.frameTransmit p t len last) s = .next u ∧
          (∃ g, u.links.sent = (p, g) :: s.links.sent ∧ g.kind = 2 ∧ g.dst = m.1 ∧ g.queue = of_ ∧
            g.ackSeq = (rxOf s m.1 of_).next) ∧
          tget [] (port u p).queues k = (tget [] (port s p).queues k).erase m ∧ u.links.tx = s.links.tx ∧
          u.links.rx = s.links.rx ∧ (∀ q, q ≠ p → port u q = port s q) ∧ Only [.now, .links] s u) ∧
      (isAck m.2.2 = false →
        let x := txOf s m.1 k
        let n := tget 0 (port s p).midMsg (k * 65536 + m.1)
        ∃ u f, exec (.frameTransmit p t len last) s = .next u ∧
          f = { dst := m.1, src := devno s, queue := k, part := m.2.1, kind := 1, len := len, seq := x.seq,
                ackSeq := (rxOf s m.1 k).next, status := .ok, first := n == 0, last := last, handle := m.2.2.handle,
                msgType := f.msgType, eth := ethOf s p m.1 k, msg := if last then some m.2.2 else none } ∧
          (txOf u m.1 k).seq = (x.seq + 1) % 2 ^ 32 ∧ (txOf u m.1 k).unacked = x.unacked ++ [f] ∧
          (rxOf u m.1 k).owed = none ∧ (rxOf u m.1 k).next = (rxOf s m.1 k).next ∧
          tget [] (port u p).queues k = (if last then (tget [] (port s p).queues k).erase m
            else tget [] (port s p).queues k) ∧
          tget 0 (port u p).midMsg (k * 65536 + m.1) = (if last then 0 else n + 1) ∧
          u.links.sent = (if fitsNone s p k len then s.links.sent else (p, f) :: s.links.sent) ∧
          (∀ q, q ≠ p → port u q = port s q) ∧ Only [.now, .links, .parts, .cnt] s u))) ∧
  (∀ (s : State) (dev q t o p : Nat), (rxOf s dev q).owed = some o → routePort s dev 0 = some p →
    ∃ u, exec (.ackSend dev q t) s = .next u ∧ rxOf u dev q = { rxOf s dev q with owed := none } ∧
      tget [] (port u p).queues 0 = tget [] (port s p).queues 0 ++ [(dev, 0, .ackFrame q)] ∧
      (∀ k, k ≠ p → port u k = port s k) ∧ u.links.sent = s.links.sent ∧ Only [.now, .links] s u) ∧
  (∀ (s : State) (dev q t : Nat), (txOf s dev q).unacked ≠ [] →
    (txOf s dev q).sentAt + ackTimeoutUs s * 1000 ≤ max s.now t →
    let x := txOf s dev q
    let n := x.retries + 1
    (n < 2 * linkRetryMax s → n ≠ linkRetryMax s → ∀ p, routePort s dev q = some p →
      ∃ u, exec (.ackTimeout dev q t) s = .next u ∧ txOf u dev q = { x with retries := n, sentAt := max s.now t } ∧
        u.links.sent = (x.unacked.map fun f => (p, { f with eth := ethOf s p f.dst f.queue })).reverse ++ s.links.sent ∧
        Only [.now, .links, .cnt] s u) ∧
    (n < 2 * linkRetryMax s → n = linkRetryMax s →
      ∃ u, exec (.ackTimeout dev q t) s = .next u ∧ (txOf u dev q).alt = true ∧ (txOf u dev q).unacked = x.unacked ∧
        (txOf u dev q).retries = n ∧ Only [.now, .links, .cnt] s u) ∧
    (2 * linkRetryMax s ≤ n →
      ∃ u, exec (.ackTimeout dev q t) s = .next u ∧ (∀ y ∈ u.links.tx, y.dev = dev → y.unacked = [] ∧ y.lost = true) ∧
        Only lossFields s u))

/-- LIST_SWITCH_NOW and LIST_SWITCH_AT_TIME on a fitted port whose registers are open: a pending list that passes the
checks is set to become active at a boundary at least 64 ns ahead, or at or after SWITCH_TIME; one that fails is
flagged refused and changes nothing else. GATE_ENTRY_BOUNDARY: a switch whose time has come makes the pending list
active, from that time, and the old list pending; the entry in force is that of the time; a switch still ahead, or
none, leaves the list. CALENDAR_SLOT empties the slot of the time; a flow whose next time lies further ahead enters
its later slot, and the others are eligible. (R344, R345, R347, R348) -/
def Obligations.GatesSwitchAndFlowsFallDue : Prop :=
  (∀ (s : State) (p t : Nat), p < nPorts s →
    (barOpen s 0x400000 = true → ∀ c from_, (c = .listSwitchNow p t ∧ from_ = max s.now t + 64) ∨
        (c = .listSwitchAtTime p t ∧ from_ = max (max s.now t) (reg s (rPort p 0x54) * 2 ^ 32 + reg s (rPort p 0x50))) →
      (gclOk s p (pendList (port s p)) = true →
        ∃ u at_, exec c s = .next u ∧ from_ ≤ at_ ∧
          port u p = { port s p with refused := false, switch := some ⟨at_, pendList (port s p)⟩ } ∧
          (∀ q, q ≠ p → port u q = port s q) ∧ Only [.now, .links] s u) ∧
      (gclOk s p (pendList (port s p)) = false →
        ∃ u, exec c s = .next u ∧ port u p = { port s p with refused := true } ∧
          (∀ q, q ≠ p → port u q = port s q) ∧ Only [.now, .links] s u)) ∧
    (∃ u, exec (.gateEntryBoundary p t) s = .next u ∧
      (port u p).entry = (entryAt (port u p).active 0 (cyclePos u p (max s.now t))).1 ∧
      (∀ x, (port s p).switch = some x → x.at_ ≤ max s.now t →
        (port u p).active = x.list ∧ (port u p).base = some x.at_ ∧ (port u p).switch = none ∧
        (port u p).pendLen = (port s p).active.length) ∧
      (((port s p).switch = none ∨ ∃ x, (port s p).switch = some x ∧ max s.now t < x.at_) →
        (port u p).active = (port s p).active ∧ (port u p).base = (port s p).base ∧
        (port u p).switch = (port s p).switch) ∧
      (∀ q, q ≠ p → port u q = port s q) ∧ Only [.now, .links, .cnt] s u)) ∧
  (∀ (s : State) (p t : Nat),
    let slot := max s.now t / 64
    ∃ u, exec (.calendarSlot p t) s = .next u ∧ tget [] (port u p).wheel (slot % 4096) = [] ∧
      (∀ f ∈ tget [] (port s p).wheel (slot % 4096),
        let r := flowRate s p (f / 12) (f % 12)
        let due := cdiv (tget 0 (port s p).flows f) (64 * r)
        r ≠ 0 → slot < due → f ∈ tget [] (port u p).wheel (min due (slot + 4095) % 4096)) ∧
      (∀ k f, k ≠ slot % 4096 → f ∈ tget [] (port s p).wheel k → f ∈ tget [] (port u p).wheel k) ∧
      (∀ f, tget 0 (port u p).flows f = tget 0 (port s p).flows f) ∧
      (∀ q, q ≠ p → port u q = port s q) ∧ Only [.now, .links] s u)

/-- TRAINING_ATTEMPT on an enabled, fitted port whose domain is ON, that is not held off and has its clock: one that
reaches a width on lanes not retired exchanges identities and, without a topology record and with the partner not
restarted, leaves the port UP at width 4 and else DEGRADED, with those lanes; one that reaches none leaves it DOWN
with width 0. PORT_ENABLE of 1 enables the port and its PORT_EN reads 1; of 0 disables it: it has no partner and no
width, and is neither UP nor DEGRADED. LANE_LOCK_LOSS of a lane in use takes the port DOWN with width 0; the third
in the window retires the lane, and an earlier one only adds to its count. (R333, R334, R335, R354, R361, R383) -/
def Obligations.PortsTrainAndLoseLanes : Prop :=
  (∀ (s : State) (p t : Nat) (r : Training), (port s p).en = true → p < nPorts s → domIs s (portDom p) .on = true →
    p ∉ s.boot.heldPorts → 2 ∉ s.power.refLost → NoWaitMet s →
    (r.width ≠ 0 → trainOk (port s p) r = true → s.boot.etr = none →
      (∀ e ∈ s.links.ports, startedAnew e.2 r = false) →
      ∃ u, exec (.trainingAttempt p t r) s = .next u ∧ (port u p).partner = some (r.dev, r.port, r.startCount) ∧
        (port u p).width = r.width ∧ (port u p).lanes = r.lanes ∧
        (port u p).st = (if r.width = 4 then .up else .degraded) ∧ (∀ q, q ≠ p → port u q = port s q) ∧
        Only [.now, .links, .host, .parts, .free, .cnt] s u) ∧
    (r.width = 0 →
      ∃ u, exec (.trainingAttempt p t r) s = .next u ∧ (port u p).st = .down ∧ (port u p).width = 0 ∧
        (port u p).lanes = [] ∧ Only portFields s u)) ∧
  (∀ (s : State) (p t : Nat) (v : W32), barOpen s 0x400000 = true → p < nPorts s →
    (bit v.toNat 0 = true →
      ∃ u, exec (.portEnable p v t) s = .next u ∧ port u p = { port s p with en := true } ∧
        bit (reg u (rPort p 0)) 0 = true ∧ (∀ q, q ≠ p → port u q = port s q) ∧ Only [.now, .bar, .links, .boot] s u) ∧
    (bit v.toNat 0 = false → NoWaitMet s →
      ∃ u, exec (.portEnable p v t) s = .next u ∧ (port u p).en = false ∧ (port u p).partner = none ∧
        (port u p).width = 0 ∧ upDegraded (port u p).st = false ∧ bit (reg u (rPort p 0)) 0 = false ∧
        Only (.bar :: portFields) s u)) ∧
  (∀ (s : State) (p lane t : Nat), upDegraded (port s p).st = true → lane ∈ (port s p).lanes → NoWaitMet s →
    let k := errKey clsLink (p * 4 + lane)
    ∃ u, exec (.laneLockLoss p lane t) s = .next u ∧ (port u p).st = .down ∧ (port u p).width = 0 ∧
      (port u p).lanes = [] ∧
      (tget 0 s.faults.transient k < 2 → u.boot.st = s.boot.st →
        tget 0 u.faults.transient k = tget 0 s.faults.transient k + 1 ∧ (port u p).badLanes = (port s p).badLanes) ∧
      (2 ≤ tget 0 s.faults.transient k → lane ∈ (port u p).badLanes) ∧ Only portFields s u)

/-- A PTP_MESSAGE on an enabled port that is up: before READY the time steps by the offset; on a READY device it does
not step, the frequency correction stays within 100 ppm, and an offset above NT_STEP_MAX_NS is flagged; a Sync makes
the base LOCKED to that port. Three sync intervals without one bring HOLDOVER, and NT_HOLDOVER_MS of it FREE_RUN,
with no correction and no master's port. A PPS_IN edge on the pin that is the input is lost and counted within a
function switch; else the base is LOCKED, and before READY the first edge sets the time from GM_SECONDS and a later
one steps it to the nearest second. SYNC_INTERVAL has a Sync and its follow-up wait on every enabled port that is up
but the one toward the master. PPS_OUT is high in the first 100 ms of a second while a pin selects it. (R350, R351,
R352, R417, R418) -/
def Obligations.NetworkTimeLocksHoldsAndRuns : Prop :=
  (∀ (s : State) (p t : Nat) (sync : Bool) (off : Int), (port s p).en = true → upDegraded (port s p).st = true →
    ∃ u, exec (.ptpMessage p t sync off) s = .next u ∧
      (isReady s = false → u.now = ((max s.now t : Nat) - off).toNat) ∧
      (isReady s = true → u.now = max s.now t ∧ -100000 ≤ u.nt.freq ∧ u.nt.freq ≤ 100000 ∧
        (u.nt.stepFlag = true ↔ s.nt.stepFlag = true ∨ ntStepMax s < off.natAbs)) ∧
      (sync = true → u.nt.status = 1 ∧ u.nt.lastSync = u.now ∧ u.nt.port = some p) ∧
      (sync = false → u.nt.status = s.nt.status ∧ Only [.now, .nt, .free, .cnt] s u) ∧ Only portFields s u) ∧
  (∀ (s : State) (t : Nat), s.nt.status = 1 → s.nt.lastSync + 3 * syncNs s ≤ max s.now t →
    ∃ u, exec (.holdoverEntry t) s = .next u ∧ u.nt = { s.nt with status := 2, holdAt := max s.now t } ∧
      Only portFields s u) ∧
  (∀ (s : State) (t : Nat), s.nt.status = 2 → s.nt.holdAt + ntHoldoverNs s ≤ max s.now t →
    ∃ u, exec (.freeRunEntry t) s = .next u ∧ u.nt = { s.nt with status := 3, freq := 0, port := none } ∧
      Only portFields s u) ∧
  (∀ (s : State) (pin t : Nat), ppsPin s = some pin →
    ((gpio s pin).pend.isSome = true →
      ∃ u, exec (.ppsInEdge pin t) s = .next u ∧ u.pins = { s.pins with ppsMissed := s.pins.ppsMissed + 1 } ∧
        Only [.now, .pins] s u) ∧
    ((gpio s pin).pend = none →
      ∃ u, exec (.ppsInEdge pin t) s = .next u ∧ u.nt.status = 1 ∧ u.nt.lastSync = u.now ∧ u.nt.ppsAt = u.now ∧
        (isReady s = true → u.now = max s.now t) ∧
        (isReady s = false → s.nt.status = 0 → u.now = gmSeconds s * 1000000000) ∧
        (isReady s = false → s.nt.status ≠ 0 → u.now = (max s.now t + 500000000) / 1000000000 * 1000000000) ∧
        Only portFields s u)) ∧
  (∀ (s : State) (t : Nat),
    (∃ u, exec (.syncInterval t) s = .next u ∧
      (∀ q, port u q = if (port s q).en = true ∧ upDegraded (port s q).st = true ∧ s.nt.port ≠ some q
        then { port s q with ptp := (port s q).ptp + 2 } else port s q) ∧ Only [.now, .links] s u) ∧
    (∃ u, exec (.ppsOut t) s = .next u ∧ u.pins = { s.pins with pps := u.pins.pps } ∧
      (u.pins.pps = true ↔ (∃ k, k < 8 ∧ (gpio s k).func = 4 ∧ (gpio s k).pend = none) ∧
        max s.now t % 1000000000 < 100000000) ∧ Only [.now, .pins] s u))

/-- R61, R355, R356: after a device reset every field but ten is as at reset; the part, package flash, the queue of
commands, and what stands in host memory and in the passage store (its batches and rewrites and the thresholds last sent apart) are as
before. -/
def AfterReset (s u : State) : Prop :=
  Only [.pending, .free, .ident, .flash, .cell, .host, .ps, .boot, .power, .pins] State.reset u ∧
    u.pending = s.pending ∧ u.ident = s.ident ∧ u.flash = s.flash ∧ u.cell = s.cell ∧
    u.host = { State.reset.host with mem := s.host.mem } ∧ u.ps = { s.ps with batches := [], rewrites := [], thr := [] } ∧
    u.boot.st = .reset ∧ u.boot.fw = false ∧ u.boot.stage = 0 ∧ u.power.doms = State.reset.power.doms ∧
    (∀ slot, entry u slot = Entry.freeEntry) ∧ (∀ h, liveSlot u h = none)

/-- Fields that raising an event for a port or a domain may touch. -/
def eventFields : List StateField := [.host, .parts, .free, .cnt]

/-- Fields that switching a power domain may touch: what its unit's drain completes CANCELLED, its ports, its caches. -/
def switchFields : List StateField :=
  [.now, .power, .boot, .flash, .faults, .free, .ps, .obj, .array, .vcache, .cnt, .links, .lb, .gen, .compass, .bearing, .lists,
    .tiers, .parts, .host, .streams, .nextSid, .wp, .feat, .mem, .helm]

/-- Fields that a takeover may touch. -/
def takeoverFields : List StateField :=
  [.now, .twin, .lb, .gen, .compass, .bearing, .lists, .tiers, .parts, .host, .links, .cnt, .free, .streams, .nextSid, .wp, .obj,
    .vcache, .mem, .helm]

/-- R395: a message to the twin stands in the queue of its kind at the first twin port that is up. -/
def SentTwin (s u : State) (p : Nat) (m : Msg) : Prop :=
  (portUp s (twinPort0 s) = true → (twinDev s, p, m) ∈ tget [] (port u (twinPort0 s)).queues m.queue) ∧
    (portUp s (twinPort0 s) = false → portUp s (twinPort1 s) = true →
      (twinDev s, p, m) ∈ tget [] (port u (twinPort1 s)).queues m.queue)

/-- R366: a resource of the three sources is out of use: retired, or a link lane not trained. -/
def OutOfUse (u : State) (x : Nat × Nat) : Prop :=
  if x.1 = clsLink then x.2 % 4 ∈ (port u (x.2 / 4)).badLanes else x.2 ∈ retiredOf u x.1

/-- R411, R412: while firmware runs the array clock stands at the least of its targets. -/
def ClockAtTarget (u : State) : Prop :=
  u.power.ckArr = if u.boot.fw = true then
      min (min (if (side u 0).active = true then 1400 else gradeMHz u.ident.grade)
        (if u.power.thermal = true then 1400 else gradeMHz u.ident.grade)) u.power.pwrTarget
    else 0

/-- R433: every counter and its overflow bit stand in its shadow, and SNAP_SEQ has risen. -/
def Snapped (s u : State) : Prop :=
  (∀ i, tget Counter.reset u.cnt.cnt i =
    { tget Counter.reset s.cnt.cnt i with
      shadow := (tget Counter.reset s.cnt.cnt i).val, shOvf := (tget Counter.reset s.cnt.cnt i).ovf }) ∧
  u.cnt.seq = (s.cnt.seq + 1) % 2 ^ 32

/-- DEVICE_RESET for a rail, or while a reset input has settled active, THERMTRIP from 115 degrees, and the loss of
REFCLK_SYS put the device in reset: every Logbook entry is FREE with generation 1 and no handle is live, and every
field is as at reset but the part, package flash, the passage store and host memory; the rails, the trip and the
lost clock are kept. Without such a cause DEVICE_RESET and THERMTRIP change nothing. REFCLK_SYS coming back ends its
hold. Without REFCLK_SERDES every port is down. Derived: what survives of the pins' and rails' own condition is the
model's reading. (R61, R355, R356, R410, R413) -/
def Obligations.ResetsReturnEverythingToReset : Prop :=
  (∀ s : State,
    (∀ r, ∃ u, exec (.deviceReset (some r)) s = .next u ∧ AfterReset s u ∧ r ∈ u.boot.rails ∧
      (∀ x ∈ s.boot.rails, x ∈ u.boot.rails)) ∧
    ((side s 2).active = true ∨ (side s 3).active = true → ∃ u, exec (.deviceReset none) s = .next u ∧ AfterReset s u) ∧
    ((side s 2).active = false → (side s 3).active = false → exec (.deviceReset none) s = .next s) ∧
    (∀ temp, 115 ≤ temp → ∃ u, exec (.thermtrip temp) s = .next u ∧ AfterReset s u ∧ u.boot.tripped = true ∧
      u.boot.rails = []) ∧
    (∀ temp, temp < 115 → exec (.thermtrip temp) s = .next s)) ∧
  (∀ (s : State) (t : Nat),
    (∃ u, exec (.refclkLoss 1 false t) s = .next u ∧ AfterReset s u ∧ u.boot.noClock = true ∧ 1 ∈ u.power.refLost) ∧
    (∃ u, exec (.refclkLoss 1 true t) s = .next u ∧ u.boot = { s.boot with noClock := false } ∧ 1 ∉ u.power.refLost ∧
      Only [.now, .power, .boot] s u) ∧
    (∃ u, exec (.refclkLoss 0 false t) s = .next u ∧ 0 ∈ u.power.refLost ∧ Only [.now, .power] s u) ∧
    (∃ u, exec (.refclkLoss 2 false t) s = .next u ∧ 2 ∈ u.power.refLost ∧
      (∀ q, q < nPorts s → upDegraded (port u q).st = false) ∧ Only (.power :: portFields) s u))

/-- DEVICE_START out of reset with no hold: START_COUNT rises by one; a pending life-cycle transition applies, and on
entering RETURNED the passage store is empty and the saved settings are gone. In BLANK and SCRAPPED only the boot
ROM runs. Otherwise the image that verifies with the higher security version (A when equal) runs, bring-up stands at
stage 1 and every fitted domain powers up; the start is warm exactly under every condition of the rule, and
FORCE_COLD is clear. With no image the device is FAULTED with code 0x0100_0000 and FAULT_N, and no firmware runs.
CONFIGURATION_REQUEST is answered with retry status, and has no effect, until CONFIGURATION_READY; then it sets the
bus-master enable. (R53, R55, R355, R357, R358, R359, R369, R380, R381, R406) -/
def Obligations.StartsRunAnImageAndAnswer : Prop :=
  (∀ (s : State) (t : Nat) (same : Bool), s.boot.st = .reset → s.boot.noClock = false → resetPin s = false →
    (s.boot.tripped = false ∨ ∀ r, r < 9 → r ∈ s.boot.rails) →
    let lc := s.flash.lcPending.getD s.flash.lc
    let okA := s.flash.imgA.signed = true ∧ s.ident.minSec ≤ s.flash.imgA.sec
    let okB := s.flash.imgB.signed = true ∧ s.ident.minSec ≤ s.flash.imgB.sec
    ∃ u, exec (.deviceStart t same) s = .next u ∧
      u.flash.startCount = (s.flash.startCount + 1) % 2 ^ 32 ∧ u.flash.lc = lc ∧ u.flash.lcPending = none ∧
      u.boot.rails = [] ∧ u.boot.tripped = false ∧
      (s.flash.lcPending ≠ some 4 → u.ps = s.ps) ∧
      (s.flash.lcPending = some 4 → u.ps.sets = [] ∧ u.ps.map = [] ∧ u.ps.bad = s.ps.bad ∧ u.flash.saved = false ∧
        u.flash.grown = s.flash.grown) ∧
      ((lc = 0 ∨ lc = 5) → u.boot.st = .bringup ∧ u.boot.fw = s.boot.fw) ∧
      (lc ≠ 0 → lc ≠ 5 → ¬ okA → ¬ okB →
        u.boot.st = .faulted ∧ u.boot.fatal = 0x01000000 ∧ u.pins.faultN = true ∧ u.boot.fw = s.boot.fw) ∧
      (lc ≠ 0 → lc ≠ 5 → okA ∨ okB →
        u.boot.st = .bringup ∧ u.boot.fw = true ∧ u.boot.stage = 1 ∧
        (u.boot.imageB = true ↔ okB ∧ (okA → s.flash.imgA.sec < s.flash.imgB.sec)) ∧
        (u.boot.warm = true ↔ s.flash.warmEn = true ∧ s.flash.forceCold = false ∧ s.flash.saved = true ∧
          s.flash.lcPending ≠ some 4 ∧ same = true ∧ s.flash.warmRuns < s.flash.coldEvery ∧ s.flash.lastFaulted = false) ∧
        u.flash.forceCold = false ∧
        (∀ d, d < 96 → fittedDom s d = true → (dom u d).st = .poweringUp)) ∧
      Only [.now, .boot, .flash, .ps, .faults, .host, .pins, .power, .parts, .links, .lb, .cnt] s u) ∧
  (∀ s : State,
    (s.boot.st ≠ .reset → ∃ u, exec .configurationReady s = .next u ∧ u.host = { s.host with cfgReady := true } ∧
      Only [.host] s u) ∧
    (∀ bm, s.host.cfgReady = false → ∃ u, exec (.configurationRequest bm) s = .next u ∧
      u.host = { s.host with lastRetry := true } ∧ Only [.host] s u) ∧
    (∀ bm, s.host.cfgReady = true → ∃ u, exec (.configurationRequest bm) s = .next u ∧
      u.host = { s.host with lastRetry := false, busMaster := bm.getD s.host.busMaster, mem := u.host.mem } ∧
      ((dsbOn s = true ∨ dsbOn u = false) → u.host.mem = s.host.mem) ∧
      (dsbOn s = false → dsbOn u = true → BytesAt u.host.mem (dsbBase s) (le 4 1 ++ le 4 s.boot.st.toNum)) ∧
      Only [.host] s u))

/-- R310, R311: a channel all of whose targets are used: at most 8, of at most 1 TiB, within the limits, of one geometry. -/
def GoodChannel (g : Nat × Nat × Nat) (l : List FlashTarget) : Prop :=
  l.length ≤ 8 ∧ sumN (l.map (·.gbit)) ≤ 8192 ∧ ∀ x ∈ l, targetOk x = true ∧ flashGeometry x = g

/-- R310: the rate of a channel's targets: the highest of the four that every one of them reaches; 0 where there is none. -/
def TrainedRate (l : List FlashTarget) (r : Nat) : Prop :=
  let all := fun (q : Nat) => l ≠ [] ∧ ∀ x ∈ l, q ∈ x.rates
  (r = 0 ∧ ∀ q ∈ [3600, 3200, 2400, 1600], ¬ all q) ∨
    (r ∈ [3600, 3200, 2400, 1600] ∧ all r ∧ ∀ q ∈ [3600, 3200, 2400, 1600], r < q → ¬ all q)

/-- On a cold start in stage 1, before its run has ended, LOGIC_BIST holds off the failing link ports, or, when another
domain fails, ends FAULTED with class 0x02 and that domain. BIST_START, while the life cycle allows it and no run is busy, is
busy with the fitted domains of BIST_MASK, their EN 0 and those that were ON draining; the run's end leaves them OFF with its
failures recorded. INTERFACE_TRAINING, after that run or on a warm start, gives each I/O die the lowest rate its board
channels reached, each flash channel whose targets are all good their number and the highest rate they all reach, rejects
every target out of the limits, and fails HBM sites, board channels and the dies of flash channels that did not train.
MEMORY_TEST fails what had an uncorrectable error, or more corrected ones than its limit; both record what failed and move
on to stages 2 and 3, the second with every unit of memory zero. DEFECT_MAP_BUILD appends each new failure to the grown log
once; it ends FAULTED with an entry's class and index, or with every entry of the three sources out of use, and, when no
checkpoint verified, with an empty passage store and PS_MAP_NEW. Set-up registers that were written keep their values. (R292,
R310, R311, R361, R362, R364, R365, R366, R367, R368, R369, R379) -/
def Obligations.BringUpTestsMapWhatFails : Prop :=
  (∀ (s : State) (failed : List Nat),
    (s.boot.bistBusy = false → inStage s 1 = true → s.boot.warm = false → s.boot.bistDone = false →
      let bad := (List.range 96).filter fun d => failed.contains d && fittedDom s d
      ((∀ d ∈ bad, (domPort d).isSome = true) →
        ∃ u, exec (.logicBist failed) s = .next u ∧ u.boot.st = .bringup ∧
          (∀ q, q ∈ u.boot.heldPorts ↔ ∃ d ∈ bad, domPort d = some q) ∧ u.boot.bistFailed = bad ∧ Only [.boot] s u) ∧
      (∀ d, (bad.find? fun d => (domPort d).isNone) = some d →
        ∃ u, exec (.logicBist failed) s = .next u ∧ u.boot.st = .faulted ∧ u.boot.fatal = fatalCode 2 d ∧
          u.pins.faultN = true ∧ Only errFields s u)) ∧
    (s.boot.bistBusy = true →
      ∃ u, exec (.logicBist failed) s = .next u ∧ u.boot.bistBusy = false ∧
        u.boot.bistFailed = s.boot.bistRun.filter failed.contains ∧
        (u.boot.bistFail = true ↔ ∃ d ∈ s.boot.bistRun, d ∈ failed) ∧
        (∀ d ∈ s.boot.bistRun, (dom u d).st = .off) ∧ (∀ d, d ∉ s.boot.bistRun → dom u d = dom s d) ∧
        Only switchFields s u)) ∧
  (∀ (s : State) (v : W32), s.boot.fw = true → (s.flash.lc = 1 ∨ s.flash.lc = 4) → bit v.toNat 0 = true →
    s.boot.bistBusy = false →
    ∃ u, exec (.bistStart v) s = .next u ∧ u.boot.bistBusy = true ∧
      (∀ d, d ∈ u.boot.bistRun ↔ d < 96 ∧ fittedDom s d = true ∧
        bit (reg s (rBring (0x108 + 4 * (d / 32)))) (d % 32) = true) ∧
      (∀ d ∈ u.boot.bistRun, (dom u d).en = false ∧
        ((dom s d).st = .on → (dom u d).st = .draining) ∧ ((dom s d).st ≠ .on → (dom u d).st = (dom s d).st)) ∧
      Only switchFields s u) ∧
  (∀ (s : State) (hbm capacity rates : List Nat) (chans : List (List FlashTarget)) (t : Nat), inStage s 1 = true →
    s.boot.warm = true ∨ s.boot.bistDone = true →
    ∃ u, exec (.interfaceTraining hbm capacity rates chans t) s = .next u ∧
      u.boot = { s.boot with stage := 2, fails := u.boot.fails } ∧ u.flash = { s.flash with saved := true } ∧
      u.tiers = { s.tiers with boardCaps := capacity, dieRates := u.tiers.dieRates, boardRate := u.tiers.boardRate } ∧
      (∀ d, d < s.ident.iods →
        let on := ((List.range 8).map fun j => rates.getD (8 * d + j) 0).filter (· != 0)
        (on = [] → u.tiers.dieRates.getD d 0 = 0) ∧
        (on ≠ [] → u.tiers.dieRates.getD d 0 ∈ on ∧ ∀ r ∈ on, u.tiers.dieRates.getD d 0 ≤ r)) ∧
      (∀ g, (∀ l ∈ chans, GoodChannel g l) → u.ps.rejected = [] ∧
        ∀ c, c < nFlash s → (tget (0, 0) u.ps.chans c).2 = (chans.getD c []).length ∧
          TrainedRate (chans.getD c []) (tget (0, 0) u.ps.chans c).1) ∧
      (∀ c l i x, c < nFlash s → chans[c]? = some l → l[i]? = some x → targetOk x = false → (c, i) ∈ u.ps.rejected) ∧
      (∀ h ∈ hbm, ∀ k, k < 32 → (clsHbm, 32 * h + k) ∈ u.boot.fails) ∧
      (∀ c, c < nChan s 1 → rates.getD c 0 = 0 → (clsBoard, c) ∈ u.boot.fails) ∧
      (∀ c, c < nFlash s → (tget (0, 0) u.ps.chans c).1 = 0 → ∀ d ∈ diesOn u c, (clsDie, d) ∈ u.boot.fails) ∧
      (∀ o, (tget none s.bar.regs o).isSome = true → tget none u.bar.regs o = tget none s.bar.regs o) ∧
      Only [.now, .tiers, .ps, .flash, .boot, .host, .bar] s u) ∧
  (∀ (s : State) (hbm board banks : List (Nat × Bool × Nat)) (logbook : Bool × Nat), inStage s 2 = true →
    let corr := bits s.flash.mtParams 31 16
    let failing := fun (limit : Nat) (r : Nat × Bool × Nat) => r.2.1 = true ∨ limit < r.2.2
    ∃ u, exec (.memoryTest hbm board banks logbook) s = .next u ∧ u.boot.stage = 3 ∧ (∀ a, u.mem.byte a = 0) ∧
      u.tiers = { s.tiers with poison := [] } ∧
      (∀ x, x ∈ u.boot.fails ↔ x ∈ s.boot.fails ∨ (∃ r ∈ hbm, failing corr r ∧ x = (clsHbm, r.1)) ∨
        (∃ r ∈ board, failing corr r ∧ x = (clsBoard, r.1)) ∨ (∃ r ∈ banks, failing 16 r ∧ x = (clsBank, r.1)) ∨
        (failing 16 (0, logbook) ∧ x = (clsLogbook, 0))) ∧
      Only [.mem, .tiers, .boot, .host] s u) ∧
  (∀ (s : State) (t : Nat) (mapOk : Bool), inStage s 3 = true → s.boot.mapped = false →
    let sources := s.ident.fused ++ s.flash.grown ++ s.boot.fails
    ∃ u, exec (.defectMapBuild t mapOk) s = .next u ∧
      (∀ x, x ∈ u.flash.grown ↔ x ∈ s.flash.grown ∨ (x ∈ s.boot.fails ∧ x ∉ s.ident.fused)) ∧
      (u.boot.st = .faulted → u.pins.faultN = true ∧ ∃ x ∈ sources, u.boot.fatal = fatalCode x.1 x.2) ∧
      (u.boot.st ≠ .faulted → u.boot.mapped = true ∧
        (s.array.rowSpare = none → s.array.colSpare = none → (∀ x ∈ sources, x.1 = clsLine → x.2 < 132) →
          ∀ x ∈ sources, OutOfUse u x) ∧
        (mapOk = false → u.boot.mapNew = true ∧ u.ps.sets = [] ∧ u.ps.map = []) ∧
        (mapOk = true → u.boot.mapNew = s.boot.mapNew ∧ u.ps.map = s.ps.map ∧ u.ps.open_ = [])) ∧
      (∀ o, (tget none s.bar.regs o).isSome = true → tget none u.bar.regs o = tget none s.bar.regs o) ∧
      Only (.tiers :: .array :: .bearing :: .ps :: .pins :: .lb :: .bar :: portFields) s u)

/-- SETUP_DONE before READY: when every device-wide set-up rule holds, the record is read next, PORT_EN of every port
applies again, and stage 4 begins where stage 3 has ended; at the first rule that fails SETUP_REFUSED_AT names its
register and SETUP_DONE is clear. ETR_READ: a record that is out of range, or that could not be read, is refused; a
good one classes every fitted port, and in stage 4 the device is READY exactly when the check passes and PWR_FAIL_N
does not hold it. TOPO_WAIT_EXPIRY sets TOPO_FAIL after TOPO_WAIT_S of stage 4. LC_REQUEST makes the next state of
the table, or SCRAPPED, pend (RETURNED with its authorisation); any other is refused. (R370, R371, R372, R373, R381,
R424) -/
def Obligations.SetUpIsCheckedThenTopology : Prop :=
  (∀ (s : State) (t : Nat), s.boot.fw = true → s.boot.st = .bringup →
    ((∀ r ∈ setupRules s, r.1 = true) →
      ∃ u, exec (.setupDone t) s = .next u ∧ u.boot.setupDone = true ∧ u.boot.refused = false ∧ u.boot.etrWait = true ∧
        (∀ q, (tget none (s.links.ports.map fun e => (e.1, some e.2)) q).isSome = true →
          port u q = { port s q with en := bit (reg s (rPort q 0)) 0 }) ∧
        (s.boot.mapped = true → s.boot.stage4At = none → u.boot.stage = 4 ∧ u.boot.stage4At = some (max s.now t)) ∧
        (s.boot.mapped = false → u.boot.stage = s.boot.stage) ∧ Only [.now, .boot, .links, .host] s u) ∧
    (∀ r, (setupRules s).find? (fun r => !r.1) = some r →
      ∃ u, exec (.setupDone t) s = .next u ∧ u.boot.setupDone = false ∧ u.boot.refused = true ∧
        u.boot.refusedAt = r.2 ∧ u.boot.etrWait = false ∧ u.boot.stage = s.boot.stage ∧ Only [.now, .boot, .links] s u)) ∧
  (∀ (s : State) (t : Nat), s.boot.etrWait = true →
    (∀ rec : HostRead, (∀ b, rec = some b → etrOk s b = false) →
      ∃ u, exec (.etrRead rec t) s = .next u ∧ u.boot.refused = true ∧ u.boot.refusedAt = rTOPO_LO ∧
        u.boot.setupDone = false ∧ u.boot.etr = none ∧ Only [.now, .boot] s u) ∧
    (∀ b : List Byte, etrOk s b = true →
      ∃ u, exec (.etrRead (some b) t) s = .next u ∧ u.boot.etr = some (parseEtr b) ∧ u.boot.etrWait = false ∧
        (∀ q, q < nPorts s → portClass u q = classOf s (parseEtr b) q) ∧
        (inStage s 4 = true → s.boot.setupDone = true →
          (u.boot.st = .ready ↔ topoPass u (parseEtr b) = true ∧ pwrFail s = false)) ∧ Only portFields s u)) ∧
  (∀ (s : State) (t a : Nat) (e : Etr), s.boot.etr = some e → s.boot.stage4At = some a → inStage s 4 = true →
    a + e.waitS * 1000000000 ≤ max s.now t →
    ∃ u, exec (.topoWaitExpiry t) s = .next u ∧ u.boot = { s.boot with topoFail := true } ∧ Only [.now, .boot] s u) ∧
  (∀ (s : State) (v : W32) (auth : Bool), barOpen s 0x10000 = true →
    let l := v.toNat % 8
    let good := l ≤ 5 ∧ s.flash.lc < l ∧ (l = s.flash.lc + 1 ∨ l = 5) ∧ (l = 4 → auth = true)
    (good → ∃ u, exec (.lcRequest v auth) s = .next u ∧ u.flash = { s.flash with lcPending := some l } ∧
      u.boot = { s.boot with lcRefused := false } ∧ Only [.flash, .boot] s u) ∧
    (¬ good → ∃ u, exec (.lcRequest v auth) s = .next u ∧ u.boot = { s.boot with lcRefused := true } ∧ Only [.boot] s u))

/-- WATCHDOG_STRIKE restarts the watchdog's 2 ms; WATCHDOG_EXPIRY after 2 ms without a strike makes the device FAULTED
with class 0x01, index 1, FAULT_N asserted and FAILOVER in the queue of every twin port that is up.
TWIN_HEARTBEAT_SEND of a READY member puts a heartbeat in the queue of every twin port that is up. A heartbeat from
the twin that names this device counts for the interval, and, on a READY device, lets mirroring cover new requests;
any other is discarded and counted. HEARTBEAT_MISS: an interval with a heartbeat ends the run of misses; one without
adds a miss, and after the fifth in a row of a twin that was active its DSB is read. (R388, R389, R391, R395, R396,
R400) -/
def Obligations.WatchdogsAndHeartbeatsAreHeard : Prop :=
  (∀ (s : State) (t : Nat), s.boot.fw = true →
    (∃ u, exec (.watchdogStrike t) s = .next u ∧ u.faults = { s.faults with strike := max s.now t } ∧
      Only [.now, .faults] s u) ∧
    (s.boot.st ≠ .faulted → s.faults.strike + 2000000 ≤ max s.now t →
      ∃ u, exec (.watchdogExpiry t) s = .next u ∧ u.boot = { s.boot with st := .faulted, fatal := 0x01000001 } ∧
        u.pins = { s.pins with faultN := true } ∧
        (twinEn s = true → ∀ q ∈ [twinPort0 s, twinPort1 s], portUp s q = true →
          (twinDev s, 0, Msg.failover) ∈ tget [] (port u q).queues 2) ∧ Only errFields s u)) ∧
  (∀ (s : State) (t : Nat), isReady s = true → twinEn s = true →
    (∃ u, exec (.twinHeartbeatSend t) s = .next u ∧
      (∀ q ∈ [twinPort0 s, twinPort1 s], portUp s q = true →
        (twinDev s, 0, Msg.heartbeat) ∈ tget [] (port u q).queues 2) ∧
      (∀ q, (∃ k ∈ [twinPort0 s, twinPort1 s], portUp s k = true) → portUp s q = false → port u q = port s q) ∧
      Only [.now, .links] s u) ∧
    (s.twin.seen = true →
      ∃ u, exec (.heartbeatMiss t) s = .next u ∧ u.twin = { s.twin with seen := false, misses := 0, reading := false } ∧
        Only [.now, .twin] s u) ∧
    (s.twin.seen = false → resumedWaiting s = [] →
      ∃ u, exec (.heartbeatMiss t) s = .next u ∧
        u.twin = { s.twin with misses := s.twin.misses + 1, reading := u.twin.reading } ∧
        (u.twin.reading = true ↔ s.twin.reading = true ∨ (s.twin.active = true ∧ 5 ≤ s.twin.misses + 1)) ∧
        Only [.now, .twin] s u)) ∧
  (∀ (s : State) (src names : Nat),
    (twinEn s = true → src = twinDev s → names = devno s →
      ∃ u, exec (.twinHeartbeatReceive src names) s = .next u ∧ u.twin.seen = true ∧ u.twin.misses = s.twin.misses ∧
        (u.twin.active = true ↔ s.twin.active = true ∨ isReady s = true) ∧ u.twin.discarded = s.twin.discarded ∧
        Only [.twin, .links] s u) ∧
    ((twinEn s = false ∨ src ≠ twinDev s ∨ names ≠ devno s) →
      ∃ u, exec (.twinHeartbeatReceive src names) s = .next u ∧
        u.twin = { s.twin with discarded := s.twin.discarded + 1 } ∧ Only [.twin, .links] s u))

/-- MIRROR_RECORD from the twin on a READY device: an admission takes the next slot within MIRROR_QUOTA and a completion
slot, else it is refused; a token joins its entry; both are acknowledged. MIRROR_ACK: a refused admission clears
MIRRORED; a commit's acknowledgement lets its record go. FAILOVER, and a DSB read that shows the twin FAULTED or 5
ms still, take over: every mirrored entry leaves MIRROR but those COMMITTING, which wait for their slot to be read;
an ABORTING one ends ABORTED with its handle, TAG and token count. A DSB that moves on clears MIRRORED everywhere
and frees the entries; a failed read does nothing. TAKEOVER_SLOT_READ frees an entry whose record is in its slot,
else ends it with the mirrored status, a success as OK_RESUMED. (R50, R70, R392, R393, R395, R396, R397) -/
def Obligations.TwinsMirrorAndTakeOver : Prop :=
  (∀ (s : State) (src : Nat) (m : MirrorMsg), isReady s = true → twinEn s = true → src = twinDev s →
    (∀ e : EntryImage, m = .admission e →
      (s.lb.mirrors.length < mirrorQuota s → (part s e.handle.part).st = .ready → cqRoom s e.handle.part = true →
        s.lb.fresh < 262144 →
        ∃ u, exec (.mirrorRecord src m) s = .next u ∧
          u.lb.mirrors = s.lb.mirrors ++ [⟨s.lb.fresh, e, [], [], 1, none, false, 0, 0⟩] ∧
          (entry u s.lb.fresh).st = .mirror ∧ (entry u s.lb.fresh).tag = e.tag ∧
          (∀ k, k ≠ s.lb.fresh → entry u k = entry s k) ∧
          part u e.handle.part = { part s e.handle.part with mirrorSlots := (part s e.handle.part).mirrorSlots + 1 } ∧
          SentTwin s u e.handle.part (.mirrorAck m true) ∧ Only [.lb, .parts, .links] s u) ∧
      (mirrorQuota s ≤ s.lb.mirrors.length →
        ∃ u, exec (.mirrorRecord src m) s = .next u ∧ SentTwin s u e.handle.part (.mirrorAck m false) ∧
          Only [.links] s u)) ∧
    (∀ (h : Handle) (pos id : Nat) (x : Mirror), m = .token h pos id → mirrorOf s h = some x →
      ∃ u, exec (.mirrorRecord src m) s = .next u ∧
        mirrorOf u h = some { x with
          toks := x.toks ++ [id], firstAt := if x.toks = [] then s.now else x.firstAt, lastAt := s.now } ∧
        (∀ h', h' ≠ h → mirrorOf u h' = mirrorOf s h') ∧ SentTwin s u h.part (.mirrorAck m true) ∧ Only [.lb, .links] s u)) ∧
  (∀ (s : State) (m : MirrorMsg) (t slot : Nat) (w : Work), liveSlot s (MirrorMsg.handle m) = some slot →
    work s slot = some w → w.handle = MirrorMsg.handle m → (entry s slot).mirrored = true →
    (w.held = [] →
      ∃ u, exec (.mirrorAck m false t) s = .next u ∧ entry u slot = { entry s slot with mirrored := false } ∧
        work u slot = some { w with commitHeld := false } ∧ OtherSlots s u slot ∧
        Only [.now, .links, .cnt, .lb, .parts, .host] s u) ∧
    (∀ h c r, m = .commit h c → (part s h.part).cqWait = [r] → r.held = some h →
      ∃ u, exec (.mirrorAck m true t) s = .next u ∧ work u slot = some { w with commitHeld := false } ∧
        (part u h.part).cqWait = [] ∧ BytesAt u.host.mem (cqBase s h.part + 32 * (r.n % cqSize s h.part)) r.bytes ∧
        (∀ k, entry u k = entry s k) ∧ Only [.now, .links, .lb, .parts, .host] s u)) ∧
  (∀ (s : State) (c : Instr) (t : Nat), isReady s = true →
    ((c = .failover (twinDev s) t ∧ twinEn s = true ∧ s.twin.took = false) ∨
      (∃ b : List Byte, c = .twinDsbRead (some b) t ∧ s.twin.reading = true ∧
        (u32 b 4 = 3 ∨ u64 b 0x10 + 5000000 ≤ max s.now t))) →
    ∃ u, exec c s = .next u ∧
      u.twin = { s.twin with active := false, seen := false, misses := 0, reading := false, took := true } ∧
      (∀ x ∈ u.lb.mirrors, x.st = ReqSt.committing.toNum ∧ x.waiting = true) ∧
      (∀ m, s.lb.mirrors = [m] → m.st = ReqSt.aborting.toNum → s.lb.work = [] → NoWaitMet s →
        Ended u m.slot .aborted m.toks.length ∧ (entry u m.slot).tag = m.img.tag ∧
        liveSlot u m.img.handle = some m.slot) ∧ Only takeoverFields s u) ∧
  (∀ (s : State) (t : Nat), isReady s = true → s.twin.reading = true →
    (∃ u, exec (.twinDsbRead none t) s = .next u ∧ Only [.now] s u) ∧
    (∀ b : List Byte, u32 b 4 ≠ 3 → max s.now t < u64 b 0x10 + 5000000 →
      ∃ u, exec (.twinDsbRead (some b) t) s = .next u ∧
        u.twin = { s.twin with active := false, seen := false, misses := 0, reading := false } ∧ u.lb.mirrors = [] ∧
        (∀ e ∈ s.lb.work, (entry u e.1).mirrored = false) ∧ Only takeoverFields s u)) ∧
  (∀ (s : State) (slot t : Nat) (m : Mirror) (c : Commit) (b : List Byte),
    s.lb.mirrors.find? (fun m => m.slot == slot && m.waiting) = some m → m.commit = some c →
    (u64 b 0 = m.img.handle.toNum → bit (u8 b 31) 0 = c.phase →
      ∃ u, exec (.takeoverSlotRead slot t (some b)) s = .next u ∧ (∀ x ∈ u.lb.mirrors, x.slot ≠ slot) ∧
        entry u slot = { Entry.freeEntry with gen := nextGen (entry s slot).gen } ∧ slot ∈ u.lb.freed ∧
        Only [.now, .lb, .parts] s u) ∧
    ((u64 b 0 ≠ m.img.handle.toNum ∨ bit (u8 b 31) 0 ≠ c.phase) → work s slot = none → isReady s = true →
      ∃ u, exec (.takeoverSlotRead slot t (some b)) s = .next u ∧
        Ended u slot (if c.status.isSuccess then .okResumed else c.status) c.detail ∧
        (entry u slot).tag = m.img.tag ∧ (entry u slot).sq = m.img.sq ∧
        (∃ w, work u slot = some w ∧ w.handle = m.img.handle) ∧ OtherSlots s u slot ∧
        Only [.now, .host, .parts, .lb, .obj, .mem, .helm, .gen, .compass, .tiers, .links, .cnt] s u))

/-- While firmware runs, for a fitted domain: an EN of 0 that the rules ignore sets REFUSED and nothing else; any other
clears EN and starts the drain of every domain that is ON among those switched with it (domains 0 to 14 as one), the
others standing. DRAIN_DONE of a unit that holds no work: FENCED. ISOLATION_DONE: OFF, and at once POWERING_UP when
every EN of its group is 1. An EN of 1 does not stop a drain; it powers up the domains of its group that are OFF,
once all of their EN are 1. POWER_UP_DONE: ON, and at once DRAINING when an EN of its group is 0. No other domain
changes, in each case. (R405, R406, R407, R408, R409) -/
def Obligations.DomainsDrainFenceAndReturn : Prop :=
  (∀ (s : State) (d t : Nat), s.boot.fw = true → fittedDom s d = true →
    (enRefused s d = true →
      ∃ u, exec (.domainDisable d t) s = .next u ∧ dom u d = { dom s d with refused := true } ∧
        (∀ x, x ≠ d → dom u x = dom s x) ∧ Only [.now, .power] s u) ∧
    (enRefused s d = false →
      ∃ u, exec (.domainDisable d t) s = .next u ∧ (dom u d).en = false ∧
        (∀ x ∈ domGroup d, (dom u x).st = if (dom s x).st = .on then DomSt.draining else (dom s x).st) ∧
        (∀ x, x ≠ d → (dom u x).en = (dom s x).en) ∧ (∀ x, x ∉ domGroup d → dom u x = dom s x) ∧ Only switchFields s u) ∧
    (∃ u, exec (.domainEnable d) s = .next u ∧ (dom u d).en = true ∧
      ((∀ x ∈ domGroup d, x ≠ d → (dom s x).en = true) →
        ∀ x ∈ domGroup d, (dom u x).st = if (dom s x).st = .off then DomSt.poweringUp else (dom s x).st) ∧
      ((∃ x ∈ domGroup d, x ≠ d ∧ (dom s x).en = false) → ∀ x, (dom u x).st = (dom s x).st) ∧
      (∀ x, x ≠ d → (dom u x).en = (dom s x).en) ∧ (∀ x, x ∉ domGroup d → dom u x = dom s x) ∧ Only [.power] s u)) ∧
  (∀ (s : State) (d t : Nat),
    ((dom s d).st = .draining → (d ≤ 14 → s.helm.issued = [] ∧ s.helm.rerun = [] ∧ s.helm.swap = none) →
      (d = 23 → ∀ l ∈ s.lists, 32 ≤ l.1) → (d = 24 → ∀ l ∈ s.lists, l.1 < 32) →
      ∃ u, exec (.domainDrainDone d t) s = .next u ∧ dom u d = { dom s d with st := .fenced } ∧
        (∀ x, x ≠ d → dom u x = dom s x) ∧ Only switchFields s u ∧
        (domPort d = none → Only (.now :: .power :: eventFields) s u)) ∧
    ((dom s d).st = .fenced →
      ∃ u, exec (.domainIsolationDone d t) s = .next u ∧
        ((∀ x ∈ domGroup d, (dom s x).en = true) → (dom u d).st = .poweringUp) ∧
        ((∃ x ∈ domGroup d, (dom s x).en = false) → (dom u d).st = .off) ∧ (dom u d).en = (dom s d).en ∧
        (∀ x, x ∉ domGroup d → dom u x = dom s x) ∧ (∀ q, domPort d = some q → (port u q).st = .off) ∧
        Only switchFields s u) ∧
    ((dom s d).st = .poweringUp →
      ∃ u, exec (.domainPowerUpDone d t) s = .next u ∧
        ((∀ x ∈ domGroup d, (dom s x).en = true) → (dom u d).st = .on ∧
          ∀ q, domPort d = some q → (port s q).st = .off → (port u q).st = .down) ∧
        ((∃ x ∈ domGroup d, (dom s x).en = false) → (dom u d).st = .draining) ∧ (dom u d).en = (dom s d).en ∧
        (∀ x, x ≠ d → dom u x = dom s x) ∧ Only switchFields s u))

/-- The array clock stands at the least of 1.40 GHz while THROTTLE_N is settled active, 1.40 GHz while a sensor has
reached TJ_THROTTLE and not fallen 5 degrees below it, and the power target, which each 1 ms goes down 50 MHz (not
below 1.40 GHz) above the limit and up 50 MHz (not above the grade clock) below 95 % of it; at 1.40 GHz above the
limit, or 10 degrees above TJ_THROTTLE, one more sixteenth of busy time is given up. A settled change of THROTTLE_N,
PWR_FAIL_N, PERST_N or SYS_RST_N sets its filtered state and clears its unsettled bit; unsettled, an input is
active, flagged and counted (to 255). PWR_FAIL_N active stops passage-store writes; PERST_N and SYS_RST_N active
reset the device. THROTTLE_STUCK is set after 100 ms, not before. (R325, R355, R411, R412, R414, R416) -/
def Obligations.ClockAndInputsAreLimited : Prop :=
  (∀ (s : State) (temp : Nat),
    ∃ u, exec (.temperatureCrossing temp) s = .next u ∧
      u.power = { s.power with
        tj := temp % 256, tjMax := max s.power.tjMax (temp % 256), thermal := u.power.thermal, ckArr := u.power.ckArr } ∧
      (u.power.thermal = true ↔ tjThrottle s ≤ temp ∨ (s.power.thermal = true ∧ tjThrottle s < temp + 5)) ∧
      ClockAtTarget u ∧ Only [.power] s u) ∧
  (∀ (s : State) (t watts : Nat), s.boot.fw = true →
    ∃ u, exec (.powerLimitTick t watts) s = .next u ∧
      u.power.pwrTarget = (if pwrLimit s < watts then max 1400 (s.power.pwrTarget - 50)
        else if watts * 100 < 95 * pwrLimit s then min (gradeMHz s.ident.grade) (s.power.pwrTarget + 50)
        else s.power.pwrTarget) ∧
      u.helm = { s.helm with
        delay := if (s.power.pwrTarget = 1400 ∧ pwrLimit s < watts) ∨ tjThrottle s + 10 ≤ s.power.tj then min 16 (s.helm.delay + 1)
          else if watts * 100 < 95 * pwrLimit s then s.helm.delay - 1 else s.helm.delay } ∧
      (u.power.limiting = true ↔ u.power.pwrTarget < gradeMHz s.ident.grade) ∧ u.power.avg = watts % 4096 ∧
      ClockAtTarget u ∧ Only [.now, .helm, .power, .cnt] s u) ∧
  (∀ (s : State) (t : Nat) (active : Bool),
    (∃ u, exec (.sidebandInputChange 0 t active) s = .next u ∧
      side u 0 = { side s 0 with active := active, unsettled := false } ∧
      u.power.throttleAt = (if active = true then some (s.power.throttleAt.getD (max s.now t)) else none) ∧
      u.power.stuck = (active && s.power.stuck) ∧ ClockAtTarget u ∧ Only [.now, .pins, .power] s u) ∧
    (∃ u, exec (.sidebandInputChange 1 t active) s = .next u ∧
      side u 1 = { side s 1 with active := active, unsettled := false } ∧ u.ps.stopped = active ∧
      (active = true → u.ps = { s.ps with stopped := true } ∧ Only [.now, .pins, .ps] s u) ∧
      Only (.pins :: .ps :: portFields) s u) ∧
    (∀ pin, pin = 2 ∨ pin = 3 →
      ∃ u, exec (.sidebandInputChange pin t active) s = .next u ∧ (side u pin).active = active ∧
        (side u pin).unsettled = false ∧ (active = true → AfterReset s u) ∧ (active = false → Only [.now, .pins] s u)) ∧
    (∀ pin, pin = 0 ∨ pin = 1 →
      ∃ u, exec (.sidebandUnsettled pin t) s = .next u ∧ side u pin = ⟨true, true, min 255 ((side s pin).count + 1)⟩ ∧
        (pin = 1 → u.ps.stopped = true) ∧ (pin = 0 → ClockAtTarget u) ∧ Only [.now, .pins, .ps, .power, .cnt] s u) ∧
    (∀ pin, pin = 2 ∨ pin = 3 →
      ∃ u, exec (.sidebandUnsettled pin t) s = .next u ∧ (side u pin).active = true ∧ (side u pin).unsettled = true ∧
        AfterReset s u)) ∧
  (∀ (s : State) (t a : Nat), s.power.throttleAt = some a → s.power.stuck = false →
    (a + 100000000 ≤ max s.now t →
      ∃ u, exec (.throttleStuck t) s = .next u ∧ u.power = { s.power with stuck := true } ∧
        Only (.now :: .power :: eventFields) s u) ∧
    (max s.now t < a + 100000000 → exec (.throttleStuck t) s = .next s))

/-- PIN_FUNCTION_SWITCH, the region open: PULL, GPIO_OE and GPIO_OUT take the write (PULL not 3), a 1 clears XFER_ERR; a
new FUNC waits for the end of the switch, replacing one that waits, and a UART or I2C transaction in flight sets
XFER_ERR; FUNC 5 to 7 or PULL 3 is counted as ignored and leaves that field. PIN_SWITCH_END starts the function that
waits. Once firmware runs, MCTP Set and Get Endpoint ID set and answer the endpoint ID, and any other message is
answered not ready before READY (code 4: the model's choice, assumption log 49) and served after. JTAG IDCODE,
BYPASS and, but in SCRAPPED, SAMPLE/PRELOAD leave the device as it is; every other instruction does nothing where
R380 closes it, and is refused by name where it is open, as no rule says what it does. (R374, R380, R417, R418,
R420, R422) -/
def Obligations.PinsMctpAndJtagAnswer : Prop :=
  (∀ (s : State) (k : Nat) (v : W32) (busy : Bool), barOpen s 0x40000 = true → k < 8 →
    let f := bits v.toNat 2 0
    let g := gpio s k
    ∃ u, exec (.pinFunctionSwitch k v busy) s = .next u ∧ (gpio u k).func = g.func ∧
      (gpio u k).pull = (if bits v.toNat 4 3 = 3 then g.pull else bits v.toNat 4 3) ∧
      (gpio u k).oe = bit v.toNat 5 ∧ (gpio u k).out = bit v.toNat 6 ∧
      (gpio u k).pend = (if 5 ≤ f ∨ (f = g.func ∧ g.pend = none) then g.pend else some f) ∧
      ((gpio u k).xferErr = true ↔ (g.xferErr = true ∧ bit v.toNat 9 = false) ∨
        (f < 5 ∧ f ≠ g.func ∧ g.pend = none ∧ busy = true ∧ (g.func = 1 ∨ g.func = 2))) ∧
      (5 ≤ f ∨ bits v.toNat 4 3 = 3 → u.bar = { s.bar with
        ignored := min 0xFFFFFFFF (s.bar.ignored + 1), ignoredAt := rGPIO + 4 * k }) ∧
      (f < 5 → bits v.toNat 4 3 ≠ 3 → u.bar = s.bar) ∧ (∀ j, j ≠ k → gpio u j = gpio s j) ∧ Only [.pins, .bar] s u) ∧
  (∀ (s : State) (k f : Nat), k < 8 → (gpio s k).pend = some f →
    ∃ u, exec (.pinSwitchEnd k) s = .next u ∧ gpio u k = { gpio s k with func := f, pend := none } ∧
      (∀ j, j ≠ k → gpio u j = gpio s j) ∧ Only [.pins] s u) ∧
  (∀ s : State, s.boot.fw = true →
    (∀ eid, ∃ u, exec (.mctpSetEndpointId eid) s = .next u ∧ u.pins = { s.pins with eid := eid % 256, reply := 0 } ∧
      Only [.pins] s u) ∧
    (∃ u, exec .mctpGetEndpointId s = .next u ∧ u.pins = { s.pins with reply := s.pins.eid } ∧ Only [.pins] s u) ∧
    (s.boot.st = .bringup →
      ∃ u, exec .mctpOtherMessage s = .next u ∧ u.pins = { s.pins with reply := 4 } ∧ Only [.pins] s u) ∧
    (s.boot.st ≠ .bringup →
      ∃ u, exec .mctpOtherMessage s = .next u ∧ u.pins = { s.pins with reply := u.pins.reply } ∧
        Only [.pins, .free] s u)) ∧
  (∀ s : State, s.boot.fw = false →
    (∀ c ∈ [Instr.mctpGetEndpointId, .mctpOtherMessage], exec c s = .next s) ∧
    ∀ eid, exec (.mctpSetEndpointId eid) s = .next s) ∧
  (∀ (s : State) (code : Nat),
    (∀ c, (c = .jtagIdcode ∨ (c = .jtagSamplePreload ∧ s.flash.lc ≠ 5)) →
      ∃ u, exec c s = .next u ∧ u.pins = { s.pins with reply := u.pins.reply } ∧ Only [.pins, .free] s u) ∧
    exec .jtagBypass s = .next s ∧ (s.flash.lc = 5 → exec .jtagSamplePreload s = .next s) ∧
    (s.flash.lc = 3 ∨ s.flash.lc = 5 → exec (.jtagOtherInstruction code) s = .next s) ∧
    (s.flash.lc ≠ 3 → s.flash.lc ≠ 5 → exec (.jtagOtherInstruction code) s = .refused (.jtagInstruction code)))

/-- With BAR0 open: COUNTER_SELECT gives its counter the new selection and sets its count and OVF to 0, its shadow kept,
and no other counter changes. SNAP keeps the period written and, with SNAP set, copies all counters and their OVF
into their shadows and adds one to SNAP_SEQ; when the periodic snapshot is due at that moment, it takes its place.
PERIODIC_SNAPSHOT does the same every SNAP_PERIOD_US, and nothing before it is due or with a period of 0. (R431,
R432, R433) -/
def Obligations.CountersAreSelectedAndSnapped : Prop :=
  (∀ s : State, barOpen s 0x600000 = true →
    (∀ (i : Nat) (v : W32), i < 256 →
      ∃ u, exec (.counterSelect i v) s = .next u ∧
        tget Counter.reset u.cnt.cnt i =
          { tget Counter.reset s.cnt.cnt i with sel := v &&& 0x3FFFFFFF, val := 0, ovf := false } ∧
        OnlyAt Counter.reset [i] s.cnt.cnt u.cnt.cnt ∧ u.cnt = { s.cnt with cnt := u.cnt.cnt } ∧ Only [.cnt] s u) ∧
    (∀ v : W32,
      ∃ u, exec (.snap v) s = .next u ∧ regBits u rSNAP 23 8 = bits v.toNat 23 8 ∧
        (bit v.toNat 0 = true → Snapped s u) ∧
        (bit v.toNat 0 = false → u.cnt = { s.cnt with last := u.cnt.last }) ∧
        (snapDue s = true → u.cnt.last = s.now) ∧
        (∀ o, o ≠ rSNAP → tget none u.bar.regs o = tget none s.bar.regs o) ∧ Only [.cnt, .bar] s u)) ∧
  (∀ (s : State) (t : Nat),
    (regBits s rSNAP 23 8 ≠ 0 → s.cnt.last + regBits s rSNAP 23 8 * 1000 ≤ max s.now t →
      ∃ u, exec (.periodicSnapshot t) s = .next u ∧ Snapped s u ∧ u.cnt.last = max s.now t ∧ Only [.now, .cnt] s u) ∧
    (regBits s rSNAP 23 8 = 0 ∨ max s.now t < s.cnt.last + regBits s rSNAP 23 8 * 1000 →
      exec (.periodicSnapshot t) s = .next s))

/-- REGISTER_WRITE in the memory, passage-store, link and engine regions: each writable field in range takes the written
bits (an S field only before READY), any other field stays, and a write with such a field is counted once with its
offset; no other register changes; a register with an S field clears SETUP_DONE before READY, one without leaves it.
A write to an offset no table defines, or to a region that does not answer, has no effect. NT_TIME_LO_READ and
PS_DEAD_BYTES_LO_READ return the low half and capture the high half; NT_STATUS_READ returns the status and clears
the step-limit flag; from a region that does not answer each returns 0. (R359, R370, R421, R422, R428, R429) -/
def Obligations.RegistersAreWrittenAndReadOnce : Prop :=
  (∀ (s : State) (offset t : Nat) (v : W32) (r : RegSpec),
    specNow s offset = some r → barOpen s offset = true → offset % 4 = 0 →
    (0x1C0000 ≤ offset ∧ offset < 0x400000) ∨ (0x418000 ≤ offset ∧ offset < 0x600000) → r.flds ≠ [] →
    let takes := fun (f : Fld) => (f.setup = false ∨ isReady s = false) ∧ f.rng.ok (bits v.toNat f.hi f.lo) = true
    ∃ u, exec (.registerWrite offset v t) s = .next u ∧
      (∀ f ∈ r.flds, bits (reg u offset) f.hi f.lo =
        if (f.setup && isReady s) || !f.rng.ok (bits v.toNat f.hi f.lo) then bits (reg s offset) f.hi f.lo
        else bits v.toNat f.hi f.lo) ∧
      (∀ o, o ≠ offset → tget none u.bar.regs o = tget none s.bar.regs o) ∧
      ((∀ f ∈ r.flds, takes f) → u.bar = { s.bar with regs := u.bar.regs }) ∧
      ((∃ f ∈ r.flds, ¬ takes f) → u.bar = { s.bar with
        regs := u.bar.regs, ignored := min 0xFFFFFFFF (s.bar.ignored + 1), ignoredAt := offset }) ∧
      u.boot = { s.boot with setupDone := u.boot.setupDone } ∧
      ((∃ f ∈ r.flds, f.setup = true) → isReady s = false → u.boot.setupDone = false) ∧
      ((∀ f ∈ r.flds, f.setup = false) → u.boot = s.boot) ∧ Only [.now, .bar, .boot] s u) ∧
  (∀ (s : State) (offset t : Nat) (v : W32),
    (specNow s offset = none ∨ barOpen s offset = false) →
    ∃ u, exec (.registerWrite offset v t) s = .next u ∧ Only [.now] s u) ∧
  (∀ (s : State) (t : Nat),
    (barOpen s 0x460000 = true → ∃ u, exec (.ntTimeLoRead t) s = .next u ∧
      u.bar = { s.bar with
        ntHi := BitVec.ofNat 32 (max s.now t / 2 ^ 32), lastRead := BitVec.ofNat 32 (max s.now t) } ∧
      Only [.now, .bar] s u) ∧
    (barOpen s 0x460000 = true → ∃ u, exec .ntStatusRead s = .next u ∧
      u.bar = { s.bar with lastRead := BitVec.ofNat 32 (s.nt.status + if s.nt.stepFlag = true then 4 else 0) } ∧
      u.nt = { s.nt with stepFlag := false } ∧ Only [.bar, .nt] s u) ∧
    (barOpen s 0x300000 = true → ∃ u, exec .psDeadBytesLoRead s = .next u ∧
      u.bar = { s.bar with deadHi := BitVec.ofNat 32 (s.ps.dead / 2 ^ 32), lastRead := BitVec.ofNat 32 s.ps.dead } ∧
      Only [.bar] s u) ∧
    (s.boot.fw = false → s.host.cfgReady = false → ∀ c ∈ [Instr.ntTimeLoRead t, .ntStatusRead, .psDeadBytesLoRead],
      ∃ u, exec c s = .next u ∧ u.bar = { s.bar with lastRead := 0 } ∧ Only [.now, .bar] s u))

/-- For every offset and size that are not a naturally aligned 32-bit access: a read changes nothing and returns
0xFFFF_FFFF (what the host last read, the one field that changes), and a write has no effect. (R10) -/
def Obligations.MisalignedAccessesAreDropped : Prop :=
  ∀ (s : State) (offset size : Nat), offset % 4 ≠ 0 ∨ size ≠ 4 →
    (∃ u, exec (.misalignedAccess offset size false) s = .next u ∧ u.bar = { s.bar with lastRead := 0xFFFFFFFF } ∧
      Only [.bar] s u) ∧
    exec (.misalignedAccess offset size true) s = .next s

/-- For a request whose lists are awaited, before its merge deadline: a list of a rank already merged, whatever its records
and whichever device sent it, leaves the Logbook and the merge as they are and adds one to the duplicate-rank event counters,
and nothing else. A list of a rank not merged yet, when it enters a merge that goes on, makes its rank a merged one, so that a
second list of it, with any records, changes nothing of the result. (R201) -/
def Obligations.OneListPerShardRank : Prop :=
  ∀ (s : State) (h : Handle) (slot rank t : Nat) (recs : List ShardRec) (short : Bool) (subs : Nat) (w : Work),
    liveSlot s h = some slot → atStage s slot 8 = some w →
    let late := w.fanoutAt + w.prof.mergeUs * 1000
    let list := (Sys2Proof.Machine.listOf s h).getD 0
    max s.now t ≤ late →
    (rank ∈ w.got →
      ∃ u, exec (.shardListReceive h rank t recs short subs) s = .next u ∧ u.lb = s.lb ∧
        u.cnt = (countEv s 3 3 list (some h.part) 1).cnt ∧ Only [.now, .links, .cnt] s u) ∧
    (rank ∈ w.wanted → rank ∉ w.got → (insertNat rank w.got).length ≠ w.wanted.length →
      (Sys2Proof.Machine.listOf s h).isSome = true →
      ∃ u, exec (.shardListReceive h rank t recs short subs) s = .next u ∧ rank ∈ ((work u slot).map (·.got)).getD [] ∧
        ∀ (t' : Nat) (recs' : List ShardRec) (short' : Bool) (subs' : Nat), t' ≤ late →
          ∃ u', exec (.shardListReceive h rank t' recs' short' subs') u = .next u' ∧ u'.lb = u.lb ∧
            u'.cnt = (countEv u 3 3 list (some h.part) 1).cnt)

end
end

