-- ==== Sys2Proof/Laws/Table.lean ====
section
/-! SUPPORT. The laws of sparse tables and of memory: a read after a write, and that every memory operation keeps the
canonical form. -/

namespace Sys2Proof.Machine

variable {α : Type}

/-! ### Reads after writes -/

@[simp] theorem tget_nil (d : α) (i : Nat) : tget d [] i = d := rfl

theorem tget_tput_self (d : α) (t : Tab α) (i : Nat) (v : α) : tget d (tput t i v) i = v := by
  induction t with
  | nil => simp [tput, tget]
  | cons e t ih =>
    obtain ⟨k, w⟩ := e
    unfold tput
    split
    · simp [tget]
    · split
      · simp [tget]
      · rw [tget, if_neg (by omega)]; exact ih

theorem tget_tput_other (d : α) (t : Tab α) {i j : Nat} (v : α) (h : j ≠ i) :
    tget d (tput t i v) j = tget d t j := by
  induction t with
  | nil => simp only [tput, tget]; rw [if_neg (by omega)]
  | cons e t ih =>
    obtain ⟨k, w⟩ := e
    unfold tput
    split
    · rw [tget, if_neg (by omega)]
    · split
      · subst_vars; simp only [tget]; rw [if_neg (by omega), if_neg (by omega)]
      · simp only [tget, ih]

theorem tget_tdel_self (d : α) (t : Tab α) (i : Nat) : tget d (tdel t i) i = d := by
  induction t with
  | nil => rfl
  | cons e t ih =>
    obtain ⟨k, w⟩ := e
    unfold tdel
    split
    · exact ih
    · rw [tget, if_neg ‹_›]; exact ih

theorem tget_tdel_other (d : α) (t : Tab α) {i j : Nat} (h : j ≠ i) : tget d (tdel t i) j = tget d t j := by
  induction t with
  | nil => rfl
  | cons e t ih =>
    obtain ⟨k, w⟩ := e
    unfold tdel
    split
    · rw [tget, if_neg (by omega)]; exact ih
    · simp only [tget, ih]

section Canonical
variable [DecidableEq α]

@[simp] theorem tget_tset_self (d : α) (t : Tab α) (i : Nat) (v : α) : tget d (tset d t i v) i = v := by
  unfold tset
  split
  · rw [tget_tdel_self]; exact (‹v = d›).symm
  · exact tget_tput_self d t i v

theorem tget_tset_other (d : α) (t : Tab α) {i j : Nat} (v : α) (h : j ≠ i) :
    tget d (tset d t i v) j = tget d t j := by
  unfold tset
  split
  · exact tget_tdel_other d t h
  · exact tget_tput_other d t v h

@[simp] theorem tget_tmod_self (d : α) (t : Tab α) (i : Nat) (f : α → α) :
    tget d (tmod d t i f) i = f (tget d t i) := tget_tset_self d t i _

theorem tget_tmod_other (d : α) (t : Tab α) {i j : Nat} (f : α → α) (h : j ≠ i) :
    tget d (tmod d t i f) j = tget d t j := tget_tset_other d t _ h

theorem tget_tmod (d : α) (t : Tab α) (i j : Nat) (f : α → α) :
    tget d (tmod d t i f) j = if j = i then f (tget d t i) else tget d t j := by
  split
  · subst_vars; exact tget_tmod_self d t _ f
  · exact tget_tmod_other d t f ‹_›

/-! ### The canonical form -/

@[simp] theorem twf_nil (d : α) : twf d ([] : Tab α) = true := rfl

theorem twfFrom_weaken (d : α) {lo lo' : Option Nat} {t : Tab α} (h : twfFrom d lo t = true)
    (hl : ∀ l', lo' = some l' → ∃ l, lo = some l ∧ l' ≤ l) : twfFrom d lo' t = true := by
  cases t with
  | nil => rfl
  | cons e t =>
    obtain ⟨k, v⟩ := e
    simp only [twfFrom, Bool.and_eq_true] at h ⊢
    refine ⟨⟨?_, h.1.2⟩, h.2⟩
    cases hlo : lo' with
    | none => rfl
    | some l' =>
      obtain ⟨l, rfl, hle⟩ := hl l' hlo
      have := h.1.1
      simp only [decide_eq_true_eq] at this ⊢
      omega

theorem twfFrom_some (d : α) (l : Nat) (t : Tab α) (h : twfFrom d (some l) t = true) : twf d t = true :=
  twfFrom_weaken d h (by simp)

theorem twfFrom_tdel (d : α) (lo : Option Nat) (t : Tab α) (i : Nat) (h : twfFrom d lo t = true) :
    twfFrom d lo (tdel t i) = true := by
  induction t generalizing lo with
  | nil => rfl
  | cons e t ih =>
    obtain ⟨k, v⟩ := e
    simp only [twfFrom, Bool.and_eq_true] at h
    unfold tdel
    split
    · apply ih
      refine twfFrom_weaken d h.2 ?_
      rintro l' rfl
      have := h.1.1
      simp only [decide_eq_true_eq] at this
      exact ⟨k, rfl, by omega⟩
    · simp only [twfFrom, Bool.and_eq_true]
      exact ⟨h.1, ih _ h.2⟩

theorem twfFrom_tput (d : α) (lo : Option Nat) (t : Tab α) (i : Nat) (v : α) (hv : v ≠ d)
    (hlo : ∀ l, lo = some l → l < i) (h : twfFrom d lo t = true) : twfFrom d lo (tput t i v) = true := by
  induction t generalizing lo with
  | nil =>
    simp only [tput, twfFrom, Bool.and_eq_true, decide_eq_true_eq]
    refine ⟨⟨?_, by simpa using hv⟩, trivial⟩
    cases lo with
    | none => rfl
    | some l => simpa using hlo l rfl
  | cons e t ih =>
    obtain ⟨k, w⟩ := e
    have h' := h
    simp only [twfFrom, Bool.and_eq_true] at h
    unfold tput
    split
    · simp only [twfFrom, Bool.and_eq_true, decide_eq_true_eq]
      refine ⟨⟨?_, by simpa using hv⟩, ⟨‹i < k›, by simpa using h.1.2⟩, h.2⟩
      cases lo with
      | none => rfl
      | some l => simpa using hlo l rfl
    · split
      · subst_vars
        simp only [twfFrom, Bool.and_eq_true]
        exact ⟨⟨h.1.1, by simpa using hv⟩, h.2⟩
      · simp only [twfFrom, Bool.and_eq_true]
        refine ⟨h.1, ih _ ?_ h.2⟩
        rintro l ⟨⟩
        omega

/-- Writing a key keeps the canonical form. -/
theorem twf_tset (d : α) (t : Tab α) (i : Nat) (v : α) (h : twf d t = true) : twf d (tset d t i v) = true := by
  unfold tset
  split
  · exact twfFrom_tdel d none t i h
  · exact twfFrom_tput d none t i v ‹_› (by simp) h

theorem twf_tmod (d : α) (t : Tab α) (i : Nat) (f : α → α) (h : twf d t = true) : twf d (tmod d t i f) = true :=
  twf_tset d t i _ h

/-- The canonical form says what it is meant to say: rising keys and no default value. -/
theorem twfFrom_iff (d : α) (lo : Option Nat) (t : Tab α) :
    twfFrom d lo t = true ↔ ((∀ l, lo = some l → ∀ e ∈ t, l < e.1) ∧ t.Pairwise (fun a b => a.1 < b.1) ∧ ∀ e ∈ t, e.2 ≠ d) := by
  induction t generalizing lo with
  | nil => simp [twfFrom]
  | cons e t ih =>
    obtain ⟨k, v⟩ := e
    simp only [twfFrom, Bool.and_eq_true, ih, List.pairwise_cons, List.mem_cons, forall_eq_or_imp, decide_eq_true_eq]
    constructor
    · rintro ⟨⟨h1, h2⟩, h3, h4, h5⟩
      refine ⟨?_, ⟨fun e he => h3 k rfl e he, h4⟩, h2, h5⟩
      rintro l rfl
      simp only [decide_eq_true_eq] at h1
      exact ⟨h1, fun e he => by have := h3 k rfl e he; omega⟩
    · rintro ⟨h1, ⟨h2, h3⟩, h4, h5⟩
      refine ⟨⟨?_, h4⟩, ?_, h3, h5⟩
      · cases lo with
        | none => rfl
        | some l => simpa using (h1 l rfl).1
      · rintro l ⟨⟩ e he
        exact h2 e he

theorem twf_iff (d : α) (t : Tab α) :
    twf d t = true ↔ (t.Pairwise (fun a b => a.1 < b.1) ∧ ∀ e ∈ t, e.2 ≠ d) := by
  simp [twf, twfFrom_iff]

/-- Removing entries keeps the canonical form. -/
theorem twf_filter (d : α) (t : Tab α) (p : Nat × α → Bool) (h : twf d t = true) : twf d (t.filter p) = true := by
  rw [twf_iff] at h ⊢
  exact ⟨h.1.filter p, fun e he => h.2 e ((List.mem_filter.mp he).1)⟩

end Canonical

/-! ### Memory -/


theorem tget_append (d : α) (a b : Tab α) (i : Nat) (h : ∀ e ∈ a, e.1 ≠ i) : tget d (a ++ b) i = tget d b i := by
  induction a with
  | nil => rfl
  | cons e a ih =>
    obtain ⟨k, v⟩ := e
    have h1 := h (k, v) (by simp)
    simp only [List.cons_append, tget]
    rw [if_neg h1]
    exact ih fun e he => h e (by simp [he])

theorem tget_append_left (d : α) (a b : Tab α) (i : Nat) (h : ∀ e ∈ b, e.1 ≠ i) : tget d (a ++ b) i = tget d a i := by
  induction a with
  | nil =>
    simp only [List.nil_append, tget]
    have := tget_append d b ([] : Tab α) i h
    simpa using this
  | cons e a ih =>
    obtain ⟨k, v⟩ := e
    simp only [List.cons_append, tget, ih]

theorem tget_filter (d : α) (t : Tab α) (p : Nat → Bool) (i : Nat) (h : p i = true) :
    tget d (t.filter fun e => p e.1) i = tget d t i := by
  induction t with
  | nil => rfl
  | cons e t ih =>
    obtain ⟨k, v⟩ := e
    by_cases hk : p k = true
    · rw [List.filter_cons_of_pos (by simpa using hk)]
      simp only [tget, ih]
    · rw [List.filter_cons_of_neg (by simpa using hk)]
      rw [tget, if_neg (by rintro rfl; exact hk h)]
      exact ih

theorem Mem.cells_keys (a : Nat) (bs : List Byte) : ∀ e ∈ Mem.cells a bs, a ≤ e.1 ∧ e.1 < a + bs.length ∧ e.2 ≠ 0 := by
  induction bs generalizing a with
  | nil => simp [Mem.cells]
  | cons b bs ih =>
    intro e he
    unfold Mem.cells at he
    split at he
    · have := ih (a + 1) e he
      simp only [List.length_cons]
      exact ⟨by omega, by omega, this.2.2⟩
    · rcases List.mem_cons.mp he with rfl | he
      · simp only [List.length_cons]
        exact ⟨by omega, by omega, ‹¬b = 0›⟩
      · have := ih (a + 1) e he
        simp only [List.length_cons]
        exact ⟨by omega, by omega, this.2.2⟩

theorem Mem.byte_cells (a : Nat) (bs : List Byte) (i : Nat) (h : i < bs.length) :
    tget 0 (Mem.cells a bs) (a + i) = bs.getD i 0 := by
  induction bs generalizing a i with
  | nil => simp at h
  | cons b bs ih =>
    unfold Mem.cells
    cases i with
    | zero =>
      split
      · have hn : ∀ e ∈ Mem.cells (a + 1) bs, e.1 ≠ a + 0 := fun e he => by
          have := Mem.cells_keys (a + 1) bs e he; omega
        have := tget_append (0 : Byte) (Mem.cells (a + 1) bs) [] (a + 0) hn
        simp only [List.append_nil, tget_nil] at this
        rw [this]; simp_all
      · simp [tget]
    | succ i =>
      have hi : i < bs.length := by simpa using h
      have := ih (a + 1) i hi
      have he : a + (i + 1) = a + 1 + i := by omega
      split
      · rw [he, this]; simp
      · rw [tget, if_neg (by omega), he, this]; simp

/-- One byte after a write: the byte written, or what stood there. -/
theorem Mem.byte_write (m : Mem) (a : Nat) (bs : List Byte) (x : Nat) :
    (m.write a bs).byte x = if a ≤ x ∧ x < a + bs.length then bs.getD (x - a) 0 else m.byte x := by
  unfold Mem.byte Mem.write
  have hc := Mem.cells_keys a bs
  by_cases h1 : x < a
  · rw [if_neg (by omega)]
    rw [tget_append_left]
    · exact tget_filter (0 : Byte) m (fun k => decide (k < a)) x (by simpa using h1)
    · intro e he
      rcases List.mem_append.mp he with he | he
      · have := hc e he; omega
      · have := (List.mem_filter.mp he).2; simp at this; omega
  · rw [tget_append]
    · by_cases h2 : x < a + bs.length
      · rw [if_pos ⟨by omega, h2⟩, tget_append_left]
        · have := Mem.byte_cells a bs (x - a) (by omega)
          rwa [show a + (x - a) = x by omega] at this
        · intro e he
          have := (List.mem_filter.mp he).2; simp at this; omega
      · rw [if_neg (by omega), tget_append]
        · exact tget_filter (0 : Byte) m (fun k => decide (a + bs.length ≤ k)) x (by simp; omega)
        · intro e he
          have := hc e he; omega
    · intro e he
      have := (List.mem_filter.mp he).2; simp at this; omega

theorem Mem.cells_pairwise (a : Nat) (bs : List Byte) : (Mem.cells a bs).Pairwise fun x y => x.1 < y.1 := by
  induction bs generalizing a with
  | nil => simp [Mem.cells]
  | cons b bs ih =>
    unfold Mem.cells
    split
    · exact ih (a + 1)
    · refine List.pairwise_cons.mpr ⟨?_, ih (a + 1)⟩
      intro e he
      have := Mem.cells_keys (a + 1) bs e he
      simp only
      omega

/-- A write keeps the canonical form. -/
theorem Mem.wf_write (m : Mem) (a : Nat) (bs : List Byte) (h : m.wf) : (m.write a bs).wf := by
  unfold Mem.wf at *
  rw [twf_iff] at h ⊢
  unfold Mem.write
  constructor
  · rw [List.pairwise_append, List.pairwise_append]
    refine ⟨h.1.filter _, ⟨Mem.cells_pairwise a bs, h.1.filter _, ?_⟩, ?_⟩
    · intro x hx y hy
      have := Mem.cells_keys a bs x hx
      have := (List.mem_filter.mp hy).2; simp at this; omega
    · intro x hx y hy
      have hx := (List.mem_filter.mp hx).2; simp at hx
      rcases List.mem_append.mp hy with hy | hy
      · have := Mem.cells_keys a bs y hy; omega
      · have := (List.mem_filter.mp hy).2; simp at this; omega
  · intro e he
    rcases List.mem_append.mp he with he | he
    · exact h.2 e ((List.mem_filter.mp he).1)
    · rcases List.mem_append.mp he with he | he
      · exact (Mem.cells_keys a bs e he).2.2
      · exact h.2 e ((List.mem_filter.mp he).1)

theorem Mem.wf_filter (m : Mem) (p : Nat × Byte → Bool) (h : m.wf) : Mem.wf (m.filter p) := twf_filter 0 m p h

theorem Mem.wf_nil : Mem.wf [] := rfl

/-- A range replaced whole keeps the canonical form, whatever is placed. -/
theorem Mem.wf_place (m : Mem) (a n : Nat) (d : Mem) (h : m.wf) : (m.place a n d).wf := by
  have hf : ∀ (l : Mem) (m : Mem), m.wf → Mem.wf (l.foldl (fun m e => tset 0 m (a + e.1) e.2) m) := by
    intro l
    induction l with
    | nil => intro m h; exact h
    | cons e l ih => intro m h; exact ih _ (twf_tset 0 m _ _ h)
  exact hf _ _ (Mem.wf_filter m _ h)

/-- `Mem.image` reads a memory in canonical form that lists nothing below `a` as `Mem.read` does. -/
theorem Mem.image_eq (m : Mem) (a n : Nat) (h : m.wf) (hl : ∀ e ∈ m, a ≤ e.1) :
    m.image a n = (List.range n).map fun i => tget 0 m (a + i) := by
  induction n generalizing m a with
  | zero => cases m <;> rfl
  | succ n ih =>
    rw [List.range_succ_eq_map, List.map_cons, List.map_map]
    cases m with
    | nil =>
      have := ih [] (a + 1) h (by simp)
      rw [Mem.image, this]
      exact congrArg (List.cons 0) (List.map_congr_left fun _ _ => rfl)
    | cons e t =>
      obtain ⟨k, v⟩ := e
      have hk := hl (k, v) (by simp)
      have hwf := h
      unfold Mem.wf at hwf
      rw [twf_iff, List.pairwise_cons] at hwf
      have ht : Mem.wf t := by unfold Mem.wf; rw [twf_iff]; exact ⟨hwf.1.2, fun e he => hwf.2 e (by simp [he])⟩
      unfold Mem.image
      split
      · subst_vars
        rw [ih t (k + 1) ht (fun e he => by have := hwf.1.1 e he; simp only at this; omega)]
        congr 1
        · simp [tget]
        · apply List.map_congr_left
          intro i _
          simp only [Function.comp]
          rw [tget, if_neg (by omega)]
          congr 1; omega
      · simp only at hk
        rw [ih ((k, v) :: t) (a + 1) h (fun e he => by
          rcases List.mem_cons.mp he with rfl | he
          · simp only; omega
          · have := hwf.1.1 e he; simp only at this; omega)]
        congr 1
        · have := tget_append (0 : Byte) ((k, v) :: t) [] (a + 0) (fun e he => by
            rcases List.mem_cons.mp he with rfl | he
            · simp only; omega
            · have := hwf.1.1 e he; simp only at this; omega)
          simpa using this.symm
        · apply List.map_congr_left
          intro i _
          simp only [Function.comp]
          congr 1; omega

/-- From address 0 the one-pass read is the read. -/
theorem Mem.image_eq_read (m : Mem) (n : Nat) (h : m.wf) : m.image 0 n = m.read 0 n :=
  Mem.image_eq m 0 n h (by simp)

end Sys2Proof.Machine
end

