-- ==== Sys2Proof/Laws/State.lean ====
section
/-! SUPPORT. One lemma per field per update of State, each true by rfl, so that no proof unfolds a record update; what
the updates write, read back; and frames (`Only`) of the updates. -/

namespace Sys2Proof.Machine

/-! ### tick -/

@[simp] theorem tick_pending (s : State) (t : Nat) : (tick s t).pending = s.pending := rfl
@[simp] theorem tick_free (s : State) (t : Nat) : (tick s t).free = s.free := rfl
@[simp] theorem tick_ident (s : State) (t : Nat) : (tick s t).ident = s.ident := rfl
@[simp] theorem tick_flash (s : State) (t : Nat) : (tick s t).flash = s.flash := rfl
@[simp] theorem tick_cell (s : State) (t : Nat) : (tick s t).cell = s.cell := rfl
@[simp] theorem tick_bar (s : State) (t : Nat) : (tick s t).bar = s.bar := rfl
@[simp] theorem tick_host (s : State) (t : Nat) : (tick s t).host = s.host := rfl
@[simp] theorem tick_parts (s : State) (t : Nat) : (tick s t).parts = s.parts := rfl
@[simp] theorem tick_lb (s : State) (t : Nat) : (tick s t).lb = s.lb := rfl
@[simp] theorem tick_obj (s : State) (t : Nat) : (tick s t).obj = s.obj := rfl
@[simp] theorem tick_mem (s : State) (t : Nat) : (tick s t).mem = s.mem := rfl
@[simp] theorem tick_helm (s : State) (t : Nat) : (tick s t).helm = s.helm := rfl
@[simp] theorem tick_array (s : State) (t : Nat) : (tick s t).array = s.array := rfl
@[simp] theorem tick_streams (s : State) (t : Nat) : (tick s t).streams = s.streams := rfl
@[simp] theorem tick_nextSid (s : State) (t : Nat) : (tick s t).nextSid = s.nextSid := rfl
@[simp] theorem tick_wp (s : State) (t : Nat) : (tick s t).wp = s.wp := rfl
@[simp] theorem tick_bearing (s : State) (t : Nat) : (tick s t).bearing = s.bearing := rfl
@[simp] theorem tick_lists (s : State) (t : Nat) : (tick s t).lists = s.lists := rfl
@[simp] theorem tick_feat (s : State) (t : Nat) : (tick s t).feat = s.feat := rfl
@[simp] theorem tick_vcache (s : State) (t : Nat) : (tick s t).vcache = s.vcache := rfl
@[simp] theorem tick_gen (s : State) (t : Nat) : (tick s t).gen = s.gen := rfl
@[simp] theorem tick_compass (s : State) (t : Nat) : (tick s t).compass = s.compass := rfl
@[simp] theorem tick_tiers (s : State) (t : Nat) : (tick s t).tiers = s.tiers := rfl
@[simp] theorem tick_ps (s : State) (t : Nat) : (tick s t).ps = s.ps := rfl
@[simp] theorem tick_links (s : State) (t : Nat) : (tick s t).links = s.links := rfl
@[simp] theorem tick_nt (s : State) (t : Nat) : (tick s t).nt = s.nt := rfl
@[simp] theorem tick_boot (s : State) (t : Nat) : (tick s t).boot = s.boot := rfl
@[simp] theorem tick_faults (s : State) (t : Nat) : (tick s t).faults = s.faults := rfl
@[simp] theorem tick_twin (s : State) (t : Nat) : (tick s t).twin = s.twin := rfl
@[simp] theorem tick_power (s : State) (t : Nat) : (tick s t).power = s.power := rfl
@[simp] theorem tick_pins (s : State) (t : Nat) : (tick s t).pins = s.pins := rfl
@[simp] theorem tick_cnt (s : State) (t : Nat) : (tick s t).cnt = s.cnt := rfl

/-! ### drawn -/

@[simp] theorem drawn_pending (s : State) : (drawn s).pending = s.pending := rfl
@[simp] theorem drawn_now (s : State) : (drawn s).now = s.now := rfl
@[simp] theorem drawn_ident (s : State) : (drawn s).ident = s.ident := rfl
@[simp] theorem drawn_flash (s : State) : (drawn s).flash = s.flash := rfl
@[simp] theorem drawn_cell (s : State) : (drawn s).cell = s.cell := rfl
@[simp] theorem drawn_bar (s : State) : (drawn s).bar = s.bar := rfl
@[simp] theorem drawn_host (s : State) : (drawn s).host = s.host := rfl
@[simp] theorem drawn_parts (s : State) : (drawn s).parts = s.parts := rfl
@[simp] theorem drawn_lb (s : State) : (drawn s).lb = s.lb := rfl
@[simp] theorem drawn_obj (s : State) : (drawn s).obj = s.obj := rfl
@[simp] theorem drawn_mem (s : State) : (drawn s).mem = s.mem := rfl
@[simp] theorem drawn_helm (s : State) : (drawn s).helm = s.helm := rfl
@[simp] theorem drawn_array (s : State) : (drawn s).array = s.array := rfl
@[simp] theorem drawn_streams (s : State) : (drawn s).streams = s.streams := rfl
@[simp] theorem drawn_nextSid (s : State) : (drawn s).nextSid = s.nextSid := rfl
@[simp] theorem drawn_wp (s : State) : (drawn s).wp = s.wp := rfl
@[simp] theorem drawn_bearing (s : State) : (drawn s).bearing = s.bearing := rfl
@[simp] theorem drawn_lists (s : State) : (drawn s).lists = s.lists := rfl
@[simp] theorem drawn_feat (s : State) : (drawn s).feat = s.feat := rfl
@[simp] theorem drawn_vcache (s : State) : (drawn s).vcache = s.vcache := rfl
@[simp] theorem drawn_gen (s : State) : (drawn s).gen = s.gen := rfl
@[simp] theorem drawn_compass (s : State) : (drawn s).compass = s.compass := rfl
@[simp] theorem drawn_tiers (s : State) : (drawn s).tiers = s.tiers := rfl
@[simp] theorem drawn_ps (s : State) : (drawn s).ps = s.ps := rfl
@[simp] theorem drawn_links (s : State) : (drawn s).links = s.links := rfl
@[simp] theorem drawn_nt (s : State) : (drawn s).nt = s.nt := rfl
@[simp] theorem drawn_boot (s : State) : (drawn s).boot = s.boot := rfl
@[simp] theorem drawn_faults (s : State) : (drawn s).faults = s.faults := rfl
@[simp] theorem drawn_twin (s : State) : (drawn s).twin = s.twin := rfl
@[simp] theorem drawn_power (s : State) : (drawn s).power = s.power := rfl
@[simp] theorem drawn_pins (s : State) : (drawn s).pins = s.pins := rfl
@[simp] theorem drawn_cnt (s : State) : (drawn s).cnt = s.cnt := rfl

/-! ### modPart -/

@[simp] theorem modPart_pending (s : State) (p : Nat) (f : Part → Part) : (modPart s p f).pending = s.pending := rfl
@[simp] theorem modPart_now (s : State) (p : Nat) (f : Part → Part) : (modPart s p f).now = s.now := rfl
@[simp] theorem modPart_free (s : State) (p : Nat) (f : Part → Part) : (modPart s p f).free = s.free := rfl
@[simp] theorem modPart_ident (s : State) (p : Nat) (f : Part → Part) : (modPart s p f).ident = s.ident := rfl
@[simp] theorem modPart_flash (s : State) (p : Nat) (f : Part → Part) : (modPart s p f).flash = s.flash := rfl
@[simp] theorem modPart_cell (s : State) (p : Nat) (f : Part → Part) : (modPart s p f).cell = s.cell := rfl
@[simp] theorem modPart_bar (s : State) (p : Nat) (f : Part → Part) : (modPart s p f).bar = s.bar := rfl
@[simp] theorem modPart_host (s : State) (p : Nat) (f : Part → Part) : (modPart s p f).host = s.host := rfl
@[simp] theorem modPart_lb (s : State) (p : Nat) (f : Part → Part) : (modPart s p f).lb = s.lb := rfl
@[simp] theorem modPart_obj (s : State) (p : Nat) (f : Part → Part) : (modPart s p f).obj = s.obj := rfl
@[simp] theorem modPart_mem (s : State) (p : Nat) (f : Part → Part) : (modPart s p f).mem = s.mem := rfl
@[simp] theorem modPart_helm (s : State) (p : Nat) (f : Part → Part) : (modPart s p f).helm = s.helm := rfl
@[simp] theorem modPart_array (s : State) (p : Nat) (f : Part → Part) : (modPart s p f).array = s.array := rfl
@[simp] theorem modPart_streams (s : State) (p : Nat) (f : Part → Part) : (modPart s p f).streams = s.streams := rfl
@[simp] theorem modPart_nextSid (s : State) (p : Nat) (f : Part → Part) : (modPart s p f).nextSid = s.nextSid := rfl
@[simp] theorem modPart_wp (s : State) (p : Nat) (f : Part → Part) : (modPart s p f).wp = s.wp := rfl
@[simp] theorem modPart_bearing (s : State) (p : Nat) (f : Part → Part) : (modPart s p f).bearing = s.bearing := rfl
@[simp] theorem modPart_lists (s : State) (p : Nat) (f : Part → Part) : (modPart s p f).lists = s.lists := rfl
@[simp] theorem modPart_feat (s : State) (p : Nat) (f : Part → Part) : (modPart s p f).feat = s.feat := rfl
@[simp] theorem modPart_vcache (s : State) (p : Nat) (f : Part → Part) : (modPart s p f).vcache = s.vcache := rfl
@[simp] theorem modPart_gen (s : State) (p : Nat) (f : Part → Part) : (modPart s p f).gen = s.gen := rfl
@[simp] theorem modPart_compass (s : State) (p : Nat) (f : Part → Part) : (modPart s p f).compass = s.compass := rfl
@[simp] theorem modPart_tiers (s : State) (p : Nat) (f : Part → Part) : (modPart s p f).tiers = s.tiers := rfl
@[simp] theorem modPart_ps (s : State) (p : Nat) (f : Part → Part) : (modPart s p f).ps = s.ps := rfl
@[simp] theorem modPart_links (s : State) (p : Nat) (f : Part → Part) : (modPart s p f).links = s.links := rfl
@[simp] theorem modPart_nt (s : State) (p : Nat) (f : Part → Part) : (modPart s p f).nt = s.nt := rfl
@[simp] theorem modPart_boot (s : State) (p : Nat) (f : Part → Part) : (modPart s p f).boot = s.boot := rfl
@[simp] theorem modPart_faults (s : State) (p : Nat) (f : Part → Part) : (modPart s p f).faults = s.faults := rfl
@[simp] theorem modPart_twin (s : State) (p : Nat) (f : Part → Part) : (modPart s p f).twin = s.twin := rfl
@[simp] theorem modPart_power (s : State) (p : Nat) (f : Part → Part) : (modPart s p f).power = s.power := rfl
@[simp] theorem modPart_pins (s : State) (p : Nat) (f : Part → Part) : (modPart s p f).pins = s.pins := rfl
@[simp] theorem modPart_cnt (s : State) (p : Nat) (f : Part → Part) : (modPart s p f).cnt = s.cnt := rfl

/-! ### modRing -/

@[simp] theorem modRing_pending (s : State) (p i : Nat) (f : Ring → Ring) : (modRing s p i f).pending = s.pending := rfl
@[simp] theorem modRing_now (s : State) (p i : Nat) (f : Ring → Ring) : (modRing s p i f).now = s.now := rfl
@[simp] theorem modRing_free (s : State) (p i : Nat) (f : Ring → Ring) : (modRing s p i f).free = s.free := rfl
@[simp] theorem modRing_ident (s : State) (p i : Nat) (f : Ring → Ring) : (modRing s p i f).ident = s.ident := rfl
@[simp] theorem modRing_flash (s : State) (p i : Nat) (f : Ring → Ring) : (modRing s p i f).flash = s.flash := rfl
@[simp] theorem modRing_cell (s : State) (p i : Nat) (f : Ring → Ring) : (modRing s p i f).cell = s.cell := rfl
@[simp] theorem modRing_bar (s : State) (p i : Nat) (f : Ring → Ring) : (modRing s p i f).bar = s.bar := rfl
@[simp] theorem modRing_host (s : State) (p i : Nat) (f : Ring → Ring) : (modRing s p i f).host = s.host := rfl
@[simp] theorem modRing_lb (s : State) (p i : Nat) (f : Ring → Ring) : (modRing s p i f).lb = s.lb := rfl
@[simp] theorem modRing_obj (s : State) (p i : Nat) (f : Ring → Ring) : (modRing s p i f).obj = s.obj := rfl
@[simp] theorem modRing_mem (s : State) (p i : Nat) (f : Ring → Ring) : (modRing s p i f).mem = s.mem := rfl
@[simp] theorem modRing_helm (s : State) (p i : Nat) (f : Ring → Ring) : (modRing s p i f).helm = s.helm := rfl
@[simp] theorem modRing_array (s : State) (p i : Nat) (f : Ring → Ring) : (modRing s p i f).array = s.array := rfl
@[simp] theorem modRing_streams (s : State) (p i : Nat) (f : Ring → Ring) : (modRing s p i f).streams = s.streams := rfl
@[simp] theorem modRing_nextSid (s : State) (p i : Nat) (f : Ring → Ring) : (modRing s p i f).nextSid = s.nextSid := rfl
@[simp] theorem modRing_wp (s : State) (p i : Nat) (f : Ring → Ring) : (modRing s p i f).wp = s.wp := rfl
@[simp] theorem modRing_bearing (s : State) (p i : Nat) (f : Ring → Ring) : (modRing s p i f).bearing = s.bearing := rfl
@[simp] theorem modRing_lists (s : State) (p i : Nat) (f : Ring → Ring) : (modRing s p i f).lists = s.lists := rfl
@[simp] theorem modRing_feat (s : State) (p i : Nat) (f : Ring → Ring) : (modRing s p i f).feat = s.feat := rfl
@[simp] theorem modRing_vcache (s : State) (p i : Nat) (f : Ring → Ring) : (modRing s p i f).vcache = s.vcache := rfl
@[simp] theorem modRing_gen (s : State) (p i : Nat) (f : Ring → Ring) : (modRing s p i f).gen = s.gen := rfl
@[simp] theorem modRing_compass (s : State) (p i : Nat) (f : Ring → Ring) : (modRing s p i f).compass = s.compass := rfl
@[simp] theorem modRing_tiers (s : State) (p i : Nat) (f : Ring → Ring) : (modRing s p i f).tiers = s.tiers := rfl
@[simp] theorem modRing_ps (s : State) (p i : Nat) (f : Ring → Ring) : (modRing s p i f).ps = s.ps := rfl
@[simp] theorem modRing_links (s : State) (p i : Nat) (f : Ring → Ring) : (modRing s p i f).links = s.links := rfl
@[simp] theorem modRing_nt (s : State) (p i : Nat) (f : Ring → Ring) : (modRing s p i f).nt = s.nt := rfl
@[simp] theorem modRing_boot (s : State) (p i : Nat) (f : Ring → Ring) : (modRing s p i f).boot = s.boot := rfl
@[simp] theorem modRing_faults (s : State) (p i : Nat) (f : Ring → Ring) : (modRing s p i f).faults = s.faults := rfl
@[simp] theorem modRing_twin (s : State) (p i : Nat) (f : Ring → Ring) : (modRing s p i f).twin = s.twin := rfl
@[simp] theorem modRing_power (s : State) (p i : Nat) (f : Ring → Ring) : (modRing s p i f).power = s.power := rfl
@[simp] theorem modRing_pins (s : State) (p i : Nat) (f : Ring → Ring) : (modRing s p i f).pins = s.pins := rfl
@[simp] theorem modRing_cnt (s : State) (p i : Nat) (f : Ring → Ring) : (modRing s p i f).cnt = s.cnt := rfl

/-! ### setReg -/

@[simp] theorem setReg_pending (s : State) (off v : Nat) : (setReg s off v).pending = s.pending := rfl
@[simp] theorem setReg_now (s : State) (off v : Nat) : (setReg s off v).now = s.now := rfl
@[simp] theorem setReg_free (s : State) (off v : Nat) : (setReg s off v).free = s.free := rfl
@[simp] theorem setReg_ident (s : State) (off v : Nat) : (setReg s off v).ident = s.ident := rfl
@[simp] theorem setReg_flash (s : State) (off v : Nat) : (setReg s off v).flash = s.flash := rfl
@[simp] theorem setReg_cell (s : State) (off v : Nat) : (setReg s off v).cell = s.cell := rfl
@[simp] theorem setReg_host (s : State) (off v : Nat) : (setReg s off v).host = s.host := rfl
@[simp] theorem setReg_parts (s : State) (off v : Nat) : (setReg s off v).parts = s.parts := rfl
@[simp] theorem setReg_lb (s : State) (off v : Nat) : (setReg s off v).lb = s.lb := rfl
@[simp] theorem setReg_obj (s : State) (off v : Nat) : (setReg s off v).obj = s.obj := rfl
@[simp] theorem setReg_mem (s : State) (off v : Nat) : (setReg s off v).mem = s.mem := rfl
@[simp] theorem setReg_helm (s : State) (off v : Nat) : (setReg s off v).helm = s.helm := rfl
@[simp] theorem setReg_array (s : State) (off v : Nat) : (setReg s off v).array = s.array := rfl
@[simp] theorem setReg_streams (s : State) (off v : Nat) : (setReg s off v).streams = s.streams := rfl
@[simp] theorem setReg_nextSid (s : State) (off v : Nat) : (setReg s off v).nextSid = s.nextSid := rfl
@[simp] theorem setReg_wp (s : State) (off v : Nat) : (setReg s off v).wp = s.wp := rfl
@[simp] theorem setReg_bearing (s : State) (off v : Nat) : (setReg s off v).bearing = s.bearing := rfl
@[simp] theorem setReg_lists (s : State) (off v : Nat) : (setReg s off v).lists = s.lists := rfl
@[simp] theorem setReg_feat (s : State) (off v : Nat) : (setReg s off v).feat = s.feat := rfl
@[simp] theorem setReg_vcache (s : State) (off v : Nat) : (setReg s off v).vcache = s.vcache := rfl
@[simp] theorem setReg_gen (s : State) (off v : Nat) : (setReg s off v).gen = s.gen := rfl
@[simp] theorem setReg_compass (s : State) (off v : Nat) : (setReg s off v).compass = s.compass := rfl
@[simp] theorem setReg_tiers (s : State) (off v : Nat) : (setReg s off v).tiers = s.tiers := rfl
@[simp] theorem setReg_ps (s : State) (off v : Nat) : (setReg s off v).ps = s.ps := rfl
@[simp] theorem setReg_links (s : State) (off v : Nat) : (setReg s off v).links = s.links := rfl
@[simp] theorem setReg_nt (s : State) (off v : Nat) : (setReg s off v).nt = s.nt := rfl
@[simp] theorem setReg_boot (s : State) (off v : Nat) : (setReg s off v).boot = s.boot := rfl
@[simp] theorem setReg_faults (s : State) (off v : Nat) : (setReg s off v).faults = s.faults := rfl
@[simp] theorem setReg_twin (s : State) (off v : Nat) : (setReg s off v).twin = s.twin := rfl
@[simp] theorem setReg_power (s : State) (off v : Nat) : (setReg s off v).power = s.power := rfl
@[simp] theorem setReg_pins (s : State) (off v : Nat) : (setReg s off v).pins = s.pins := rfl
@[simp] theorem setReg_cnt (s : State) (off v : Nat) : (setReg s off v).cnt = s.cnt := rfl

/-! ### ignoreWrite -/

@[simp] theorem ignoreWrite_pending (s : State) (off : Nat) : (ignoreWrite s off).pending = s.pending := rfl
@[simp] theorem ignoreWrite_now (s : State) (off : Nat) : (ignoreWrite s off).now = s.now := rfl
@[simp] theorem ignoreWrite_free (s : State) (off : Nat) : (ignoreWrite s off).free = s.free := rfl
@[simp] theorem ignoreWrite_ident (s : State) (off : Nat) : (ignoreWrite s off).ident = s.ident := rfl
@[simp] theorem ignoreWrite_flash (s : State) (off : Nat) : (ignoreWrite s off).flash = s.flash := rfl
@[simp] theorem ignoreWrite_cell (s : State) (off : Nat) : (ignoreWrite s off).cell = s.cell := rfl
@[simp] theorem ignoreWrite_host (s : State) (off : Nat) : (ignoreWrite s off).host = s.host := rfl
@[simp] theorem ignoreWrite_parts (s : State) (off : Nat) : (ignoreWrite s off).parts = s.parts := rfl
@[simp] theorem ignoreWrite_lb (s : State) (off : Nat) : (ignoreWrite s off).lb = s.lb := rfl
@[simp] theorem ignoreWrite_obj (s : State) (off : Nat) : (ignoreWrite s off).obj = s.obj := rfl
@[simp] theorem ignoreWrite_mem (s : State) (off : Nat) : (ignoreWrite s off).mem = s.mem := rfl
@[simp] theorem ignoreWrite_helm (s : State) (off : Nat) : (ignoreWrite s off).helm = s.helm := rfl
@[simp] theorem ignoreWrite_array (s : State) (off : Nat) : (ignoreWrite s off).array = s.array := rfl
@[simp] theorem ignoreWrite_streams (s : State) (off : Nat) : (ignoreWrite s off).streams = s.streams := rfl
@[simp] theorem ignoreWrite_nextSid (s : State) (off : Nat) : (ignoreWrite s off).nextSid = s.nextSid := rfl
@[simp] theorem ignoreWrite_wp (s : State) (off : Nat) : (ignoreWrite s off).wp = s.wp := rfl
@[simp] theorem ignoreWrite_bearing (s : State) (off : Nat) : (ignoreWrite s off).bearing = s.bearing := rfl
@[simp] theorem ignoreWrite_lists (s : State) (off : Nat) : (ignoreWrite s off).lists = s.lists := rfl
@[simp] theorem ignoreWrite_feat (s : State) (off : Nat) : (ignoreWrite s off).feat = s.feat := rfl
@[simp] theorem ignoreWrite_vcache (s : State) (off : Nat) : (ignoreWrite s off).vcache = s.vcache := rfl
@[simp] theorem ignoreWrite_gen (s : State) (off : Nat) : (ignoreWrite s off).gen = s.gen := rfl
@[simp] theorem ignoreWrite_compass (s : State) (off : Nat) : (ignoreWrite s off).compass = s.compass := rfl
@[simp] theorem ignoreWrite_tiers (s : State) (off : Nat) : (ignoreWrite s off).tiers = s.tiers := rfl
@[simp] theorem ignoreWrite_ps (s : State) (off : Nat) : (ignoreWrite s off).ps = s.ps := rfl
@[simp] theorem ignoreWrite_links (s : State) (off : Nat) : (ignoreWrite s off).links = s.links := rfl
@[simp] theorem ignoreWrite_nt (s : State) (off : Nat) : (ignoreWrite s off).nt = s.nt := rfl
@[simp] theorem ignoreWrite_boot (s : State) (off : Nat) : (ignoreWrite s off).boot = s.boot := rfl
@[simp] theorem ignoreWrite_faults (s : State) (off : Nat) : (ignoreWrite s off).faults = s.faults := rfl
@[simp] theorem ignoreWrite_twin (s : State) (off : Nat) : (ignoreWrite s off).twin = s.twin := rfl
@[simp] theorem ignoreWrite_power (s : State) (off : Nat) : (ignoreWrite s off).power = s.power := rfl
@[simp] theorem ignoreWrite_pins (s : State) (off : Nat) : (ignoreWrite s off).pins = s.pins := rfl
@[simp] theorem ignoreWrite_cnt (s : State) (off : Nat) : (ignoreWrite s off).cnt = s.cnt := rfl

/-! ### hostWrite -/

@[simp] theorem hostWrite_pending (s : State) (a : Nat) (b : List Byte) : (hostWrite s a b).pending = s.pending := rfl
@[simp] theorem hostWrite_now (s : State) (a : Nat) (b : List Byte) : (hostWrite s a b).now = s.now := rfl
@[simp] theorem hostWrite_free (s : State) (a : Nat) (b : List Byte) : (hostWrite s a b).free = s.free := rfl
@[simp] theorem hostWrite_ident (s : State) (a : Nat) (b : List Byte) : (hostWrite s a b).ident = s.ident := rfl
@[simp] theorem hostWrite_flash (s : State) (a : Nat) (b : List Byte) : (hostWrite s a b).flash = s.flash := rfl
@[simp] theorem hostWrite_cell (s : State) (a : Nat) (b : List Byte) : (hostWrite s a b).cell = s.cell := rfl
@[simp] theorem hostWrite_bar (s : State) (a : Nat) (b : List Byte) : (hostWrite s a b).bar = s.bar := rfl
@[simp] theorem hostWrite_parts (s : State) (a : Nat) (b : List Byte) : (hostWrite s a b).parts = s.parts := rfl
@[simp] theorem hostWrite_lb (s : State) (a : Nat) (b : List Byte) : (hostWrite s a b).lb = s.lb := rfl
@[simp] theorem hostWrite_obj (s : State) (a : Nat) (b : List Byte) : (hostWrite s a b).obj = s.obj := rfl
@[simp] theorem hostWrite_mem (s : State) (a : Nat) (b : List Byte) : (hostWrite s a b).mem = s.mem := rfl
@[simp] theorem hostWrite_helm (s : State) (a : Nat) (b : List Byte) : (hostWrite s a b).helm = s.helm := rfl
@[simp] theorem hostWrite_array (s : State) (a : Nat) (b : List Byte) : (hostWrite s a b).array = s.array := rfl
@[simp] theorem hostWrite_streams (s : State) (a : Nat) (b : List Byte) : (hostWrite s a b).streams = s.streams := rfl
@[simp] theorem hostWrite_nextSid (s : State) (a : Nat) (b : List Byte) : (hostWrite s a b).nextSid = s.nextSid := rfl
@[simp] theorem hostWrite_wp (s : State) (a : Nat) (b : List Byte) : (hostWrite s a b).wp = s.wp := rfl
@[simp] theorem hostWrite_bearing (s : State) (a : Nat) (b : List Byte) : (hostWrite s a b).bearing = s.bearing := rfl
@[simp] theorem hostWrite_lists (s : State) (a : Nat) (b : List Byte) : (hostWrite s a b).lists = s.lists := rfl
@[simp] theorem hostWrite_feat (s : State) (a : Nat) (b : List Byte) : (hostWrite s a b).feat = s.feat := rfl
@[simp] theorem hostWrite_vcache (s : State) (a : Nat) (b : List Byte) : (hostWrite s a b).vcache = s.vcache := rfl
@[simp] theorem hostWrite_gen (s : State) (a : Nat) (b : List Byte) : (hostWrite s a b).gen = s.gen := rfl
@[simp] theorem hostWrite_compass (s : State) (a : Nat) (b : List Byte) : (hostWrite s a b).compass = s.compass := rfl
@[simp] theorem hostWrite_tiers (s : State) (a : Nat) (b : List Byte) : (hostWrite s a b).tiers = s.tiers := rfl
@[simp] theorem hostWrite_ps (s : State) (a : Nat) (b : List Byte) : (hostWrite s a b).ps = s.ps := rfl
@[simp] theorem hostWrite_links (s : State) (a : Nat) (b : List Byte) : (hostWrite s a b).links = s.links := rfl
@[simp] theorem hostWrite_nt (s : State) (a : Nat) (b : List Byte) : (hostWrite s a b).nt = s.nt := rfl
@[simp] theorem hostWrite_boot (s : State) (a : Nat) (b : List Byte) : (hostWrite s a b).boot = s.boot := rfl
@[simp] theorem hostWrite_faults (s : State) (a : Nat) (b : List Byte) : (hostWrite s a b).faults = s.faults := rfl
@[simp] theorem hostWrite_twin (s : State) (a : Nat) (b : List Byte) : (hostWrite s a b).twin = s.twin := rfl
@[simp] theorem hostWrite_power (s : State) (a : Nat) (b : List Byte) : (hostWrite s a b).power = s.power := rfl
@[simp] theorem hostWrite_pins (s : State) (a : Nat) (b : List Byte) : (hostWrite s a b).pins = s.pins := rfl
@[simp] theorem hostWrite_cnt (s : State) (a : Nat) (b : List Byte) : (hostWrite s a b).cnt = s.cnt := rfl

/-! ### countEv -/

@[simp] theorem countEv_pending (s : State) (u x i : Nat) (o : Option Nat) (n : Nat) : (countEv s u x i o n).pending = s.pending := rfl
@[simp] theorem countEv_now (s : State) (u x i : Nat) (o : Option Nat) (n : Nat) : (countEv s u x i o n).now = s.now := rfl
@[simp] theorem countEv_free (s : State) (u x i : Nat) (o : Option Nat) (n : Nat) : (countEv s u x i o n).free = s.free := rfl
@[simp] theorem countEv_ident (s : State) (u x i : Nat) (o : Option Nat) (n : Nat) : (countEv s u x i o n).ident = s.ident := rfl
@[simp] theorem countEv_flash (s : State) (u x i : Nat) (o : Option Nat) (n : Nat) : (countEv s u x i o n).flash = s.flash := rfl
@[simp] theorem countEv_cell (s : State) (u x i : Nat) (o : Option Nat) (n : Nat) : (countEv s u x i o n).cell = s.cell := rfl
@[simp] theorem countEv_bar (s : State) (u x i : Nat) (o : Option Nat) (n : Nat) : (countEv s u x i o n).bar = s.bar := rfl
@[simp] theorem countEv_host (s : State) (u x i : Nat) (o : Option Nat) (n : Nat) : (countEv s u x i o n).host = s.host := rfl
@[simp] theorem countEv_parts (s : State) (u x i : Nat) (o : Option Nat) (n : Nat) : (countEv s u x i o n).parts = s.parts := rfl
@[simp] theorem countEv_lb (s : State) (u x i : Nat) (o : Option Nat) (n : Nat) : (countEv s u x i o n).lb = s.lb := rfl
@[simp] theorem countEv_obj (s : State) (u x i : Nat) (o : Option Nat) (n : Nat) : (countEv s u x i o n).obj = s.obj := rfl
@[simp] theorem countEv_mem (s : State) (u x i : Nat) (o : Option Nat) (n : Nat) : (countEv s u x i o n).mem = s.mem := rfl
@[simp] theorem countEv_helm (s : State) (u x i : Nat) (o : Option Nat) (n : Nat) : (countEv s u x i o n).helm = s.helm := rfl
@[simp] theorem countEv_array (s : State) (u x i : Nat) (o : Option Nat) (n : Nat) : (countEv s u x i o n).array = s.array := rfl
@[simp] theorem countEv_streams (s : State) (u x i : Nat) (o : Option Nat) (n : Nat) : (countEv s u x i o n).streams = s.streams := rfl
@[simp] theorem countEv_nextSid (s : State) (u x i : Nat) (o : Option Nat) (n : Nat) : (countEv s u x i o n).nextSid = s.nextSid := rfl
@[simp] theorem countEv_wp (s : State) (u x i : Nat) (o : Option Nat) (n : Nat) : (countEv s u x i o n).wp = s.wp := rfl
@[simp] theorem countEv_bearing (s : State) (u x i : Nat) (o : Option Nat) (n : Nat) : (countEv s u x i o n).bearing = s.bearing := rfl
@[simp] theorem countEv_lists (s : State) (u x i : Nat) (o : Option Nat) (n : Nat) : (countEv s u x i o n).lists = s.lists := rfl
@[simp] theorem countEv_feat (s : State) (u x i : Nat) (o : Option Nat) (n : Nat) : (countEv s u x i o n).feat = s.feat := rfl
@[simp] theorem countEv_vcache (s : State) (u x i : Nat) (o : Option Nat) (n : Nat) : (countEv s u x i o n).vcache = s.vcache := rfl
@[simp] theorem countEv_gen (s : State) (u x i : Nat) (o : Option Nat) (n : Nat) : (countEv s u x i o n).gen = s.gen := rfl
@[simp] theorem countEv_compass (s : State) (u x i : Nat) (o : Option Nat) (n : Nat) : (countEv s u x i o n).compass = s.compass := rfl
@[simp] theorem countEv_tiers (s : State) (u x i : Nat) (o : Option Nat) (n : Nat) : (countEv s u x i o n).tiers = s.tiers := rfl
@[simp] theorem countEv_ps (s : State) (u x i : Nat) (o : Option Nat) (n : Nat) : (countEv s u x i o n).ps = s.ps := rfl
@[simp] theorem countEv_links (s : State) (u x i : Nat) (o : Option Nat) (n : Nat) : (countEv s u x i o n).links = s.links := rfl
@[simp] theorem countEv_nt (s : State) (u x i : Nat) (o : Option Nat) (n : Nat) : (countEv s u x i o n).nt = s.nt := rfl
@[simp] theorem countEv_boot (s : State) (u x i : Nat) (o : Option Nat) (n : Nat) : (countEv s u x i o n).boot = s.boot := rfl
@[simp] theorem countEv_faults (s : State) (u x i : Nat) (o : Option Nat) (n : Nat) : (countEv s u x i o n).faults = s.faults := rfl
@[simp] theorem countEv_twin (s : State) (u x i : Nat) (o : Option Nat) (n : Nat) : (countEv s u x i o n).twin = s.twin := rfl
@[simp] theorem countEv_power (s : State) (u x i : Nat) (o : Option Nat) (n : Nat) : (countEv s u x i o n).power = s.power := rfl
@[simp] theorem countEv_pins (s : State) (u x i : Nat) (o : Option Nat) (n : Nat) : (countEv s u x i o n).pins = s.pins := rfl

/-! ### modDom -/

@[simp] theorem modDom_pending (s : State) (d : Nat) (f : Dom → Dom) : (modDom s d f).pending = s.pending := rfl
@[simp] theorem modDom_now (s : State) (d : Nat) (f : Dom → Dom) : (modDom s d f).now = s.now := rfl
@[simp] theorem modDom_free (s : State) (d : Nat) (f : Dom → Dom) : (modDom s d f).free = s.free := rfl
@[simp] theorem modDom_ident (s : State) (d : Nat) (f : Dom → Dom) : (modDom s d f).ident = s.ident := rfl
@[simp] theorem modDom_flash (s : State) (d : Nat) (f : Dom → Dom) : (modDom s d f).flash = s.flash := rfl
@[simp] theorem modDom_cell (s : State) (d : Nat) (f : Dom → Dom) : (modDom s d f).cell = s.cell := rfl
@[simp] theorem modDom_bar (s : State) (d : Nat) (f : Dom → Dom) : (modDom s d f).bar = s.bar := rfl
@[simp] theorem modDom_host (s : State) (d : Nat) (f : Dom → Dom) : (modDom s d f).host = s.host := rfl
@[simp] theorem modDom_parts (s : State) (d : Nat) (f : Dom → Dom) : (modDom s d f).parts = s.parts := rfl
@[simp] theorem modDom_lb (s : State) (d : Nat) (f : Dom → Dom) : (modDom s d f).lb = s.lb := rfl
@[simp] theorem modDom_obj (s : State) (d : Nat) (f : Dom → Dom) : (modDom s d f).obj = s.obj := rfl
@[simp] theorem modDom_mem (s : State) (d : Nat) (f : Dom → Dom) : (modDom s d f).mem = s.mem := rfl
@[simp] theorem modDom_helm (s : State) (d : Nat) (f : Dom → Dom) : (modDom s d f).helm = s.helm := rfl
@[simp] theorem modDom_array (s : State) (d : Nat) (f : Dom → Dom) : (modDom s d f).array = s.array := rfl
@[simp] theorem modDom_streams (s : State) (d : Nat) (f : Dom → Dom) : (modDom s d f).streams = s.streams := rfl
@[simp] theorem modDom_nextSid (s : State) (d : Nat) (f : Dom → Dom) : (modDom s d f).nextSid = s.nextSid := rfl
@[simp] theorem modDom_wp (s : State) (d : Nat) (f : Dom → Dom) : (modDom s d f).wp = s.wp := rfl
@[simp] theorem modDom_bearing (s : State) (d : Nat) (f : Dom → Dom) : (modDom s d f).bearing = s.bearing := rfl
@[simp] theorem modDom_lists (s : State) (d : Nat) (f : Dom → Dom) : (modDom s d f).lists = s.lists := rfl
@[simp] theorem modDom_feat (s : State) (d : Nat) (f : Dom → Dom) : (modDom s d f).feat = s.feat := rfl
@[simp] theorem modDom_vcache (s : State) (d : Nat) (f : Dom → Dom) : (modDom s d f).vcache = s.vcache := rfl
@[simp] theorem modDom_gen (s : State) (d : Nat) (f : Dom → Dom) : (modDom s d f).gen = s.gen := rfl
@[simp] theorem modDom_compass (s : State) (d : Nat) (f : Dom → Dom) : (modDom s d f).compass = s.compass := rfl
@[simp] theorem modDom_tiers (s : State) (d : Nat) (f : Dom → Dom) : (modDom s d f).tiers = s.tiers := rfl
@[simp] theorem modDom_ps (s : State) (d : Nat) (f : Dom → Dom) : (modDom s d f).ps = s.ps := rfl
@[simp] theorem modDom_links (s : State) (d : Nat) (f : Dom → Dom) : (modDom s d f).links = s.links := rfl
@[simp] theorem modDom_nt (s : State) (d : Nat) (f : Dom → Dom) : (modDom s d f).nt = s.nt := rfl
@[simp] theorem modDom_boot (s : State) (d : Nat) (f : Dom → Dom) : (modDom s d f).boot = s.boot := rfl
@[simp] theorem modDom_faults (s : State) (d : Nat) (f : Dom → Dom) : (modDom s d f).faults = s.faults := rfl
@[simp] theorem modDom_twin (s : State) (d : Nat) (f : Dom → Dom) : (modDom s d f).twin = s.twin := rfl
@[simp] theorem modDom_pins (s : State) (d : Nat) (f : Dom → Dom) : (modDom s d f).pins = s.pins := rfl
@[simp] theorem modDom_cnt (s : State) (d : Nat) (f : Dom → Dom) : (modDom s d f).cnt = s.cnt := rfl

/-! ### modPort -/

@[simp] theorem modPort_pending (s : State) (q : Nat) (f : Port → Port) : (modPort s q f).pending = s.pending := rfl
@[simp] theorem modPort_now (s : State) (q : Nat) (f : Port → Port) : (modPort s q f).now = s.now := rfl
@[simp] theorem modPort_free (s : State) (q : Nat) (f : Port → Port) : (modPort s q f).free = s.free := rfl
@[simp] theorem modPort_ident (s : State) (q : Nat) (f : Port → Port) : (modPort s q f).ident = s.ident := rfl
@[simp] theorem modPort_flash (s : State) (q : Nat) (f : Port → Port) : (modPort s q f).flash = s.flash := rfl
@[simp] theorem modPort_cell (s : State) (q : Nat) (f : Port → Port) : (modPort s q f).cell = s.cell := rfl
@[simp] theorem modPort_bar (s : State) (q : Nat) (f : Port → Port) : (modPort s q f).bar = s.bar := rfl
@[simp] theorem modPort_host (s : State) (q : Nat) (f : Port → Port) : (modPort s q f).host = s.host := rfl
@[simp] theorem modPort_parts (s : State) (q : Nat) (f : Port → Port) : (modPort s q f).parts = s.parts := rfl
@[simp] theorem modPort_lb (s : State) (q : Nat) (f : Port → Port) : (modPort s q f).lb = s.lb := rfl
@[simp] theorem modPort_obj (s : State) (q : Nat) (f : Port → Port) : (modPort s q f).obj = s.obj := rfl
@[simp] theorem modPort_mem (s : State) (q : Nat) (f : Port → Port) : (modPort s q f).mem = s.mem := rfl
@[simp] theorem modPort_helm (s : State) (q : Nat) (f : Port → Port) : (modPort s q f).helm = s.helm := rfl
@[simp] theorem modPort_array (s : State) (q : Nat) (f : Port → Port) : (modPort s q f).array = s.array := rfl
@[simp] theorem modPort_streams (s : State) (q : Nat) (f : Port → Port) : (modPort s q f).streams = s.streams := rfl
@[simp] theorem modPort_nextSid (s : State) (q : Nat) (f : Port → Port) : (modPort s q f).nextSid = s.nextSid := rfl
@[simp] theorem modPort_wp (s : State) (q : Nat) (f : Port → Port) : (modPort s q f).wp = s.wp := rfl
@[simp] theorem modPort_bearing (s : State) (q : Nat) (f : Port → Port) : (modPort s q f).bearing = s.bearing := rfl
@[simp] theorem modPort_lists (s : State) (q : Nat) (f : Port → Port) : (modPort s q f).lists = s.lists := rfl
@[simp] theorem modPort_feat (s : State) (q : Nat) (f : Port → Port) : (modPort s q f).feat = s.feat := rfl
@[simp] theorem modPort_vcache (s : State) (q : Nat) (f : Port → Port) : (modPort s q f).vcache = s.vcache := rfl
@[simp] theorem modPort_gen (s : State) (q : Nat) (f : Port → Port) : (modPort s q f).gen = s.gen := rfl
@[simp] theorem modPort_compass (s : State) (q : Nat) (f : Port → Port) : (modPort s q f).compass = s.compass := rfl
@[simp] theorem modPort_tiers (s : State) (q : Nat) (f : Port → Port) : (modPort s q f).tiers = s.tiers := rfl
@[simp] theorem modPort_ps (s : State) (q : Nat) (f : Port → Port) : (modPort s q f).ps = s.ps := rfl
@[simp] theorem modPort_nt (s : State) (q : Nat) (f : Port → Port) : (modPort s q f).nt = s.nt := rfl
@[simp] theorem modPort_boot (s : State) (q : Nat) (f : Port → Port) : (modPort s q f).boot = s.boot := rfl
@[simp] theorem modPort_faults (s : State) (q : Nat) (f : Port → Port) : (modPort s q f).faults = s.faults := rfl
@[simp] theorem modPort_twin (s : State) (q : Nat) (f : Port → Port) : (modPort s q f).twin = s.twin := rfl
@[simp] theorem modPort_power (s : State) (q : Nat) (f : Port → Port) : (modPort s q f).power = s.power := rfl
@[simp] theorem modPort_pins (s : State) (q : Nat) (f : Port → Port) : (modPort s q f).pins = s.pins := rfl
@[simp] theorem modPort_cnt (s : State) (q : Nat) (f : Port → Port) : (modPort s q f).cnt = s.cnt := rfl

/-! ### setTx -/

@[simp] theorem setTx_pending (s : State) (x : Tx) : (setTx s x).pending = s.pending := rfl
@[simp] theorem setTx_now (s : State) (x : Tx) : (setTx s x).now = s.now := rfl
@[simp] theorem setTx_free (s : State) (x : Tx) : (setTx s x).free = s.free := rfl
@[simp] theorem setTx_ident (s : State) (x : Tx) : (setTx s x).ident = s.ident := rfl
@[simp] theorem setTx_flash (s : State) (x : Tx) : (setTx s x).flash = s.flash := rfl
@[simp] theorem setTx_cell (s : State) (x : Tx) : (setTx s x).cell = s.cell := rfl
@[simp] theorem setTx_bar (s : State) (x : Tx) : (setTx s x).bar = s.bar := rfl
@[simp] theorem setTx_host (s : State) (x : Tx) : (setTx s x).host = s.host := rfl
@[simp] theorem setTx_parts (s : State) (x : Tx) : (setTx s x).parts = s.parts := rfl
@[simp] theorem setTx_lb (s : State) (x : Tx) : (setTx s x).lb = s.lb := rfl
@[simp] theorem setTx_obj (s : State) (x : Tx) : (setTx s x).obj = s.obj := rfl
@[simp] theorem setTx_mem (s : State) (x : Tx) : (setTx s x).mem = s.mem := rfl
@[simp] theorem setTx_helm (s : State) (x : Tx) : (setTx s x).helm = s.helm := rfl
@[simp] theorem setTx_array (s : State) (x : Tx) : (setTx s x).array = s.array := rfl
@[simp] theorem setTx_streams (s : State) (x : Tx) : (setTx s x).streams = s.streams := rfl
@[simp] theorem setTx_nextSid (s : State) (x : Tx) : (setTx s x).nextSid = s.nextSid := rfl
@[simp] theorem setTx_wp (s : State) (x : Tx) : (setTx s x).wp = s.wp := rfl
@[simp] theorem setTx_bearing (s : State) (x : Tx) : (setTx s x).bearing = s.bearing := rfl
@[simp] theorem setTx_lists (s : State) (x : Tx) : (setTx s x).lists = s.lists := rfl
@[simp] theorem setTx_feat (s : State) (x : Tx) : (setTx s x).feat = s.feat := rfl
@[simp] theorem setTx_vcache (s : State) (x : Tx) : (setTx s x).vcache = s.vcache := rfl
@[simp] theorem setTx_gen (s : State) (x : Tx) : (setTx s x).gen = s.gen := rfl
@[simp] theorem setTx_compass (s : State) (x : Tx) : (setTx s x).compass = s.compass := rfl
@[simp] theorem setTx_tiers (s : State) (x : Tx) : (setTx s x).tiers = s.tiers := rfl
@[simp] theorem setTx_ps (s : State) (x : Tx) : (setTx s x).ps = s.ps := rfl
@[simp] theorem setTx_nt (s : State) (x : Tx) : (setTx s x).nt = s.nt := rfl
@[simp] theorem setTx_boot (s : State) (x : Tx) : (setTx s x).boot = s.boot := rfl
@[simp] theorem setTx_faults (s : State) (x : Tx) : (setTx s x).faults = s.faults := rfl
@[simp] theorem setTx_twin (s : State) (x : Tx) : (setTx s x).twin = s.twin := rfl
@[simp] theorem setTx_power (s : State) (x : Tx) : (setTx s x).power = s.power := rfl
@[simp] theorem setTx_pins (s : State) (x : Tx) : (setTx s x).pins = s.pins := rfl
@[simp] theorem setTx_cnt (s : State) (x : Tx) : (setTx s x).cnt = s.cnt := rfl

/-! ### setRx -/

@[simp] theorem setRx_pending (s : State) (x : Rx) : (setRx s x).pending = s.pending := rfl
@[simp] theorem setRx_now (s : State) (x : Rx) : (setRx s x).now = s.now := rfl
@[simp] theorem setRx_free (s : State) (x : Rx) : (setRx s x).free = s.free := rfl
@[simp] theorem setRx_ident (s : State) (x : Rx) : (setRx s x).ident = s.ident := rfl
@[simp] theorem setRx_flash (s : State) (x : Rx) : (setRx s x).flash = s.flash := rfl
@[simp] theorem setRx_cell (s : State) (x : Rx) : (setRx s x).cell = s.cell := rfl
@[simp] theorem setRx_bar (s : State) (x : Rx) : (setRx s x).bar = s.bar := rfl
@[simp] theorem setRx_host (s : State) (x : Rx) : (setRx s x).host = s.host := rfl
@[simp] theorem setRx_parts (s : State) (x : Rx) : (setRx s x).parts = s.parts := rfl
@[simp] theorem setRx_lb (s : State) (x : Rx) : (setRx s x).lb = s.lb := rfl
@[simp] theorem setRx_obj (s : State) (x : Rx) : (setRx s x).obj = s.obj := rfl
@[simp] theorem setRx_mem (s : State) (x : Rx) : (setRx s x).mem = s.mem := rfl
@[simp] theorem setRx_helm (s : State) (x : Rx) : (setRx s x).helm = s.helm := rfl
@[simp] theorem setRx_array (s : State) (x : Rx) : (setRx s x).array = s.array := rfl
@[simp] theorem setRx_streams (s : State) (x : Rx) : (setRx s x).streams = s.streams := rfl
@[simp] theorem setRx_nextSid (s : State) (x : Rx) : (setRx s x).nextSid = s.nextSid := rfl
@[simp] theorem setRx_wp (s : State) (x : Rx) : (setRx s x).wp = s.wp := rfl
@[simp] theorem setRx_bearing (s : State) (x : Rx) : (setRx s x).bearing = s.bearing := rfl
@[simp] theorem setRx_lists (s : State) (x : Rx) : (setRx s x).lists = s.lists := rfl
@[simp] theorem setRx_feat (s : State) (x : Rx) : (setRx s x).feat = s.feat := rfl
@[simp] theorem setRx_vcache (s : State) (x : Rx) : (setRx s x).vcache = s.vcache := rfl
@[simp] theorem setRx_gen (s : State) (x : Rx) : (setRx s x).gen = s.gen := rfl
@[simp] theorem setRx_compass (s : State) (x : Rx) : (setRx s x).compass = s.compass := rfl
@[simp] theorem setRx_tiers (s : State) (x : Rx) : (setRx s x).tiers = s.tiers := rfl
@[simp] theorem setRx_ps (s : State) (x : Rx) : (setRx s x).ps = s.ps := rfl
@[simp] theorem setRx_nt (s : State) (x : Rx) : (setRx s x).nt = s.nt := rfl
@[simp] theorem setRx_boot (s : State) (x : Rx) : (setRx s x).boot = s.boot := rfl
@[simp] theorem setRx_faults (s : State) (x : Rx) : (setRx s x).faults = s.faults := rfl
@[simp] theorem setRx_twin (s : State) (x : Rx) : (setRx s x).twin = s.twin := rfl
@[simp] theorem setRx_power (s : State) (x : Rx) : (setRx s x).power = s.power := rfl
@[simp] theorem setRx_pins (s : State) (x : Rx) : (setRx s x).pins = s.pins := rfl
@[simp] theorem setRx_cnt (s : State) (x : Rx) : (setRx s x).cnt = s.cnt := rfl

/-! ### modEntry -/

@[simp] theorem modEntry_pending (s : State) (i : Nat) (f : Entry → Entry) : (modEntry s i f).pending = s.pending := rfl
@[simp] theorem modEntry_now (s : State) (i : Nat) (f : Entry → Entry) : (modEntry s i f).now = s.now := rfl
@[simp] theorem modEntry_free (s : State) (i : Nat) (f : Entry → Entry) : (modEntry s i f).free = s.free := rfl
@[simp] theorem modEntry_ident (s : State) (i : Nat) (f : Entry → Entry) : (modEntry s i f).ident = s.ident := rfl
@[simp] theorem modEntry_flash (s : State) (i : Nat) (f : Entry → Entry) : (modEntry s i f).flash = s.flash := rfl
@[simp] theorem modEntry_cell (s : State) (i : Nat) (f : Entry → Entry) : (modEntry s i f).cell = s.cell := rfl
@[simp] theorem modEntry_bar (s : State) (i : Nat) (f : Entry → Entry) : (modEntry s i f).bar = s.bar := rfl
@[simp] theorem modEntry_host (s : State) (i : Nat) (f : Entry → Entry) : (modEntry s i f).host = s.host := rfl
@[simp] theorem modEntry_parts (s : State) (i : Nat) (f : Entry → Entry) : (modEntry s i f).parts = s.parts := rfl
@[simp] theorem modEntry_obj (s : State) (i : Nat) (f : Entry → Entry) : (modEntry s i f).obj = s.obj := rfl
@[simp] theorem modEntry_mem (s : State) (i : Nat) (f : Entry → Entry) : (modEntry s i f).mem = s.mem := rfl
@[simp] theorem modEntry_helm (s : State) (i : Nat) (f : Entry → Entry) : (modEntry s i f).helm = s.helm := rfl
@[simp] theorem modEntry_array (s : State) (i : Nat) (f : Entry → Entry) : (modEntry s i f).array = s.array := rfl
@[simp] theorem modEntry_streams (s : State) (i : Nat) (f : Entry → Entry) : (modEntry s i f).streams = s.streams := rfl
@[simp] theorem modEntry_nextSid (s : State) (i : Nat) (f : Entry → Entry) : (modEntry s i f).nextSid = s.nextSid := rfl
@[simp] theorem modEntry_wp (s : State) (i : Nat) (f : Entry → Entry) : (modEntry s i f).wp = s.wp := rfl
@[simp] theorem modEntry_bearing (s : State) (i : Nat) (f : Entry → Entry) : (modEntry s i f).bearing = s.bearing := rfl
@[simp] theorem modEntry_lists (s : State) (i : Nat) (f : Entry → Entry) : (modEntry s i f).lists = s.lists := rfl
@[simp] theorem modEntry_feat (s : State) (i : Nat) (f : Entry → Entry) : (modEntry s i f).feat = s.feat := rfl
@[simp] theorem modEntry_vcache (s : State) (i : Nat) (f : Entry → Entry) : (modEntry s i f).vcache = s.vcache := rfl
@[simp] theorem modEntry_gen (s : State) (i : Nat) (f : Entry → Entry) : (modEntry s i f).gen = s.gen := rfl
@[simp] theorem modEntry_compass (s : State) (i : Nat) (f : Entry → Entry) : (modEntry s i f).compass = s.compass := rfl
@[simp] theorem modEntry_tiers (s : State) (i : Nat) (f : Entry → Entry) : (modEntry s i f).tiers = s.tiers := rfl
@[simp] theorem modEntry_ps (s : State) (i : Nat) (f : Entry → Entry) : (modEntry s i f).ps = s.ps := rfl
@[simp] theorem modEntry_links (s : State) (i : Nat) (f : Entry → Entry) : (modEntry s i f).links = s.links := rfl
@[simp] theorem modEntry_nt (s : State) (i : Nat) (f : Entry → Entry) : (modEntry s i f).nt = s.nt := rfl
@[simp] theorem modEntry_boot (s : State) (i : Nat) (f : Entry → Entry) : (modEntry s i f).boot = s.boot := rfl
@[simp] theorem modEntry_faults (s : State) (i : Nat) (f : Entry → Entry) : (modEntry s i f).faults = s.faults := rfl
@[simp] theorem modEntry_twin (s : State) (i : Nat) (f : Entry → Entry) : (modEntry s i f).twin = s.twin := rfl
@[simp] theorem modEntry_power (s : State) (i : Nat) (f : Entry → Entry) : (modEntry s i f).power = s.power := rfl
@[simp] theorem modEntry_pins (s : State) (i : Nat) (f : Entry → Entry) : (modEntry s i f).pins = s.pins := rfl
@[simp] theorem modEntry_cnt (s : State) (i : Nat) (f : Entry → Entry) : (modEntry s i f).cnt = s.cnt := rfl

/-! ### modWork -/

@[simp] theorem modWork_pending (s : State) (i : Nat) (f : Work → Work) : (modWork s i f).pending = s.pending := rfl
@[simp] theorem modWork_now (s : State) (i : Nat) (f : Work → Work) : (modWork s i f).now = s.now := rfl
@[simp] theorem modWork_free (s : State) (i : Nat) (f : Work → Work) : (modWork s i f).free = s.free := rfl
@[simp] theorem modWork_ident (s : State) (i : Nat) (f : Work → Work) : (modWork s i f).ident = s.ident := rfl
@[simp] theorem modWork_flash (s : State) (i : Nat) (f : Work → Work) : (modWork s i f).flash = s.flash := rfl
@[simp] theorem modWork_cell (s : State) (i : Nat) (f : Work → Work) : (modWork s i f).cell = s.cell := rfl
@[simp] theorem modWork_bar (s : State) (i : Nat) (f : Work → Work) : (modWork s i f).bar = s.bar := rfl
@[simp] theorem modWork_host (s : State) (i : Nat) (f : Work → Work) : (modWork s i f).host = s.host := rfl
@[simp] theorem modWork_parts (s : State) (i : Nat) (f : Work → Work) : (modWork s i f).parts = s.parts := rfl
@[simp] theorem modWork_obj (s : State) (i : Nat) (f : Work → Work) : (modWork s i f).obj = s.obj := rfl
@[simp] theorem modWork_mem (s : State) (i : Nat) (f : Work → Work) : (modWork s i f).mem = s.mem := rfl
@[simp] theorem modWork_helm (s : State) (i : Nat) (f : Work → Work) : (modWork s i f).helm = s.helm := rfl
@[simp] theorem modWork_array (s : State) (i : Nat) (f : Work → Work) : (modWork s i f).array = s.array := rfl
@[simp] theorem modWork_streams (s : State) (i : Nat) (f : Work → Work) : (modWork s i f).streams = s.streams := rfl
@[simp] theorem modWork_nextSid (s : State) (i : Nat) (f : Work → Work) : (modWork s i f).nextSid = s.nextSid := rfl
@[simp] theorem modWork_wp (s : State) (i : Nat) (f : Work → Work) : (modWork s i f).wp = s.wp := rfl
@[simp] theorem modWork_bearing (s : State) (i : Nat) (f : Work → Work) : (modWork s i f).bearing = s.bearing := rfl
@[simp] theorem modWork_lists (s : State) (i : Nat) (f : Work → Work) : (modWork s i f).lists = s.lists := rfl
@[simp] theorem modWork_feat (s : State) (i : Nat) (f : Work → Work) : (modWork s i f).feat = s.feat := rfl
@[simp] theorem modWork_vcache (s : State) (i : Nat) (f : Work → Work) : (modWork s i f).vcache = s.vcache := rfl
@[simp] theorem modWork_gen (s : State) (i : Nat) (f : Work → Work) : (modWork s i f).gen = s.gen := rfl
@[simp] theorem modWork_compass (s : State) (i : Nat) (f : Work → Work) : (modWork s i f).compass = s.compass := rfl
@[simp] theorem modWork_tiers (s : State) (i : Nat) (f : Work → Work) : (modWork s i f).tiers = s.tiers := rfl
@[simp] theorem modWork_ps (s : State) (i : Nat) (f : Work → Work) : (modWork s i f).ps = s.ps := rfl
@[simp] theorem modWork_links (s : State) (i : Nat) (f : Work → Work) : (modWork s i f).links = s.links := rfl
@[simp] theorem modWork_nt (s : State) (i : Nat) (f : Work → Work) : (modWork s i f).nt = s.nt := rfl
@[simp] theorem modWork_boot (s : State) (i : Nat) (f : Work → Work) : (modWork s i f).boot = s.boot := rfl
@[simp] theorem modWork_faults (s : State) (i : Nat) (f : Work → Work) : (modWork s i f).faults = s.faults := rfl
@[simp] theorem modWork_twin (s : State) (i : Nat) (f : Work → Work) : (modWork s i f).twin = s.twin := rfl
@[simp] theorem modWork_power (s : State) (i : Nat) (f : Work → Work) : (modWork s i f).power = s.power := rfl
@[simp] theorem modWork_pins (s : State) (i : Nat) (f : Work → Work) : (modWork s i f).pins = s.pins := rfl
@[simp] theorem modWork_cnt (s : State) (i : Nat) (f : Work → Work) : (modWork s i f).cnt = s.cnt := rfl

/-! ### modPool -/

@[simp] theorem modPool_pending (s : State) (g : Nat) (f : Pool → Pool) : (modPool s g f).pending = s.pending := rfl
@[simp] theorem modPool_now (s : State) (g : Nat) (f : Pool → Pool) : (modPool s g f).now = s.now := rfl
@[simp] theorem modPool_free (s : State) (g : Nat) (f : Pool → Pool) : (modPool s g f).free = s.free := rfl
@[simp] theorem modPool_ident (s : State) (g : Nat) (f : Pool → Pool) : (modPool s g f).ident = s.ident := rfl
@[simp] theorem modPool_flash (s : State) (g : Nat) (f : Pool → Pool) : (modPool s g f).flash = s.flash := rfl
@[simp] theorem modPool_cell (s : State) (g : Nat) (f : Pool → Pool) : (modPool s g f).cell = s.cell := rfl
@[simp] theorem modPool_bar (s : State) (g : Nat) (f : Pool → Pool) : (modPool s g f).bar = s.bar := rfl
@[simp] theorem modPool_host (s : State) (g : Nat) (f : Pool → Pool) : (modPool s g f).host = s.host := rfl
@[simp] theorem modPool_parts (s : State) (g : Nat) (f : Pool → Pool) : (modPool s g f).parts = s.parts := rfl
@[simp] theorem modPool_lb (s : State) (g : Nat) (f : Pool → Pool) : (modPool s g f).lb = s.lb := rfl
@[simp] theorem modPool_obj (s : State) (g : Nat) (f : Pool → Pool) : (modPool s g f).obj = s.obj := rfl
@[simp] theorem modPool_mem (s : State) (g : Nat) (f : Pool → Pool) : (modPool s g f).mem = s.mem := rfl
@[simp] theorem modPool_helm (s : State) (g : Nat) (f : Pool → Pool) : (modPool s g f).helm = s.helm := rfl
@[simp] theorem modPool_array (s : State) (g : Nat) (f : Pool → Pool) : (modPool s g f).array = s.array := rfl
@[simp] theorem modPool_streams (s : State) (g : Nat) (f : Pool → Pool) : (modPool s g f).streams = s.streams := rfl
@[simp] theorem modPool_nextSid (s : State) (g : Nat) (f : Pool → Pool) : (modPool s g f).nextSid = s.nextSid := rfl
@[simp] theorem modPool_wp (s : State) (g : Nat) (f : Pool → Pool) : (modPool s g f).wp = s.wp := rfl
@[simp] theorem modPool_bearing (s : State) (g : Nat) (f : Pool → Pool) : (modPool s g f).bearing = s.bearing := rfl
@[simp] theorem modPool_lists (s : State) (g : Nat) (f : Pool → Pool) : (modPool s g f).lists = s.lists := rfl
@[simp] theorem modPool_feat (s : State) (g : Nat) (f : Pool → Pool) : (modPool s g f).feat = s.feat := rfl
@[simp] theorem modPool_vcache (s : State) (g : Nat) (f : Pool → Pool) : (modPool s g f).vcache = s.vcache := rfl
@[simp] theorem modPool_compass (s : State) (g : Nat) (f : Pool → Pool) : (modPool s g f).compass = s.compass := rfl
@[simp] theorem modPool_tiers (s : State) (g : Nat) (f : Pool → Pool) : (modPool s g f).tiers = s.tiers := rfl
@[simp] theorem modPool_ps (s : State) (g : Nat) (f : Pool → Pool) : (modPool s g f).ps = s.ps := rfl
@[simp] theorem modPool_links (s : State) (g : Nat) (f : Pool → Pool) : (modPool s g f).links = s.links := rfl
@[simp] theorem modPool_nt (s : State) (g : Nat) (f : Pool → Pool) : (modPool s g f).nt = s.nt := rfl
@[simp] theorem modPool_boot (s : State) (g : Nat) (f : Pool → Pool) : (modPool s g f).boot = s.boot := rfl
@[simp] theorem modPool_faults (s : State) (g : Nat) (f : Pool → Pool) : (modPool s g f).faults = s.faults := rfl
@[simp] theorem modPool_twin (s : State) (g : Nat) (f : Pool → Pool) : (modPool s g f).twin = s.twin := rfl
@[simp] theorem modPool_power (s : State) (g : Nat) (f : Pool → Pool) : (modPool s g f).power = s.power := rfl
@[simp] theorem modPool_pins (s : State) (g : Nat) (f : Pool → Pool) : (modPool s g f).pins = s.pins := rfl
@[simp] theorem modPool_cnt (s : State) (g : Nat) (f : Pool → Pool) : (modPool s g f).cnt = s.cnt := rfl

/-! ### What the updates write -/

@[simp] theorem tick_now (s : State) (t : Nat) : (tick s t).now = max s.now t := rfl
@[simp] theorem drawn_free (s : State) : (drawn s).free = s.free + 1 := rfl

@[simp] theorem part_modPart_self (s : State) (p : Nat) (f : Part → Part) : part (modPart s p f) p = f (part s p) :=
  tget_tmod_self _ _ _ _

theorem part_modPart_other (s : State) {p q : Nat} (f : Part → Part) (h : q ≠ p) : part (modPart s p f) q = part s q :=
  tget_tmod_other _ _ _ h

theorem part_modPart (s : State) (p q : Nat) (f : Part → Part) :
    part (modPart s p f) q = if q = p then f (part s p) else part s q := tget_tmod _ _ _ _ _

@[simp] theorem ring_modRing_self (s : State) (p i : Nat) (f : Ring → Ring) :
    ring (modRing s p i f) p i = f (ring s p i) := by
  unfold ring modRing
  rw [part_modPart_self]
  exact tget_tmod_self _ _ _ _

theorem ring_modRing_other (s : State) {p i q j : Nat} (f : Ring → Ring) (h : q ≠ p ∨ j ≠ i) :
    ring (modRing s p i f) q j = ring s q j := by
  unfold ring modRing
  rw [part_modPart]
  split
  · subst_vars
    exact tget_tmod_other _ _ _ (by simpa using h)
  · rfl

@[simp] theorem entry_modEntry_self (s : State) (i : Nat) (f : Entry → Entry) : entry (modEntry s i f) i = f (entry s i) :=
  tget_tmod_self _ _ _ _

theorem entry_modEntry_other (s : State) {i j : Nat} (f : Entry → Entry) (h : j ≠ i) :
    entry (modEntry s i f) j = entry s j := tget_tmod_other _ _ _ h

@[simp] theorem work_modEntry (s : State) (i j : Nat) (f : Entry → Entry) : work (modEntry s i f) j = work s j := rfl

@[simp] theorem entry_modWork (s : State) (i j : Nat) (f : Work → Work) : entry (modWork s i f) j = entry s j := rfl

theorem lookup_map_at {α : Type} (l : List (Nat × α)) (i j : Nat) (f : α → α) :
    (l.map fun e => if e.1 = i then (e.1, f e.2) else e).lookup j = if j = i then (l.lookup j).map f else l.lookup j := by
  induction l with
  | nil => simp
  | cons e l ih =>
    obtain ⟨k, v⟩ := e
    simp only [List.map_cons, List.lookup_cons]
    by_cases hk : k = i
    · subst hk
      by_cases hj : j = k
      · subst hj; simp
      · have : (j == k) = false := by simpa using hj
        simp [List.lookup_cons, this, ih, hj]
    · by_cases hj : j = k
      · subst hj; simp [hk]
      · have : (j == k) = false := by simpa using hj
        simp [List.lookup_cons, hk, this, ih]

theorem work_modWork (s : State) (i j : Nat) (f : Work → Work) :
    work (modWork s i f) j = if j = i then (work s j).map f else work s j := lookup_map_at _ _ _ _

@[simp] theorem work_modWork_self (s : State) (i : Nat) (f : Work → Work) : work (modWork s i f) i = (work s i).map f := by
  rw [work_modWork, if_pos rfl]

theorem port_modPort (s : State) (p q : Nat) (f : Port → Port) :
    port (modPort s p f) q = if q = p then f (port s p) else port s q := tget_tmod _ _ _ _ _

@[simp] theorem port_modPort_self (s : State) (q : Nat) (f : Port → Port) : port (modPort s q f) q = f (port s q) :=
  tget_tmod_self _ _ _ _

theorem port_modPort_other (s : State) {p q : Nat} (f : Port → Port) (h : q ≠ p) : port (modPort s p f) q = port s q :=
  tget_tmod_other _ _ _ h

@[simp] theorem dom_modDom_self (s : State) (d : Nat) (f : Dom → Dom) (h : fittedDom s d = true) :
    dom (modDom s d f) d = f (dom s d) := by
  have h' : fittedDom (modDom s d f) d = true := h
  unfold dom
  rw [if_pos h', if_pos h]
  exact tget_tmod_self _ _ _ _

theorem dom_modDom_other (s : State) {d e : Nat} (f : Dom → Dom) (h : e ≠ d) : dom (modDom s d f) e = dom s e := by
  unfold dom
  have : fittedDom (modDom s d f) e = fittedDom s e := rfl
  rw [this]
  split
  · exact tget_tmod_other _ _ _ h
  · rfl

theorem tput_self (d : Option W32) (t : Tab (Option W32)) (i : Nat) (v : Option W32) : tget d (tput t i v) i = v :=
  tget_tput_self d t i v

/-- A set-up register reads as written. -/
theorem reg_setReg_self (s : State) (off v : Nat) : reg (setReg s off v) off = v % 2 ^ 32 := by
  unfold reg setReg
  simp only
  rw [tget_tput_self]
  simp

/-- The other set-up registers read as before. -/
theorem reg_setReg_other (s : State) {off o : Nat} (v : Nat) (h : o ≠ off) : reg (setReg s off v) o = reg s o := by
  unfold reg setReg
  simp only
  rw [tget_tput_other none s.bar.regs (some (BitVec.ofNat 32 v)) h]

theorem hostWrite_byte (s : State) (a : Nat) (b : List Byte) (x : Nat) :
    (hostWrite s a b).host.mem.byte x = if a ≤ x ∧ x < a + b.length then b.getD (x - a) 0 else s.host.mem.byte x :=
  Mem.byte_write _ _ _ _

/-! ### Frames -/

theorem Only.refl (fs : List StateField) (s : State) : Only fs s s := by intro f _; cases f <;> rfl

theorem StateField.same_trans {f : StateField} {a b c : State} (h : f.same a b) (h' : f.same b c) : f.same a c := by
  cases f <;> exact Eq.trans h' h

theorem Only.trans {fs : List StateField} {a b c : State} (h : Only fs a b) (h' : Only fs b c) : Only fs a c :=
  fun f hf => StateField.same_trans (h f hf) (h' f hf)

theorem Only.mono {fs gs : List StateField} {a b : State} (h : Only fs a b) (hs : ∀ f ∈ fs, f ∈ gs) : Only gs a b :=
  fun f hf => h f fun hm => hf (hs f hm)

/-- A fold whose steps all stay within a frame stays within it. -/
theorem Only.forEach {α : Type} {fs : List StateField} (f : State → α → State) (h : ∀ s a, Only fs s (f s a))
    (s : State) (l : List α) : Only fs s (Machine.forEach s l f) := by
  induction l generalizing s with
  | nil => exact Only.refl fs s
  | cons a l ih => exact (h s a).trans (ih (f s a))

/-- A property that every step of a fold keeps holds at its end. -/
theorem forEach_keeps {α : Type} {P : State → Prop} (f : State → α → State) (h : ∀ s a, P s → P (f s a))
    (s : State) (l : List α) (hs : P s) : P (forEach s l f) := by
  induction l generalizing s with
  | nil => exact hs
  | cons a l ih => exact ih _ (h s a hs)

theorem tick_only (s : State) (t : Nat) : Only [.now] s (tick s t) := by
  intro f hf; cases f <;> first | rfl | simp at hf
theorem drawn_only (s : State) : Only [.free] s (drawn s) := by
  intro f hf; cases f <;> first | rfl | simp at hf
theorem modPart_only (s : State) (p : Nat) (f : Part → Part) : Only [.parts] s (modPart s p f) := by
  intro f hf; cases f <;> first | rfl | simp at hf
theorem modRing_only (s : State) (p i : Nat) (f : Ring → Ring) : Only [.parts] s (modRing s p i f) := by
  intro f hf; cases f <;> first | rfl | simp at hf
theorem setReg_only (s : State) (off v : Nat) : Only [.bar] s (setReg s off v) := by
  intro f hf; cases f <;> first | rfl | simp at hf
theorem ignoreWrite_only (s : State) (off : Nat) : Only [.bar] s (ignoreWrite s off) := by
  intro f hf; cases f <;> first | rfl | simp at hf
theorem hostWrite_only (s : State) (a : Nat) (b : List Byte) : Only [.host] s (hostWrite s a b) := by
  intro f hf; cases f <;> first | rfl | simp at hf
theorem countEv_only (s : State) (u x i : Nat) (o : Option Nat) (n : Nat) : Only [.cnt] s (countEv s u x i o n) := by
  intro f hf; cases f <;> first | rfl | simp at hf
theorem modDom_only (s : State) (d : Nat) (f : Dom → Dom) : Only [.power] s (modDom s d f) := by
  intro f hf; cases f <;> first | rfl | simp at hf
theorem modPort_only (s : State) (q : Nat) (f : Port → Port) : Only [.links] s (modPort s q f) := by
  intro f hf; cases f <;> first | rfl | simp at hf
theorem setTx_only (s : State) (x : Tx) : Only [.links] s (setTx s x) := by
  intro f hf; cases f <;> first | rfl | simp at hf
theorem setRx_only (s : State) (x : Rx) : Only [.links] s (setRx s x) := by
  intro f hf; cases f <;> first | rfl | simp at hf
theorem modEntry_only (s : State) (i : Nat) (f : Entry → Entry) : Only [.lb] s (modEntry s i f) := by
  intro f hf; cases f <;> first | rfl | simp at hf
theorem modWork_only (s : State) (i : Nat) (f : Work → Work) : Only [.lb] s (modWork s i f) := by
  intro f hf; cases f <;> first | rfl | simp at hf
theorem modPool_only (s : State) (g : Nat) (f : Pool → Pool) : Only [.gen] s (modPool s g f) := by
  intro f hf; cases f <;> first | rfl | simp at hf

end Sys2Proof.Machine
end

