-- ==== Sys2Proof/Laws/Ops.lean ====
section
/-! SUPPORT. What each shared operation can do: its frame, that it keeps memory in canonical form, and what it leaves
where it writes. A proof about a command cites these and does not unfold the operation. -/

namespace Sys2Proof.Machine

/-! ### Sound memory -/

/-- From s to u no field outside a frame changes, and memory that was sound stays sound. -/
def Calm (fs : List StateField) (s u : State) : Prop := Only fs s u ∧ (s.MemSound → u.MemSound)

theorem Calm.refl (fs : List StateField) (s : State) : Calm fs s s := ⟨Only.refl fs s, id⟩

theorem Calm.trans {fs : List StateField} {a b c : State} (h : Calm fs a b) (h' : Calm fs b c) : Calm fs a c :=
  ⟨h.1.trans h'.1, h'.2 ∘ h.2⟩

theorem Calm.mono {fs gs : List StateField} {a b : State} (h : Calm fs a b) (hs : ∀ f ∈ fs, f ∈ gs) : Calm gs a b :=
  ⟨h.1.mono hs, h.2⟩

/-- A change that touches neither memory is calm. -/
theorem Calm.of_only {fs : List StateField} {s u : State} (h : Only fs s u)
    (hm : StateField.mem ∉ fs := by decide) (hh : StateField.host ∉ fs := by decide) : Calm fs s u := by
  refine ⟨h, fun hs => ?_⟩
  have h1 : u.mem = s.mem := h .mem hm
  have h2 : u.host = s.host := h .host hh
  unfold State.MemSound
  rw [h1, h2]
  exact hs

theorem Calm.forEach {α : Type} {fs : List StateField} (f : State → α → State) (h : ∀ s a, Calm fs s (f s a))
    (s : State) (l : List α) : Calm fs s (Machine.forEach s l f) :=
  forEach_keeps (P := fun u => Calm fs s u) f (fun u a hu => hu.trans (h u a)) s l (Calm.refl fs s)

theorem Calm.ite {fs : List StateField} {s a b : State} {c : Prop} [Decidable c] (ha : Calm fs s a) (hb : Calm fs s b) :
    Calm fs s (if c then a else b) := by split <;> assumption

theorem tick_calm (s : State) (t : Nat) : Calm [.now] s (tick s t) := .of_only (tick_only s t)
theorem drawn_calm (s : State) : Calm [.free] s (drawn s) := .of_only (drawn_only s)
theorem modPart_calm (s : State) (p : Nat) (f : Part → Part) : Calm [.parts] s (modPart s p f) := .of_only (modPart_only s p f)
theorem modRing_calm (s : State) (p i : Nat) (f : Ring → Ring) : Calm [.parts] s (modRing s p i f) :=
  .of_only (modRing_only s p i f)
theorem setReg_calm (s : State) (o v : Nat) : Calm [.bar] s (setReg s o v) := .of_only (setReg_only s o v)
theorem ignoreWrite_calm (s : State) (o : Nat) : Calm [.bar] s (ignoreWrite s o) := .of_only (ignoreWrite_only s o)
theorem countEv_calm (s : State) (u x i : Nat) (o : Option Nat) (n : Nat) : Calm [.cnt] s (countEv s u x i o n) :=
  .of_only (countEv_only s u x i o n)
theorem modEntry_calm (s : State) (i : Nat) (f : Entry → Entry) : Calm [.lb] s (modEntry s i f) := .of_only (modEntry_only s i f)
theorem modWork_calm (s : State) (i : Nat) (f : Work → Work) : Calm [.lb] s (modWork s i f) := .of_only (modWork_only s i f)
theorem modPort_calm (s : State) (q : Nat) (f : Port → Port) : Calm [.links] s (modPort s q f) := .of_only (modPort_only s q f)
theorem modDom_calm (s : State) (d : Nat) (f : Dom → Dom) : Calm [.power] s (modDom s d f) := .of_only (modDom_only s d f)

theorem hostWrite_calm (s : State) (a : Nat) (b : List Byte) : Calm [.host] s (hostWrite s a b) :=
  ⟨hostWrite_only s a b, fun h => ⟨Mem.wf_write _ _ _ h.1, h.2⟩⟩

theorem charge_calm (s : State) (p r n : Nat) : Calm [.parts] s (charge s p r n) := by
  unfold charge
  split
  · exact .refl _ _
  · exact modPart_calm ..

/-! ### The Device Status Block (R53-R55) -/

theorem dsbPut_calm (s : State) (o : Nat) (b : List Byte) : Calm [.host] s (dsbPut s o b) := by
  unfold dsbPut
  split
  · exact hostWrite_calm ..
  · exact .refl _ _

theorem dsbFatal_calm (s : State) : Calm [.host] s (dsbFatal s) := dsbPut_calm ..

theorem dsbState_calm (s : State) : Calm [.host] s (dsbState s) := (dsbPut_calm ..).trans (dsbPut_calm ..)

theorem dsbHeart_calm (s : State) : Calm [.host] s (dsbHeart s) := (dsbPut_calm ..).trans (dsbPut_calm ..)

theorem dsbHead_calm (s : State) (p i : Nat) : Calm [.host] s (dsbHead s p i) := dsbPut_calm ..

theorem dsbClear_calm (s : State) : Calm [.host] s (dsbClear s) := by
  refine ⟨?_, fun h => ⟨Mem.wf_filter _ _ h.1, h.2⟩⟩
  intro f hf; cases f <;> first | rfl | simp at hf

theorem dsbHeads_calm (s : State) (l : List (Nat × Nat)) :
    Calm [.host] s (forEach s l fun s pi => dsbHead s pi.1 pi.2) := by
  apply Calm.forEach
  intro s a
  exact dsbHead_calm s a.1 a.2

theorem dsbStart_calm (s : State) : Calm [.host] s (dsbStart s) := by
  unfold dsbStart
  split
  · have h := (((dsbClear_calm s).trans (dsbPut_calm _ 0 (le 4 1))).trans (dsbFatal_calm _)).trans (dsbState_calm _)
    exact (h.trans (dsbHeart_calm _)).trans (dsbHeads_calm _ _)
  · exact .refl _ _

/-! ### Event records (R51, R52) -/

theorem putEvent_calm (s : State) (p ev st res detail : Nat) : Calm [.host, .parts] s (putEvent s p ev st res detail) :=
  ((hostWrite_calm ..).mono (by simp)).trans ((modPart_calm ..).mono (by simp))

theorem flushLost_calm (s : State) (p : Nat) : Calm [.host, .parts, .free] s (flushLost s p) := by
  unfold flushLost
  split
  · exact .refl _ _
  · exact ((putEvent_calm ..).mono (by simp)).trans
      (((drawn_calm _).mono (by simp)).trans (((drawn_calm _).mono (by simp)).trans ((modPart_calm ..).mono (by simp))))

theorem eventTo_calm (s : State) (p ev st res detail : Nat) :
    Calm [.host, .parts, .free, .cnt] s (eventTo s p ev st res detail) := by
  unfold eventTo
  split
  · refine Calm.trans ((flushLost_calm s p).mono (by simp)) ?_
    dsimp only
    split
    · exact (putEvent_calm ..).mono (by simp)
    · exact ((modPart_calm ..).mono (by simp)).trans ((countEv_calm ..).mono (by simp))
  · exact .refl _ _

theorem eventAll_calm (s : State) (ev st res detail : Nat) :
    Calm [.host, .parts, .free, .cnt] s (eventAll s ev st res detail) :=
  Calm.forEach _ (fun _ _ => eventTo_calm ..) _ _

theorem eventFree_calm (s : State) (ev res : Nat) : Calm [.host, .parts, .free, .cnt] s (eventFree s ev res) :=
  ((drawn_calm _).mono (by simp)).trans (((drawn_calm _).mono (by simp)).trans (eventAll_calm ..))

/-! ### Completion records (R47-R50) -/

theorem flushCq_calm (l : List CqRec) (s : State) (p : Nat) : Calm [.host, .parts] s (flushCq s p l) := by
  induction l generalizing s with
  | nil => exact (modPart_calm ..).mono (by simp)
  | cons r rs ih =>
    unfold flushCq
    split
    · exact (modPart_calm ..).mono (by simp)
    · exact ((hostWrite_calm ..).mono (by simp)).trans (ih _)

theorem pushRecord_calm (s : State) (p : Nat) (mk : Bool → List Byte) (held : Option Handle) :
    Calm [.host, .parts] s (pushRecord s p mk held) :=
  ((modPart_calm ..).mono (by simp)).trans (flushCq_calm ..)

theorem closeDesc_calm (s : State) (p sq count : Nat) : Calm [.parts] s (closeDesc s p sq count) := modPart_calm ..

theorem completeDesc_calm (s : State) (p sq count tag stage : Nat) (st : Status) :
    Calm [.host, .parts] s (completeDesc s p sq count tag stage st) :=
  ((closeDesc_calm ..).mono (by simp)).trans (pushRecord_calm ..)

theorem dropTaken_calm (s : State) (p : Nat) (d : Taken) : Calm [.parts] s (dropTaken s p d) := modPart_calm ..

theorem endTaken_calm (s : State) (p : Nat) (d : Taken) (st : Status) : Calm [.host, .parts] s (endTaken s p d st) :=
  completeDesc_calm ..

/-- R49: with no record waiting, one that waits for no acknowledgement goes to its slot of the completion ring at once;
the tail moves on by one. -/
theorem pushRecord_written (s : State) (p : Nat) (mk : Bool → List Byte) (hw : (part s p).cqWait = []) :
    pushRecord s p mk none =
      modPart (hostWrite (modPart s p fun P => { P with cqTail := P.cqTail + 1 })
        (cqBase s p + 32 * ((part s p).cqTail.toNat % cqSize s p))
        (mk (phaseOf (part s p).cqTail.toNat (cqSize s p)))) p fun P => { P with cqWait := [] } := by
  unfold pushRecord
  simp only [part_modPart_self, hw, List.nil_append]
  rfl

/-- R49: a record that waits for the twin's acknowledgement leaves host memory alone and stands last in commit order. -/
theorem pushRecord_held (s : State) (p : Nat) (mk : Bool → List Byte) (h : Handle) (hw : (part s p).cqWait = []) :
    pushRecord s p mk (some h) =
      modPart (modPart s p fun P => { P with cqTail := P.cqTail + 1 }) p fun P => { P with
        cqWait := [⟨(part s p).cqTail.toNat, mk (phaseOf (part s p).cqTail.toNat (cqSize s p)), some h⟩] } := by
  unfold pushRecord
  simp only [part_modPart_self, hw, List.nil_append]
  rfl

/-! ### Messages (R339, R341, R395) -/

theorem enqueue_calm (s : State) (q d pt : Nat) (m : Msg) : Calm [.links] s (enqueue s q d pt m) := modPort_calm ..

theorem sendMsg_calm (s : State) (d pt : Nat) (m : Msg) : Calm [.links] s (sendMsg s d pt m) := by
  unfold sendMsg
  split
  · exact enqueue_calm ..
  · exact .refl _ _

theorem sendTwin_calm (s : State) (pt : Nat) (m : Msg) : Calm [.links] s (sendTwin s pt m) := by
  unfold sendTwin
  split
  · exact enqueue_calm ..
  · split
    · exact enqueue_calm ..
    · exact sendMsg_calm ..

theorem sendTwinAll_calm (s : State) (m : Msg) : Calm [.links] s (sendTwinAll s m) := by
  unfold sendTwinAll
  refine Calm.ite ?_ ?_
  · exact sendMsg_calm ..
  · exact Calm.forEach _ (fun _ _ => enqueue_calm ..) _ _

/-- R341: a message with a route joins the end of its queue at the port chosen, and no other queue changes. -/
theorem sendMsg_queues (s : State) (d pt q : Nat) (m : Msg) (h : pickPort s d m.queue = some q) :
    tget [] (port (sendMsg s d pt m) q).queues m.queue = tget [] (port s q).queues m.queue ++ [(d, pt, m)] := by
  unfold sendMsg
  rw [h]
  simp only [enqueue, port_modPort_self, tget_tmod_self]

/-- R339: with no route entry nothing is sent. -/
theorem sendMsg_no_route (s : State) (d pt : Nat) (m : Msg) (h : routeOf s d = none) : sendMsg s d pt m = s := by
  unfold sendMsg pickPort
  rw [h]
  rfl

/-! ### FAULTED (R56, R389) -/

theorem stopTtft_calm (s : State) (slot t : Nat) : Calm [.lb, .cnt] s (stopTtft s slot t) := by
  unfold stopTtft
  dsimp only
  split
  · exact ((modEntry_calm ..).mono (by simp)).trans ((countEv_calm ..).mono (by simp))
  · exact (modEntry_calm ..).mono (by simp)

theorem settleTtft_calm (s : State) (slot : Nat) : Calm [.lb, .cnt] s (settleTtft s slot) :=
  Calm.ite (stopTtft_calm ..) (.refl _ _)

/-- A request's commit and its record. -/
theorem commitRecord_calm (s : State) (p sq count slot : Nat) (f : Work → Work) (g : Entry → Entry) (mk : Bool → List Byte)
    (held : Option Handle) :
    Calm [.host, .parts, .lb, .cnt] s (pushRecord (closeDesc (modEntry (modWork s slot f) slot g) p sq count) p mk held) :=
  ((modWork_calm ..).mono (by simp)).trans (((modEntry_calm ..).mono (by simp)).trans
    (((closeDesc_calm ..).mono (by simp)).trans ((pushRecord_calm ..).mono (by simp))))

theorem faultReq_calm (s : State) (p : Nat) (d : OpenD) (slot : Nat) (w : Work) :
    Calm [.host, .parts, .lb, .cnt] s (faultReq s p d slot w) :=
  ((settleTtft_calm s slot).mono (by simp)).trans (commitRecord_calm ..)

/-- The completion of a descriptor at the fault: its record, the Logbook entry it belongs to, and a timer miss it counts. -/
theorem faultComplete_calm (s : State) (p : Nat) (d : OpenD) :
    Calm [.host, .parts, .lb, .cnt] s (faultComplete s p d) := by
  unfold faultComplete
  split
  · exact Calm.ite (.refl _ _) (faultReq_calm ..)
  · exact (completeDesc_calm ..).mono (by simp)

theorem dropHeld_calm (s : State) (p : Nat) : Calm [.host, .parts] s (dropHeld s p) := flushCq_calm ..

theorem markFaulted_calm (s : State) (cls idx : Nat) : Calm [.boot, .flash, .pins] s (markFaulted s cls idx) := by
  refine .of_only ?_
  intro f hf; cases f <;> first | rfl | simp at hf

theorem faultDsb_calm (s : State) : Calm [.host] s (faultDsb s) :=
  Calm.ite ((dsbFatal_calm s).trans (dsbState_calm _)) (.refl _ _)

theorem faultTwin_calm (s : State) : Calm [.links] s (faultTwin s) := Calm.ite (sendTwinAll_calm ..) (.refl _ _)

theorem enterFaulted_calm (s : State) (cls idx : Nat) :
    Calm [.boot, .flash, .pins, .host, .parts, .links, .lb, .cnt] s (enterFaulted s cls idx) := by
  unfold enterFaulted
  refine Calm.ite (.refl _ _) ?_
  refine ((markFaulted_calm s cls idx).mono (by simp)).trans ?_
  refine ((faultDsb_calm _).mono (by simp)).trans ?_
  refine ((faultTwin_calm _).mono (by simp)).trans ?_
  exact Calm.forEach _ (fun s p => ((dropHeld_calm s p).mono (by simp)).trans
    (Calm.forEach _ (fun s d => (faultComplete_calm s p d).mono (by simp)) _ _)) _ _

/-! ### Device memory (R247, R294, R297) -/

theorem wroteRange_calm (s : State) (a n : Nat) : Calm [.tiers] s (wroteRange s a n) := by
  refine .of_only ?_
  intro f hf; cases f <;> first | rfl | simp at hf

theorem devWrite_calm (s : State) (a : Nat) (b : List Byte) : Calm [.mem, .tiers, .helm] s (devWrite s a b) := by
  unfold devWrite
  refine Calm.ite ?_ ?_ <;> refine ⟨fun f hf => ?_, fun h => ⟨h.1, Mem.wf_write _ _ _ h.2⟩⟩ <;>
    cases f <;> first | rfl | simp at hf

/-- A write of bytes leaves them where they were written, and every other byte as it was. -/
theorem devWrite_mem (s : State) (a : Nat) (b : List Byte) : (devWrite s a b).mem = s.mem.write a b := by
  unfold devWrite
  dsimp only
  split <;> rfl

theorem devPlace_calm (s : State) (a n : Nat) (d : Mem) : Calm [.mem, .tiers] s (devPlace s a n d) := by
  refine ⟨fun f hf => ?_, fun h => ⟨h.1, Mem.wf_place _ _ _ _ h.2⟩⟩
  cases f <;> first | rfl | simp at hf

theorem devCopy_calm (s : State) (a b n : Nat) : Calm [.mem, .tiers] s (devCopy s a b n) := devPlace_calm ..

theorem devClear_calm (s : State) (a n : Nat) : Calm [.mem, .tiers] s (devClear s a n) := devPlace_calm ..

end Sys2Proof.Machine
end

