-- ==== Sys2Proof/WellFormed.lean ====
section
/-! DEFINITION. Which commands are well-formed: partitions, rings, ports, queues, slots, domains and pins that exist (R30,
R59, R83, R333, R341, R405, R416, R417), word-aligned offsets within BAR0 (R8, R10), and data of the width the spec gives it. A
command that is not well-formed is one the outside world cannot send. -/

namespace Sys2Proof

open Machine (bit)

/-- R60: a Logbook slot. -/
def slotWf (slot : Nat) : Bool := decide (slot < 2 ^ 18)

/-- R59: each field of a handle has its width. -/
def handleWf (h : Handle) : Bool :=
  decide (h.dev < 2 ^ 16) && decide (h.part < 2 ^ 4) && decide (h.slot < 2 ^ 18) && decide (h.gen < 2 ^ 26)

/-- An FP32 code. -/
def code32 (c : Nat) : Bool := decide (c < 2 ^ 32)


/-- R31, R37: a fetched slot: ring, count, 64 bytes. -/
def descWf (d : DescBytes) : Bool := decide (d.sq < 16) && decide (d.count < 2 ^ 32) && d.bytes.length == 64

/-- A host read of `n` bytes. -/
def readWf (n : Nat) (r : HostRead) : Bool :=
  match r with
  | none => true
  | some b => b.length == n

/-- R32: a doorbell block is 128 bytes. -/
def doorbellWf (b : HostRead) : Bool := readWf 128 b

/-- R43: a piece of an image. -/
def pieceWf (r : HostRead) : Bool :=
  match r with
  | none => true
  | some b => decide (b.length < 2 ^ 32)

/-- The well-formed commands. -/
def Instr.wf : Instr → Bool
  | .doorbellRead p _ blk descs => decide (p < 12) && doorbellWf blk && descs.all descWf
  | .sqEnable p i v _ blk => decide (p < 12) && decide (i < 16) && bit v.toNat 8 && doorbellWf blk
  | .sqDisable p i v => decide (p < 12) && decide (i < 16) && !bit v.toNat 8
  | .admission p _ => decide (p < 12)
  | .runStream p _ _ => decide (p < 12)
  | .loadModel p data => decide (p < 12) && pieceWf data
  | .loadVariant p data => decide (p < 12) && pieceWf data
  | .loadIndexSection p data => decide (p < 12) && pieceWf data
  | .loadArcObject p data => decide (p < 12) && pieceWf data
  | .loadGrammar p data => decide (p < 12) && pieceWf data
  | .loadVocabulary p data => decide (p < 12) && pieceWf data
  | .loadTemplate p data => decide (p < 12) && pieceWf data
  | .loadFeatureObject p data => decide (p < 12) && pieceWf data
  | .loadPassageBatch p data => decide (p < 12) && pieceWf data
  | .loadContext p data => decide (p < 12) && pieceWf data
  | .abort p _ => decide (p < 12)
  | .evict p => decide (p < 12)
  | .objectMemoryFree kind id => decide (1 ≤ kind) && decide (kind ≤ 10) && decide (id < 65536)
  | .setProfile p rec => decide (p < 12) && readWf 256 rec
  | .nop p => decide (p < 12)
  | .completionRecordWritten slot => slotWf slot
  | .dsbHeartbeat _ _ => true
  | .abortTimeout slot _ => slotWf slot
  | .releaseReport h dev => handleWf h && decide (dev < 65536)
  | .abortMessage h => handleWf h
  | .predWindow _ => true
  | .pfShareAdjust _ => true
  | .freeBlockReport dev _ _ _ => decide (dev < 65536)
  | .arrayAcceptance _ fresh => fresh.all fun r => r.hs.all (fun x => handleWf x.1) && r.steps.all fun b => b.length == 64
  | .contextSwap _ _ => true
  | .operationComplete _ _ _ _ => true
  | .blockLineRetirement _ => true
  | .arrayRampDown _ gated => decide (gated ≤ 11)
  | .arcApply _ => true
  | .arcSoftmax _ => true
  | .arcSoftmaxPart _ => true
  | .arcRowscale _ => true
  | .arcRmsnorm _ => true
  | .sextantSelect _ => true
  | .sextantCompact _ => true
  | .featureUpdate _ _ => true
  | .waypointWait _ _ => true
  | .waypointSignal _ _ => true
  | .moveCopy _ => true
  | .moveTranspose _ => true
  | .remoteWaypointSignal src part _ _ idx inc _ => decide (src < 65536) && decide (part < 12) && decide (idx < 65536) && decide (inc < 65536)
  | .waypointSignalAck _ _ _ => true
  | .waypointWaitTimeout _ => true
  | .regulatorRefill _ => true
  | .partitionEnable p v _ => decide (p < 12) && bit v.toNat 0
  | .partitionDisable p v => decide (p < 12) && !bit v.toNat 0
  | .partitionDrainEnd p _ => decide (p < 12)
  | .waypointRangeWrite p _ _ => decide (p < 12)
  | .queryTokenisation slot _ _ => slotWf slot
  | .embedding slot _ vec => slotWf slot && vec.all code32
  | .queryFanOut _ _ => true
  | .tableBatchIssue _ part _ => decide (part < 12)
  | .distanceTableWrite h => handleWf h
  | .walkStart h _ => handleWf h
  | .walkExpansion h _ _ => handleWf h
  | .neighbourListArrival h _ _ => handleWf h
  | .prefetchLineAgeing _ => true
  | .fullVectorArrival h _ _ _ => handleWf h
  | .sketchScan _ part _ _ => decide (part < 12)
  | .shardListReceive h _ _ _ _ _ => handleWf h
  | .mergeDeadline slot _ => slotWf slot
  | .passageFetch home h _ _ _ _ => decide (home < 65536) && handleWf h
  | .passageTextReceive slot _ _ _ _ _ _ => slotWf slot
  | .readDeadlineRemoval _ => true
  | .passageTokenisation slot _ => slotWf slot
  | .crossEncoderRerank slot _ scores => slotWf slot && scores.all code32
  | .featureLookup home h _ _ _ => decide (home < 65536) && handleWf h
  | .featurePartialReceive slot _ _ => slotWf slot
  | .featureDeadline slot _ => slotWf slot
  | .packing slot _ => slotWf slot
  | .prefixLookup slot _ => slotWf slot
  | .prefillAdmission h _ _ => handleWf h
  | .partialRowsReceive h _ _ vals => handleWf h && vals.all code32
  | .prefillDone h _ logits => handleWf h && logits.all code32
  | .reshardSliceReceive h _ _ _ _ => handleWf h
  | .reshardAckReceive h => handleWf h
  | .decodeStep _ _ _ => true
  | .maskBuilt h _ => handleWf h
  | .tokenCommit slot _ _ _ => slotWf slot
  | .outputWriteDone slot _ => slotWf slot
  | .kvSpill _ => true
  | .prefixReadBack _ _ _ _ => true
  | .prefixAgeing _ => true
  | .variantHbmCopy _ => true
  | .updateRecordReceive _ => true
  | .updateEpochEnd _ => true
  | .epochApply _ _ => true
  | .rowCacheAgeing _ => true
  | .vocabularyCacheAgeing _ => true
  | .scrubAccess tier _ _ _ _ => decide (tier < 4)
  | .unitCopy tier _ _ _ => decide (tier < 4)
  | .bankRetirement _ _ _ => true
  | .boardWriteBack _ _ _ => true
  | .errorWindowBoundary hours _ => hours == 0 || hours == 1 || hours == 24
  | .flashCodewordRead _ _ _ _ _ _ _ _ => true
  | .blockSetVerify _ _ _ _ _ => true
  | .passageBatchCommit _ _ => true
  | .logMerge _ _ => true
  | .blockSetRewrite _ _ _ => true
  | .patrolRead _ _ _ _ _ _ _ => true
  | .frameReceiveData port _ _ _ _ => decide (port < 24)
  | .frameReceiveAck port _ _ => decide (port < 24)
  | .frameReceiveNak port _ _ => decide (port < 24)
  | .ackSend dev q _ => decide (dev < 65536) && decide (q < 8)
  | .ackTimeout dev q _ => decide (dev < 65536) && decide (q < 8)
  | .frameTransmit port _ _ _ => decide (port < 24)
  | .calendarSlot port _ => decide (port < 24)
  | .gateEntryBoundary port _ => decide (port < 24)
  | .listSwitchNow port _ => decide (port < 24)
  | .listSwitchAtTime port _ => decide (port < 24)
  | .trainingAttempt port _ _ => decide (port < 24)
  | .portEnable port _ _ => decide (port < 24)
  | .ptpMessage port _ _ _ => decide (port < 24)
  | .holdoverEntry _ => true
  | .freeRunEntry _ => true
  | .ppsInEdge pin _ => decide (pin < 8)
  | .deviceReset _ => true
  | .deviceStart _ _ => true
  | .configurationReady => true
  | .logicBist _ => true
  | .interfaceTraining _ _ _ chans _ => decide (chans.length ≤ 16) && chans.all fun c => decide (c.length ≤ 8)
  | .memoryTest _ _ _ _ => true
  | .defectMapBuild _ _ => true
  | .setupDone _ => true
  | .etrRead _ _ => true
  | .topoWaitExpiry _ => true
  | .bistStart _ => true
  | .lcRequest _ _ => true
  | .watchdogStrike _ => true
  | .watchdogExpiry _ => true
  | .twinHeartbeatSend _ => true
  | .twinHeartbeatReceive src _ => decide (src < 65536)
  | .heartbeatMiss _ => true
  | .twinDsbRead _ _ => true
  | .failover src _ => decide (src < 65536)
  | .takeoverSlotRead slot _ _ => slotWf slot
  | .mirrorRecord src _ => decide (src < 65536)
  | .mirrorAck _ _ _ => true
  | .domainDisable d _ => decide (d < 96)
  | .domainEnable d => decide (d < 96)
  | .domainDrainDone d _ => decide (d < 96)
  | .domainIsolationDone d _ => decide (d < 96)
  | .domainPowerUpDone d _ => decide (d < 96)
  | .sidebandInputChange pin _ _ => decide (pin < 4)
  | .sidebandUnsettled pin _ => decide (pin < 4)
  | .throttleStuck _ => true
  | .thermtrip _ => true
  | .powerLimitTick _ _ => true
  | .temperatureCrossing _ => true
  | .refclkLoss clk _ _ => decide (clk < 3)
  | .pinFunctionSwitch k _ _ => decide (k < 8)
  | .pinSwitchEnd k => decide (k < 8)
  | .counterSelect i _ => decide (i < 256)
  | .snap _ => true
  | .periodicSnapshot _ => true
  | .ntTimeLoRead _ => true
  | .psDeadBytesLoRead => true
  | .ntStatusRead => true
  | .misalignedAccess offset size _ => decide (offset < 2 ^ 26) && !(size == 4 && offset % 4 == 0)
  | .registerWrite offset _ _ => decide (offset < 2 ^ 26) && decide (offset % 4 = 0)
  | .mctpSetEndpointId eid => decide (eid < 256)
  | .mctpGetEndpointId => true
  | .mctpOtherMessage => true
  | .jtagIdcode => true
  | .jtagBypass => true
  | .jtagSamplePreload => true
  | .jtagOtherInstruction code => decide (5 ≤ code)
  | .laneLockLoss port _ _ => decide (port < 24)
  | .programOrEraseDone _ _ _ _ _ => true
  | .stackTemperatureReport _ _ _ => true
  | .configurationRequest _ => true
  | .syncInterval _ => true
  | .ppsOut _ => true

end Sys2Proof
end

