-- ==== Sys2Proof/Tests/Slice0.lean ====
section
/-! SUPPORT. Small tests, one step each, and for every statement with hypotheses a state and operands that meet them
together. A byte string is written as one number, low byte first. -/

namespace Sys2Proof.Tests

open Sys2Proof Sys2Proof.Machine

set_option Elab.async false

/-- A doorbell block. -/
def doorBlk (tails : List Nat) (cq eq : Nat) : List Byte :=
  (tails ++ List.replicate (16 - tails.length) 0).flatMap (le 4) ++ le 4 cq ++ le 4 eq ++ List.replicate 56 0

/-- A command answers a next state that passes a test. -/
def nexts (o : Host.Outcome State Fault Refusal) (p : State → Bool := fun _ => true) : Bool :=
  match o with | .next u => p u | _ => false

/-- A READY device with every domain ON, and these set-up registers. -/
def ready (regs : List (Nat × Nat)) : State :=
  forEach { State.reset with
    boot := { State.reset.boot with st := .ready, stage := 4, fw := true, setupDone := true, mapped := true, stage4At := some 0 }
    host := { State.reset.host with cfgReady := true }
    power := { State.reset.power with doms := (List.range 96).map fun d => (d, (⟨true, .on, false⟩ : Dom)) } }
    regs fun s x => setReg s x.1 x.2

/-- Partition 0 enabled: its completion ring of 256 at 0x10000, its event ring of 64 at 0x20000. -/
def p0 : List (Nat × Nat) := [(rPart 0 0, 1), (rPart 0 0x110, 0x10000), (rPart 0 0x120, 0x20000), (rPart 0 0x204, 16)]

/-- A READY device with partition 0 READY. -/
def dev0 (regs : List (Nat × Nat)) : State := modPart (ready (p0 ++ regs)) 0 fun P => { P with st := .ready }

/-- A descriptor taken from ring 1 of partition 0 of a state. -/
def taking (s : State) (b : List Byte) : State :=
  modPart s 0 fun P => { P with taken := [⟨1, 5, b, 0, 0⟩], open_ := [⟨1, 5, 7⟩] }

/-- That descriptor. -/
def tk (b : List Byte) : Taken := ⟨1, 5, b, 0, 0⟩

/-- A small embedding model, a generator, and an index header, as they stand when resident. -/
def embModel : ModelObj := ⟨0, 32, 0, 0, 0, 0, 0, 0, [(32, 32, 8)], [(0, 0)]⟩
def ceModel : ModelObj := ⟨1, 0, 0, 0, 0, 0, 0, 0, [(32, 32, 8)], [(1, 0), (2, 0)]⟩
def genModel : ModelObj := ⟨2, 0, 0, 1, 1, 16, 8, 4096, [(32, 32, 8)], [(3, 1), (4, 0)]⟩
def header : IndexHeader := ⟨4, 32, 0, 0, 0, 8, 0, 8, 256, 0, 0, 21, 0, 22, 23, 0, 0, 0x8001, []⟩
/-- A vocabulary of 300 tokens: byte b is token b, "ab" is 256, "abc" is 257, 299 ends a text. -/
def vocab : VocabObj :=
  { size := 300, eos := 299, pad := 298, brk := List.replicate 32 0, ranges := [(0, 0)], byteToks := List.range 256
    merges := [(97, 98, 256), (256, 99, 257)]
    texts := ((List.range 256).map fun n => [BitVec.ofNat 8 n]) ++ [[97, 98], [97, 98, 99]] ++ List.replicate 42 [] }
def obj (kind id uid : Nat) (b : ObjBody) : Obj := ⟨kind, id, 0, 64, uid, false, false, b⟩
/-- Section `sec` of index 9. -/
def sect (id sec uid : Nat) : Obj := obj 3 id uid (.index ⟨sec, 9, 4, 0, none, 0, [], []⟩)
def withObjs (s : State) (l : List Obj) : State := { s with obj := { s.obj with objs := l, nextUid := 40 } }
/-- Embedding model 1, cross-encoder 2, generator 3, index 9 with its sections 21 to 23, vocabulary 6. -/
def library : List Obj :=
  [obj 1 1 1 (.model embModel), obj 1 2 2 (.model ceModel), obj 1 3 3 (.model genModel),
   obj 3 9 4 (.index ⟨1, 9, 4, 0, some header, 0, [], []⟩), sect 21 3 5, sect 22 5 6, sect 23 6 7, obj 6 6 8 (.vocab vocab)]

/-- A profile record for the library. -/
def profRec : List Byte := (le 256 0x9150f6c5000000000000000000000000000000000000000000000000000000000000000000000000000000000000000000000000000000000000000000000000000000000000000000000000000000000000000000000000000000640001ffff0000000000000000000003e8040000080000000100400100ffffffff000000060000000000400064000000400008ffff000000000000000000000000000003e80000000000000000000000000000000a0000006400080004004000100008000900000000000000000000000000000000000000000000000000000000000000000000000000000000000000000000000000000000000000000000000100010005)

/-- What is staged of an object once a piece is in. -/
def stagedWith (kind id tier off : Nat) (b : List Byte) : Load :=
  ⟨kind, id, 0, tier, 1, [(off, off + b.length)], Mem.write [] off b⟩

/-- The image of a load fits its tier, and it and what goes with it have places. -/
def placed (s : State) (l : Load) (size : Nat) (c : Checked) : Bool :=
  decide (tierUsed s l.tier + size + besideBytes c.body ≤ tierRoom s l.tier)
    && (freePlace s l.tier (size + besideBytes c.body)).isSome
    && (match placeImage s l size c with | some s1 => (placeBuildSet s1 c).isSome | none => false)

/-- The image of a vocabulary of 256 byte tokens. -/
def vocabImage : List Byte := (le 2384 0x90f3e62afffefdfcfbfaf9f8f7f6f5f4f3f2f1f0efeeedecebeae9e8e7e6e5e4e3e2e1e0dfdedddcdbdad9d8d7d6d5d4d3d2d1d0cfcecdcccbcac9c8c7c6c5c4c3c2c1c0bfbebdbcbbbab9b8b7b6b5b4b3b2b1b0afaeadacabaaa9a8a7a6a5a4a3a2a1a09f9e9d9c9b9a999897969594939291908f8e8d8c8b8a898887868584838281807f7e7d7c7b7a797877767574737271706f6e6d6c6b6a696867666564636261605f5e5d5c5b5a595857565554535251504f4e4d4c4b4a494847464544434241403f3e3d3c3b3a393837363534333231302f2e2d2c2b2a292827262524232221201f1e1d1c1b1a191817161514131211100f0e0d0c0b0a0908070605040302010000000100000000ff000000fe000000fd000000fc000000fb000000fa000000f9000000f8000000f7000000f6000000f5000000f4000000f3000000f2000000f1000000f0000000ef000000ee000000ed000000ec000000eb000000ea000000e9000000e8000000e7000000e6000000e5000000e4000000e3000000e2000000e1000000e0000000df000000de000000dd000000dc000000db000000da000000d9000000d8000000d7000000d6000000d5000000d4000000d3000000d2000000d1000000d0000000cf000000ce000000cd000000cc000000cb000000ca000000c9000000c8000000c7000000c6000000c5000000c4000000c3000000c2000000c1000000c0000000bf000000be000000bd000000bc000000bb000000ba000000b9000000b8000000b7000000b6000000b5000000b4000000b3000000b2000000b1000000b0000000af000000ae000000ad000000ac000000ab000000aa000000a9000000a8000000a7000000a6000000a5000000a4000000a3000000a2000000a1000000a00000009f0000009e0000009d0000009c0000009b0000009a000000990000009800000097000000960000009500000094000000930000009200000091000000900000008f0000008e0000008d0000008c0000008b0000008a000000890000008800000087000000860000008500000084000000830000008200000081000000800000007f0000007e0000007d0000007c0000007b0000007a000000790000007800000077000000760000007500000074000000730000007200000071000000700000006f0000006e0000006d0000006c0000006b0000006a000000690000006800000067000000660000006500000064000000630000006200000061000000600000005f0000005e0000005d0000005c0000005b0000005a000000590000005800000057000000560000005500000054000000530000005200000051000000500000004f0000004e0000004d0000004c0000004b0000004a000000490000004800000047000000460000004500000044000000430000004200000041000000400000003f0000003e0000003d0000003c0000003b0000003a000000390000003800000037000000360000003500000034000000330000003200000031000000300000002f0000002e0000002d0000002c0000002b0000002a000000290000002800000027000000260000002500000024000000230000002200000021000000200000001f0000001e0000001d0000001c0000001b0000001a000000190000001800000017000000160000001500000014000000130000001200000011000000100000000f0000000e0000000d0000000c0000000b0000000a00000009000000080000000700000006000000050000000400000003000000020000000100000000000000ff000000fe000000fd000000fc000000fb000000fa000000f9000000f8000000f7000000f6000000f5000000f4000000f3000000f2000000f1000000f0000000ef000000ee000000ed000000ec000000eb000000ea000000e9000000e8000000e7000000e6000000e5000000e4000000e3000000e2000000e1000000e0000000df000000de000000dd000000dc000000db000000da000000d9000000d8000000d7000000d6000000d5000000d4000000d3000000d2000000d1000000d0000000cf000000ce000000cd000000cc000000cb000000ca000000c9000000c8000000c7000000c6000000c5000000c4000000c3000000c2000000c1000000c0000000bf000000be000000bd000000bc000000bb000000ba000000b9000000b8000000b7000000b6000000b5000000b4000000b3000000b2000000b1000000b0000000af000000ae000000ad000000ac000000ab000000aa000000a9000000a8000000a7000000a6000000a5000000a4000000a3000000a2000000a1000000a00000009f0000009e0000009d0000009c0000009b0000009a000000990000009800000097000000960000009500000094000000930000009200000091000000900000008f0000008e0000008d0000008c0000008b0000008a000000890000008800000087000000860000008500000084000000830000008200000081000000800000007f0000007e0000007d0000007c0000007b0000007a000000790000007800000077000000760000007500000074000000730000007200000071000000700000006f0000006e0000006d0000006c0000006b0000006a000000690000006800000067000000660000006500000064000000630000006200000061000000600000005f0000005e0000005d0000005c0000005b0000005a000000590000005800000057000000560000005500000054000000530000005200000051000000500000004f0000004e0000004d0000004c0000004b0000004a000000490000004800000047000000460000004500000044000000430000004200000041000000400000003f0000003e0000003d0000003c0000003b0000003a000000390000003800000037000000360000003500000034000000330000003200000031000000300000002f0000002e0000002d0000002c0000002b0000002a000000290000002800000027000000260000002500000024000000230000002200000021000000200000001f0000001e0000001d0000001c0000001b0000001a000000190000001800000017000000160000001500000014000000130000001200000011000000100000000f0000000e0000000d0000000c0000000b0000000a000000090000000800000007000000060000000500000004000000030000000200000001000000000000000000000000000000000000000000000000000000000000000000000000000000000000000000000000000000000000000a0000010000000001000000000000010000000101)

/-- A template of vocabulary 6, a pair template, and what a request of this library refers to. -/
def tmpl1 : TemplateObj := ⟨6, [(1, []), (2, [])], [65], [66], [67], [68], [69]⟩
def grammar1 : GrammarObj :=
  { vocabId := 6, vocabSize := 300, start := 0, terminator := none, states := [⟨0, 0, 0, 0, 0⟩]
    bitmaps := [[0xFF, 0] ++ List.replicate 62 0], cds := [], trans := [] }
def allObjs : List Obj :=
  library ++ [obj 7 1 9 (.template tmpl1), obj 5 4 10 (.grammar grammar1), obj 2 8 11 (.variant ⟨3, 3, [], []⟩)]
def refs1 : List Nat := [1, 4, 5, 6, 7, 8, 2, 9, 8, 9, 3]

/-- A profile of those objects, and request descriptors of it: GENERATE, SEARCH. -/
def prof1 : Profile := profileOf (le 256 0xff76ecc300000000000000000000000000000000000000000000000000000000000000000000000000000000000000000000000000000000000000000000000000000000000000000000000000000000000000000000000000000064000100030000000000000000000003e8040000080000000100400100000100010000000600000000004000640000004000080002000000000000000000000000000003e80000000000000000000000000000000a0000006400080004004000100008000900000000000000000000000000000000000000000000000000000000000000000000000000000000000000000000000000000000000000000000000100010005)
def descGen : List Byte := (le 64 0x95b9dae7000000000000000000001000000000000003000000000000000000000000004000800004ffff00000005000300000000000400000000000702030001)
def descSearch : List Byte := (le 64 0x4fcbcf0a000000000000000000001000000000000003000000000000000000000000004000800004ffff00000005000300000000000400000000000702000001)
def descRerank : List Byte := (le 64 0xfabe11fe000000000000000000001000000000000003000000000000000000000000004000800004ffff00000005000300000000000400000000000702010001)
def descPack : List Byte := (le 64 0x20cc0413000000000000000000001000000000000003000000000000000000000000004000800004ffff00000005000300000000000400000000000702020001)
def descGrammar : List Byte := (le 64 0xb1aa25e2000000000000000000001000000000000003000000000000000000000000004000800004000400000005000300000000000400000000000702030001)
/-- Device 1, generator slot 0 for model 3 with 64 blocks, quota 8, with everything resident and profile 5 defined. -/
def lab (regs : List (Nat × Nat)) : State :=
  let s := withObjs (dev0 ([(rDEVNO, 1), (rPart 0 0x130, 8), (rMem 0x40, 0x10003), (rMem 0x44, 64), (rMem 0x48, 16),
    (rMem 0xC0, 64)] ++ regs)) allObjs
  { s with obj := { s.obj with profiles := [(5, some prof1)] } }
def h0 : Handle := ⟨1, 0, 0, 1⟩
def upPort : Port := { Port.reset with st := .up, width := 4, lanes := [0, 1, 2, 3], en := true }
/-- A request of slot 0, and its entry. -/
def work0 (d : List Byte) : Work := newWork h0 ⟨2, false, 1⟩ ⟨1, 5, d, 0, 0⟩ refs1 prof1
def entry0 (st : ReqSt) (stage : Nat) : Entry :=
  { Entry.freeEntry with
    st := st, stage := stage, cls := 2, origCls := 2, lastStage := 3, sq := 1, tag := 7, kvDev := 1, profileId := 5
    ttftUs := 0xFFFFFFFF, outAddr := 0x30000, outLen := 4096 }
def withReq (s : State) (e : Entry) (w : Work) : State :=
  { s with lb := { s.lb with entries := tput s.lb.entries w.handle.slot e, work := s.lb.work ++ [(w.handle.slot, w)], fresh := 1 } }

def bytes_nop : List Byte := le 64 0x82c6fe65000000000000000000000000000000000000000000000000000000000000000000000000000000000000000000000000000000000000000700040004
def at_nop : State := (taking (dev0 []) bytes_nop)
def bytes_nop_malformed : List Byte := le 64 0xea45e50d000000000000000000000000000000000000000000000000000000000000000000000000000000000000000000000000000000000000000700040204
def at_nop_malformed : State := (taking (dev0 []) bytes_nop_malformed)
def bytes_evict : List Byte := le 64 0x51b5cd87000000000000000000000000000000000000000000000000000000000000000000000000000000000000000000000000000200010000000700020004
def at_evict : State := (taking (withObjs (dev0 []) library) bytes_evict)
def bytes_evict_malformed : List Byte := le 64 0x3936d6ef000000000000000000000000000000000000000000000000000000000000000000000000000000000000000000000000000200010000000700020204
def at_evict_malformed : State := (taking (withObjs (dev0 []) library) bytes_evict_malformed)
def bytes_evict_absent : List Byte := le 64 0x5aee85fd000000000000000000000000000000000000000000000000000000000000000000000000000000000000000000000000004d00010000000700020004
def at_evict_absent : State := (taking (withObjs (dev0 []) library) bytes_evict_absent)
def bytes_set_profile : List Byte := le 64 0x86bb7dba000000000000000000000000000000000000000000000000000000000000000000000000000000000000000000000000000000000000000700030004
def at_set_profile : State := (taking (withObjs (dev0 []) library) bytes_set_profile)
def bytes_set_profile_bad_record_1 : List Byte := le 256 0xa93ea125000000000000000000000000000000000000000000000000000000000000000000000000000000000000000000000000000000000000000000000000000000000000000000000000000000000000000000000000000000640001ffff0000000000000000000003e8040000080000000100400100ffffffff000000060000000000400064000000400008ffff000000000000000000000000000003e80000000000000000000000000000000a0000006400080004004000010008000900000000000000000000000000000000000000000000000000000000000000000000000000000000000000000000000000000000000000000000000100010005
def bytes_set_profile_malformed : List Byte := le 64 0xee3866d2000000000000000000000000000000000000000000000000000000000000000000000000000000000000000000000000000000000000000700030204
def at_set_profile_malformed : State := (taking (withObjs (dev0 []) library) bytes_set_profile_malformed)
def bytes_piece_loadModel : List Byte := le 64 0x5da8bac2000000000000000000000000000000000000000000000000000000000000000000000000000000320000000400000000000050000000000700010003
def at_piece_loadModel : State := (taking (dev0 []) bytes_piece_loadModel)
def bytes_piece_loadVariant : List Byte := le 64 0x87daaf2f000000000000000000000000000000000000000000000000000000000000000000000000000000320000000400000000000050000000000700020003
def at_piece_loadVariant : State := (taking (dev0 []) bytes_piece_loadVariant)
def bytes_piece_loadIndexSection : List Byte := le 64 0x32af71db000000000000000000000000000000000000000000000000000000000000000000000000000000320000000400000000000050000000000700030003
def at_piece_loadIndexSection : State := (taking (dev0 []) bytes_piece_loadIndexSection)
def bytes_piece_loadArcObject : List Byte := le 64 0x36d2f204000000000000000000000000000000000000000000000000000000000000000000000000000000320000000400000000000050000000000700040003
def at_piece_loadArcObject : State := (taking (dev0 []) bytes_piece_loadArcObject)
def bytes_piece_loadGrammar : List Byte := le 64 0x83a72cf0000000000000000000000000000000000000000000000000000000000000000000000000000000320000000400000000000050000000000700050003
def at_piece_loadGrammar : State := (taking (dev0 []) bytes_piece_loadGrammar)
def bytes_piece_loadVocabulary : List Byte := le 64 0x59d5391d000000000000000000000000000000000000000000000000000000000000000000000000000000320000000400000000000050000000000700060003
def at_piece_loadVocabulary : State := (taking (dev0 []) bytes_piece_loadVocabulary)
def bytes_piece_loadTemplate : List Byte := le 64 0xeca0e7e9000000000000000000000000000000000000000000000000000000000000000000000000000000320000000400000000000050000000000700070003
def at_piece_loadTemplate : State := (taking (dev0 []) bytes_piece_loadTemplate)
def bytes_piece_loadFeatureObject : List Byte := le 64 0x512e3ea3000000000000000000000000000000000000000000000000000000000000000000000000000000320000000400000000000050000000000700080003
def at_piece_loadFeatureObject : State := (taking (dev0 []) bytes_piece_loadFeatureObject)
def bytes_piece_loadPassageBatch : List Byte := le 64 0x6344a017000000000000000000000000000000000000000000000000000000000000000000000000000200320000000400000000000050000000000700090003
def at_piece_loadPassageBatch : State := (taking (dev0 []) bytes_piece_loadPassageBatch)
def bytes_piece_loadContext : List Byte := le 64 0x3e29f5ba0000000000000000000000000000000000000000000000000000000000000000000000000000003200000004000000000000500000000007000a0003
def at_piece_loadContext : State := (taking (dev0 []) bytes_piece_loadContext)
def bytes_last_loadModel : List Byte := le 64 0x6e8d27b5000000000000000000000000000000000000000000000000000000000000000000000000000000320000006c00000000000050000000000700010203
def bytes_last_loadModel_1 : List Byte := le 108 0x57ddd3710000000000000000000000000000000000000000000000080000000100000001000000000000000000000000000000000000000000000000000000000000005800000000000000400000000000000000000000000000000000000001000000010000002000000101
def at_last_loadModel : State := (taking (withObjs (dev0 []) library) bytes_last_loadModel)
def bytes_last_loadVariant : List Byte := le 64 0xe38dbec3000000000000000000000000000000000000000000000000000000000000000000000000000000320000047400000000000050000000000700020203
def bytes_last_loadVariant_1 : List Byte := le 1140 0x43bf06fe0000000000000000000000000000000000000000000000000000000000000000000000000000000000000000000000000000000000000000000000000000000000000000000000000000000000000000000000000000000000000000000000000000000000000000000000000000000000000000000000000000000000000000000000000000000000000000000000000000000000000000000000000000000000000000000000000000000000000000000000000000000000000000000000000000000000000000000000000000000000000000000000000000000000000000000000000000000000000000000000000000000000000000000000000000000000000000000000000000000000000000000000000000000000000000000000000000000000000000000000000000000000000000000000000000000000000000000000000000000000000000000000000000000000000000000000000000000000000000000000000000000000000000000000000000000000000000000000000000000000000000000000000000000000000000000000000000000000000000000000000000000000000000000000000000000000000000000000000000000000000000000000000000000000000000000000000000000000000000000000000000000000000000000000000000000000000000000000000000000000000000000000000000000000000000000000000000000000000000000000000000000000000000000000000000000000000000000000000000000000000000000000000000000000000000000000000000000000000000000000000000000000000000000000000000000000000000000000000000000000000000000000000000000000000000000000000000000000000000000000000000000000000000000000000000000000000000000000000000000000000000000000000000000000000000000000000000000000000000000000000000000000000000000000000000000000000000000000000000000000000000000000000000000000000000000000000000000000000000000000000000000000000000000000000000000000000000000000000000000000000000000000000000000000000000000000000000000000000000000000000000000000000000000000000000000000000000000000000000000000000000000000000000000000000000000000000000000000000000000000000000000000000000000000000000000000000000000000000000000000000000000000000000000000000000000000000000000000000000000000000000000000000000000000000000000000000000000000000000000000000000000000000000000000000000000000000000000000000000000000000000000000000000000000000000000000000000000000000000000000000000000000000000000000000000000000000000000000000000000000000000000000000000000000000000000000000000000000000000000000000000000000000000000000000000000000010000000100010101
def at_last_loadVariant : State := (taking (withObjs (dev0 []) library) bytes_last_loadVariant)
def bytes_last_loadIndexSection : List Byte := le 64 0xbb695be6000000000000000000000000000000000000000000000000000000000000000000000000000000320000004000000000000050000000000700030203
def bytes_last_loadIndexSection_1 : List Byte := le 64 0xeec60f44000000000000800100000000000000000017001600000015000000000100080000080000000000200000000000000004000000000000000000320101
def at_last_loadIndexSection : State := (taking (withObjs (dev0 []) library) bytes_last_loadIndexSection)
def bytes_last_loadArcObject : List Byte := le 64 0x370184df000000000000000000000000000000000000000000000000000000000000000000000000000000320000004c00000000000050000000000700040203
def bytes_last_loadArcObject_1 : List Byte := le 76 0x78aba0d4000000000000000000000000000000000000000000000000000000000000000000000000000000000000000000000000000000000000000000000000000000000000000000010102
def at_last_loadArcObject : State := (taking (withObjs (dev0 []) library) bytes_last_loadArcObject)
def bytes_last_loadGrammar : List Byte := le 64 0x77e4a5dc00000000000000000000000000000000000000000000000000000000000000000000000000000032000000e400000000000050000000000700050203
def bytes_last_loadGrammar_1 : List Byte := le 228 0x7bfc43fe000000000000000000000000ffffffff000000000000000000000000ffffffff000000000000000000000000ffffffff000000000000000000000000ffffffff0000000000000000000000000000000000000000000000000000000000000000000000000000000000000000000000000000000000000000000000000000000000000000000000000000000000000000000000000000000000000000000000000000000000000000000000000000000000000000000000000000000000000040ffffffff00000001000000000000000100000000000000010000012c00060101
def at_last_loadGrammar : State := (taking (withObjs (dev0 []) library) bytes_last_loadGrammar)
def bytes_last_loadVocabulary : List Byte := le 64 0xde5bca2b000000000000000000000000000000000000000000000000000000000000000000000000000000320000095000000000000050000000000700060203
def at_last_loadVocabulary : State := (taking (withObjs (dev0 []) library) bytes_last_loadVocabulary)
def bytes_last_loadTemplate : List Byte := le 64 0xe1ce2bd9000000000000000000000000000000000000000000000000000000000000000000000000000000320000004400000000000050000000000700070203
def bytes_last_loadTemplate_1 : List Byte := le 68 0xd9009ff400000000000000000000000000000000000000000000000000000000000000000000000000000000000000000000000000000000000000000000000000060101
def at_last_loadTemplate : State := (taking (withObjs (dev0 []) library) bytes_last_loadTemplate)
def bytes_last_loadFeatureObject : List Byte := le 64 0x2c6beaf6000000000000000000000000000000000000000000000000000000000000000000000000000000320000001c00000000000050000000000700080203
def bytes_last_loadFeatureObject_1 : List Byte := le 28 0x10bab37000000010000000000000000000000000000000000010102
def at_last_loadFeatureObject : State := (taking (withObjs (dev0 []) library) bytes_last_loadFeatureObject)
def bytes_last_loadContext : List Byte := le 64 0x3347398a0000000000000000000000000000000000000000000000000000000000000000000000000000003200000044000000000000500000000007000a0203
def bytes_last_loadContext_1 : List Byte := le 68 0xf320a62000000000000000000000000000000000000000000000000000000000000000000000000000000000000000000000000000000000000000000000000000000101
def at_last_loadContext : State := (taking (withObjs (dev0 []) library) bytes_last_loadContext)
/-- Nop: AdminDescriptorsTakeEffect. -/
theorem test_nop :
    (isReady at_nop = true) ∧
    ((part at_nop 0).cqWait = []) ∧
    (nextTaken at_nop 0 (isAdmin 4) = some (tk bytes_nop)) ∧
    (nexts (exec (.nop 0) at_nop) = true) := by decide +kernel

theorem test_nop_malformed :
    (isReady at_nop_malformed = true) ∧
    ((part at_nop_malformed 0).cqWait = []) ∧
    (nextTaken at_nop_malformed 0 (isAdmin 4) = some (tk bytes_nop_malformed)) ∧
    (nexts (exec (.nop 0) at_nop_malformed) = true) := by decide +kernel

/-- Evict: AdminDescriptorsTakeEffect. -/
theorem test_evict :
    (isReady at_evict = true) ∧
    ((part at_evict 0).cqWait = []) ∧
    (nextTaken at_evict 0 (isAdmin 2) = some (tk bytes_evict)) ∧
    (((resident at_evict (u16 bytes_evict 8) (u16 bytes_evict 10)).isSome || at_evict.obj.loads.any fun l => l.kind == u16 bytes_evict 8 && l.id == u16 bytes_evict 10) = true) ∧
    (nexts (exec (.evict 0) at_evict) = true) := by decide +kernel

/-- evict malformed, evict absent. -/
theorem test_evict_clauses :
    ((isReady at_evict_malformed = true) ∧
    ((part at_evict_malformed 0).cqWait = []) ∧
    (nextTaken at_evict_malformed 0 (isAdmin 2) = some (tk bytes_evict_malformed)) ∧
    (((resident at_evict_malformed (u16 bytes_evict_malformed 8) (u16 bytes_evict_malformed 10)).isSome || at_evict_malformed.obj.loads.any fun l => l.kind == u16 bytes_evict_malformed 8 && l.id == u16 bytes_evict_malformed 10) = true) ∧
    (nexts (exec (.evict 0) at_evict_malformed) = true)) ∧
    ((isReady at_evict_absent = true) ∧
    ((part at_evict_absent 0).cqWait = []) ∧
    (nextTaken at_evict_absent 0 (isAdmin 2) = some (tk bytes_evict_absent)) ∧
    (((resident at_evict_absent (u16 bytes_evict_absent 8) (u16 bytes_evict_absent 10)).isSome || at_evict_absent.obj.loads.any fun l => l.kind == u16 bytes_evict_absent 8 && l.id == u16 bytes_evict_absent 10) = false) ∧
    (nexts (exec (.evict 0) at_evict_absent) = true)) := by decide +kernel

/-- SetProfile: AdminDescriptorsTakeEffect. -/
theorem test_set_profile :
    (isReady at_set_profile = true) ∧
    ((part at_set_profile 0).cqWait = []) ∧
    (nextTaken at_set_profile 0 (isAdmin 3) = some (tk bytes_set_profile)) ∧
    ((profileForm profRec && profileRefs at_set_profile (profileOf profRec)) = true) ∧
    (nexts (exec (.setProfile 0 (some profRec)) at_set_profile) = true) := by decide +kernel

/-- set profile bad record, set profile malformed, set profile unread. -/
theorem test_setProfile_clauses :
    ((isReady at_set_profile = true) ∧
    ((part at_set_profile 0).cqWait = []) ∧
    (nextTaken at_set_profile 0 (isAdmin 3) = some (tk bytes_set_profile)) ∧
    ((profileForm bytes_set_profile_bad_record_1 && profileRefs at_set_profile (profileOf bytes_set_profile_bad_record_1)) = false) ∧
    (nexts (exec (.setProfile 0 (some bytes_set_profile_bad_record_1)) at_set_profile) = true)) ∧
    ((isReady at_set_profile_malformed = true) ∧
    ((part at_set_profile_malformed 0).cqWait = []) ∧
    (nextTaken at_set_profile_malformed 0 (isAdmin 3) = some (tk bytes_set_profile_malformed)) ∧
    ((adminOk bytes_set_profile_malformed && zeros bytes_set_profile_malformed 8 16) = false) ∧
    (nexts (exec (.setProfile 0 (some profRec)) at_set_profile_malformed) = true)) ∧
    ((isReady at_set_profile = true) ∧
    ((part at_set_profile 0).cqWait = []) ∧
    (nextTaken at_set_profile 0 (isAdmin 3) = some (tk bytes_set_profile)) ∧
    ((adminOk bytes_set_profile && zeros bytes_set_profile 8 16) = true) ∧
    (nexts (exec (.setProfile 0 none) at_set_profile) = true)) := by decide +kernel

/-- LoadModel: LoadPiecesAreStaged, LastPiecesMakeObjectsResident. -/
theorem test_piece_loadModel :
    (nextPiece at_piece_loadModel 0 1 = some (tk bytes_piece_loadModel)) ∧
    (isReady at_piece_loadModel = true) ∧
    (regOpen at_piece_loadModel 0 4 (lLen bytes_piece_loadModel) = true) ∧
    ((part at_piece_loadModel 0).cqWait = []) ∧
    (loadOk bytes_piece_loadModel = true ∧ afterLast at_piece_loadModel 0 (tk bytes_piece_loadModel) = false) ∧
    (dOp bytes_piece_loadModel = 1) ∧
    (lLast bytes_piece_loadModel = false) ∧
    (loadOf at_piece_loadModel 1 50 = none) ∧
    (resident at_piece_loadModel 1 50 = none) ∧
    ((at_piece_loadModel.ps.batches.any fun x => x.id == 50) = false) ∧
    (lId bytes_piece_loadModel = 50 ∧ lTier bytes_piece_loadModel = 0 ∧ lLen bytes_piece_loadModel = 4 ∧ lOff bytes_piece_loadModel = 0) ∧
    (tierSpace (charge (dropTaken at_piece_loadModel 0 (tk bytes_piece_loadModel)) 0 4 4) (stagedWith 1 50 0 0 [1, 2, 3, 4]) = none) ∧
    (nexts (exec (.loadModel 0 (some [1, 2, 3, 4])) at_piece_loadModel) = true) := by decide +kernel

theorem test_last_loadModel :
    (nextPiece at_last_loadModel 0 1 = some (tk bytes_last_loadModel)) ∧
    (isReady at_last_loadModel = true ∧ regOpen at_last_loadModel 0 4 108 = true) ∧
    ((part at_last_loadModel 0).cqWait = []) ∧
    (loadOk bytes_last_loadModel = true ∧ afterLast at_last_loadModel 0 (tk bytes_last_loadModel) = false ∧ dOp bytes_last_loadModel = 1 ∧ lLast bytes_last_loadModel = true) ∧
    (loadOf at_last_loadModel 1 50 = none) ∧
    (resident at_last_loadModel 1 50 = none) ∧
    (lId bytes_last_loadModel = 50 ∧ lTier bytes_last_loadModel = 0 ∧ lLen bytes_last_loadModel = 108 ∧ lOff bytes_last_loadModel = 0 ∧ bytes_last_loadModel_1.length = 108) ∧
    (∀ q ∈ allParts, ((part at_last_loadModel q).taken.filter fun x => !(q == 0 && x.sq == 1 && x.count == 5)).any (pieceOf 1 50) = false) ∧
    (tierSpace (charge (dropTaken at_last_loadModel 0 (tk bytes_last_loadModel)) 0 4 108) (stagedWith 1 50 0 0 bytes_last_loadModel_1) = none) ∧
    (coverOk (stagedWith 1 50 0 0 bytes_last_loadModel_1) 108 = true) ∧
    ((checkModel (dropLoad (charge (dropTaken at_last_loadModel 0 (tk bytes_last_loadModel)) 0 4 108) 1 50) 50 0 ((stagedWith 1 50 0 0 bytes_last_loadModel_1).bytes.image 0 108)).v.crc = true ∧ (checkModel (dropLoad (charge (dropTaken at_last_loadModel 0 (tk bytes_last_loadModel)) 0 4 108) 1 50) 50 0 ((stagedWith 1 50 0 0 bytes_last_loadModel_1).bytes.image 0 108)).tierOk = true ∧ (checkModel (dropLoad (charge (dropTaken at_last_loadModel 0 (tk bytes_last_loadModel)) 0 4 108) 1 50) 50 0 ((stagedWith 1 50 0 0 bytes_last_loadModel_1).bytes.image 0 108)).v.status = none) ∧
    (∀ x ∈ (checkModel (dropLoad (charge (dropTaken at_last_loadModel 0 (tk bytes_last_loadModel)) 0 4 108) 1 50) 50 0 ((stagedWith 1 50 0 0 bytes_last_loadModel_1).bytes.image 0 108)).ctx, ctxResident (dropLoad (charge (dropTaken at_last_loadModel 0 (tk bytes_last_loadModel)) 0 4 108) 1 50) x.1 = false) ∧
    (placed (dropLoad (charge (dropTaken at_last_loadModel 0 (tk bytes_last_loadModel)) 0 4 bytes_last_loadModel_1.length) 1 50) (stagedWith 1 50 0 0 bytes_last_loadModel_1) bytes_last_loadModel_1.length (checkModel (dropLoad (charge (dropTaken at_last_loadModel 0 (tk bytes_last_loadModel)) 0 4 bytes_last_loadModel_1.length) 1 50) 50 0 bytes_last_loadModel_1) = true) ∧
    (nexts (exec (.loadModel 0 (some bytes_last_loadModel_1)) at_last_loadModel) fun u => (resident u 1 50).isSome) = true := by decide +kernel

/-- LoadVariant: LoadPiecesAreStaged, LastPiecesMakeObjectsResident. -/
theorem test_piece_loadVariant :
    (nextPiece at_piece_loadVariant 0 2 = some (tk bytes_piece_loadVariant)) ∧
    (isReady at_piece_loadVariant = true) ∧
    (regOpen at_piece_loadVariant 0 4 (lLen bytes_piece_loadVariant) = true) ∧
    ((part at_piece_loadVariant 0).cqWait = []) ∧
    (loadOk bytes_piece_loadVariant = true ∧ afterLast at_piece_loadVariant 0 (tk bytes_piece_loadVariant) = false) ∧
    (dOp bytes_piece_loadVariant = 2) ∧
    (lLast bytes_piece_loadVariant = false) ∧
    (loadOf at_piece_loadVariant 2 50 = none) ∧
    (resident at_piece_loadVariant 2 50 = none) ∧
    ((at_piece_loadVariant.ps.batches.any fun x => x.id == 50) = false) ∧
    (lId bytes_piece_loadVariant = 50 ∧ lTier bytes_piece_loadVariant = 0 ∧ lLen bytes_piece_loadVariant = 4 ∧ lOff bytes_piece_loadVariant = 0) ∧
    (tierSpace (charge (dropTaken at_piece_loadVariant 0 (tk bytes_piece_loadVariant)) 0 4 4) (stagedWith 2 50 0 0 [1, 2, 3, 4]) = none) ∧
    (nexts (exec (.loadVariant 0 (some [1, 2, 3, 4])) at_piece_loadVariant) = true) := by decide +kernel

/-- LoadIndexSection: LoadPiecesAreStaged, LastPiecesMakeObjectsResident. -/
theorem test_piece_loadIndexSection :
    (nextPiece at_piece_loadIndexSection 0 3 = some (tk bytes_piece_loadIndexSection)) ∧
    (isReady at_piece_loadIndexSection = true) ∧
    (regOpen at_piece_loadIndexSection 0 4 (lLen bytes_piece_loadIndexSection) = true) ∧
    ((part at_piece_loadIndexSection 0).cqWait = []) ∧
    (loadOk bytes_piece_loadIndexSection = true ∧ afterLast at_piece_loadIndexSection 0 (tk bytes_piece_loadIndexSection) = false) ∧
    (dOp bytes_piece_loadIndexSection = 3) ∧
    (lLast bytes_piece_loadIndexSection = false) ∧
    (loadOf at_piece_loadIndexSection 3 50 = none) ∧
    (resident at_piece_loadIndexSection 3 50 = none) ∧
    ((at_piece_loadIndexSection.ps.batches.any fun x => x.id == 50) = false) ∧
    (lId bytes_piece_loadIndexSection = 50 ∧ lTier bytes_piece_loadIndexSection = 0 ∧ lLen bytes_piece_loadIndexSection = 4 ∧ lOff bytes_piece_loadIndexSection = 0) ∧
    (tierSpace (charge (dropTaken at_piece_loadIndexSection 0 (tk bytes_piece_loadIndexSection)) 0 4 4) (stagedWith 3 50 0 0 [1, 2, 3, 4]) = none) ∧
    (nexts (exec (.loadIndexSection 0 (some [1, 2, 3, 4])) at_piece_loadIndexSection) = true) := by decide +kernel

theorem test_last_loadIndexSection :
    (nextPiece at_last_loadIndexSection 0 3 = some (tk bytes_last_loadIndexSection)) ∧
    (isReady at_last_loadIndexSection = true ∧ regOpen at_last_loadIndexSection 0 4 64 = true) ∧
    ((part at_last_loadIndexSection 0).cqWait = []) ∧
    (loadOk bytes_last_loadIndexSection = true ∧ afterLast at_last_loadIndexSection 0 (tk bytes_last_loadIndexSection) = false ∧ dOp bytes_last_loadIndexSection = 3 ∧ lLast bytes_last_loadIndexSection = true) ∧
    (loadOf at_last_loadIndexSection 3 50 = none) ∧
    (resident at_last_loadIndexSection 3 50 = none) ∧
    (lId bytes_last_loadIndexSection = 50 ∧ lTier bytes_last_loadIndexSection = 0 ∧ lLen bytes_last_loadIndexSection = 64 ∧ lOff bytes_last_loadIndexSection = 0 ∧ bytes_last_loadIndexSection_1.length = 64) ∧
    (∀ q ∈ allParts, ((part at_last_loadIndexSection q).taken.filter fun x => !(q == 0 && x.sq == 1 && x.count == 5)).any (pieceOf 3 50) = false) ∧
    (tierSpace (charge (dropTaken at_last_loadIndexSection 0 (tk bytes_last_loadIndexSection)) 0 4 64) (stagedWith 3 50 0 0 bytes_last_loadIndexSection_1) = none) ∧
    (coverOk (stagedWith 3 50 0 0 bytes_last_loadIndexSection_1) 64 = true) ∧
    ((checkIndex (dropLoad (charge (dropTaken at_last_loadIndexSection 0 (tk bytes_last_loadIndexSection)) 0 4 64) 3 50) 50 0 ((stagedWith 3 50 0 0 bytes_last_loadIndexSection_1).bytes.image 0 64)).v.crc = true ∧ (checkIndex (dropLoad (charge (dropTaken at_last_loadIndexSection 0 (tk bytes_last_loadIndexSection)) 0 4 64) 3 50) 50 0 ((stagedWith 3 50 0 0 bytes_last_loadIndexSection_1).bytes.image 0 64)).tierOk = true ∧ (checkIndex (dropLoad (charge (dropTaken at_last_loadIndexSection 0 (tk bytes_last_loadIndexSection)) 0 4 64) 3 50) 50 0 ((stagedWith 3 50 0 0 bytes_last_loadIndexSection_1).bytes.image 0 64)).v.status = none) ∧
    (∀ x ∈ (checkIndex (dropLoad (charge (dropTaken at_last_loadIndexSection 0 (tk bytes_last_loadIndexSection)) 0 4 64) 3 50) 50 0 ((stagedWith 3 50 0 0 bytes_last_loadIndexSection_1).bytes.image 0 64)).ctx, ctxResident (dropLoad (charge (dropTaken at_last_loadIndexSection 0 (tk bytes_last_loadIndexSection)) 0 4 64) 3 50) x.1 = false) ∧
    (placed (dropLoad (charge (dropTaken at_last_loadIndexSection 0 (tk bytes_last_loadIndexSection)) 0 4 bytes_last_loadIndexSection_1.length) 3 50) (stagedWith 3 50 0 0 bytes_last_loadIndexSection_1) bytes_last_loadIndexSection_1.length (checkIndex (dropLoad (charge (dropTaken at_last_loadIndexSection 0 (tk bytes_last_loadIndexSection)) 0 4 bytes_last_loadIndexSection_1.length) 3 50) 50 0 bytes_last_loadIndexSection_1) = true) ∧
    (nexts (exec (.loadIndexSection 0 (some bytes_last_loadIndexSection_1)) at_last_loadIndexSection) fun u => (resident u 3 50).isSome) = true := by decide +kernel

/-- LoadArcObject: LoadPiecesAreStaged, LastPiecesMakeObjectsResident. -/
theorem test_piece_loadArcObject :
    (nextPiece at_piece_loadArcObject 0 4 = some (tk bytes_piece_loadArcObject)) ∧
    (isReady at_piece_loadArcObject = true) ∧
    (regOpen at_piece_loadArcObject 0 4 (lLen bytes_piece_loadArcObject) = true) ∧
    ((part at_piece_loadArcObject 0).cqWait = []) ∧
    (loadOk bytes_piece_loadArcObject = true ∧ afterLast at_piece_loadArcObject 0 (tk bytes_piece_loadArcObject) = false) ∧
    (dOp bytes_piece_loadArcObject = 4) ∧
    (lLast bytes_piece_loadArcObject = false) ∧
    (loadOf at_piece_loadArcObject 4 50 = none) ∧
    (resident at_piece_loadArcObject 4 50 = none) ∧
    ((at_piece_loadArcObject.ps.batches.any fun x => x.id == 50) = false) ∧
    (lId bytes_piece_loadArcObject = 50 ∧ lTier bytes_piece_loadArcObject = 0 ∧ lLen bytes_piece_loadArcObject = 4 ∧ lOff bytes_piece_loadArcObject = 0) ∧
    (tierSpace (charge (dropTaken at_piece_loadArcObject 0 (tk bytes_piece_loadArcObject)) 0 4 4) (stagedWith 4 50 0 0 [1, 2, 3, 4]) = none) ∧
    (nexts (exec (.loadArcObject 0 (some [1, 2, 3, 4])) at_piece_loadArcObject) = true) := by decide +kernel

theorem test_last_loadArcObject :
    (nextPiece at_last_loadArcObject 0 4 = some (tk bytes_last_loadArcObject)) ∧
    (isReady at_last_loadArcObject = true ∧ regOpen at_last_loadArcObject 0 4 76 = true) ∧
    ((part at_last_loadArcObject 0).cqWait = []) ∧
    (loadOk bytes_last_loadArcObject = true ∧ afterLast at_last_loadArcObject 0 (tk bytes_last_loadArcObject) = false ∧ dOp bytes_last_loadArcObject = 4 ∧ lLast bytes_last_loadArcObject = true) ∧
    (loadOf at_last_loadArcObject 4 50 = none) ∧
    (resident at_last_loadArcObject 4 50 = none) ∧
    (lId bytes_last_loadArcObject = 50 ∧ lTier bytes_last_loadArcObject = 0 ∧ lLen bytes_last_loadArcObject = 76 ∧ lOff bytes_last_loadArcObject = 0 ∧ bytes_last_loadArcObject_1.length = 76) ∧
    (∀ q ∈ allParts, ((part at_last_loadArcObject q).taken.filter fun x => !(q == 0 && x.sq == 1 && x.count == 5)).any (pieceOf 4 50) = false) ∧
    (tierSpace (charge (dropTaken at_last_loadArcObject 0 (tk bytes_last_loadArcObject)) 0 4 76) (stagedWith 4 50 0 0 bytes_last_loadArcObject_1) = none) ∧
    (coverOk (stagedWith 4 50 0 0 bytes_last_loadArcObject_1) 76 = true) ∧
    ((checkArc (dropLoad (charge (dropTaken at_last_loadArcObject 0 (tk bytes_last_loadArcObject)) 0 4 76) 4 50) 50 0 ((stagedWith 4 50 0 0 bytes_last_loadArcObject_1).bytes.image 0 76)).v.crc = true ∧ (checkArc (dropLoad (charge (dropTaken at_last_loadArcObject 0 (tk bytes_last_loadArcObject)) 0 4 76) 4 50) 50 0 ((stagedWith 4 50 0 0 bytes_last_loadArcObject_1).bytes.image 0 76)).tierOk = true ∧ (checkArc (dropLoad (charge (dropTaken at_last_loadArcObject 0 (tk bytes_last_loadArcObject)) 0 4 76) 4 50) 50 0 ((stagedWith 4 50 0 0 bytes_last_loadArcObject_1).bytes.image 0 76)).v.status = none) ∧
    (∀ x ∈ (checkArc (dropLoad (charge (dropTaken at_last_loadArcObject 0 (tk bytes_last_loadArcObject)) 0 4 76) 4 50) 50 0 ((stagedWith 4 50 0 0 bytes_last_loadArcObject_1).bytes.image 0 76)).ctx, ctxResident (dropLoad (charge (dropTaken at_last_loadArcObject 0 (tk bytes_last_loadArcObject)) 0 4 76) 4 50) x.1 = false) ∧
    (placed (dropLoad (charge (dropTaken at_last_loadArcObject 0 (tk bytes_last_loadArcObject)) 0 4 bytes_last_loadArcObject_1.length) 4 50) (stagedWith 4 50 0 0 bytes_last_loadArcObject_1) bytes_last_loadArcObject_1.length (checkArc (dropLoad (charge (dropTaken at_last_loadArcObject 0 (tk bytes_last_loadArcObject)) 0 4 bytes_last_loadArcObject_1.length) 4 50) 50 0 bytes_last_loadArcObject_1) = true) ∧
    (nexts (exec (.loadArcObject 0 (some bytes_last_loadArcObject_1)) at_last_loadArcObject) fun u => (resident u 4 50).isSome) = true := by decide +kernel

/-- LoadGrammar: LoadPiecesAreStaged, LastPiecesMakeObjectsResident. -/
theorem test_piece_loadGrammar :
    (nextPiece at_piece_loadGrammar 0 5 = some (tk bytes_piece_loadGrammar)) ∧
    (isReady at_piece_loadGrammar = true) ∧
    (regOpen at_piece_loadGrammar 0 4 (lLen bytes_piece_loadGrammar) = true) ∧
    ((part at_piece_loadGrammar 0).cqWait = []) ∧
    (loadOk bytes_piece_loadGrammar = true ∧ afterLast at_piece_loadGrammar 0 (tk bytes_piece_loadGrammar) = false) ∧
    (dOp bytes_piece_loadGrammar = 5) ∧
    (lLast bytes_piece_loadGrammar = false) ∧
    (loadOf at_piece_loadGrammar 5 50 = none) ∧
    (resident at_piece_loadGrammar 5 50 = none) ∧
    ((at_piece_loadGrammar.ps.batches.any fun x => x.id == 50) = false) ∧
    (lId bytes_piece_loadGrammar = 50 ∧ lTier bytes_piece_loadGrammar = 0 ∧ lLen bytes_piece_loadGrammar = 4 ∧ lOff bytes_piece_loadGrammar = 0) ∧
    (tierSpace (charge (dropTaken at_piece_loadGrammar 0 (tk bytes_piece_loadGrammar)) 0 4 4) (stagedWith 5 50 0 0 [1, 2, 3, 4]) = none) ∧
    (nexts (exec (.loadGrammar 0 (some [1, 2, 3, 4])) at_piece_loadGrammar) = true) := by decide +kernel

theorem test_last_loadGrammar :
    (nextPiece at_last_loadGrammar 0 5 = some (tk bytes_last_loadGrammar)) ∧
    (isReady at_last_loadGrammar = true ∧ regOpen at_last_loadGrammar 0 4 228 = true) ∧
    ((part at_last_loadGrammar 0).cqWait = []) ∧
    (loadOk bytes_last_loadGrammar = true ∧ afterLast at_last_loadGrammar 0 (tk bytes_last_loadGrammar) = false ∧ dOp bytes_last_loadGrammar = 5 ∧ lLast bytes_last_loadGrammar = true) ∧
    (loadOf at_last_loadGrammar 5 50 = none) ∧
    (resident at_last_loadGrammar 5 50 = none) ∧
    (lId bytes_last_loadGrammar = 50 ∧ lTier bytes_last_loadGrammar = 0 ∧ lLen bytes_last_loadGrammar = 228 ∧ lOff bytes_last_loadGrammar = 0 ∧ bytes_last_loadGrammar_1.length = 228) ∧
    (∀ q ∈ allParts, ((part at_last_loadGrammar q).taken.filter fun x => !(q == 0 && x.sq == 1 && x.count == 5)).any (pieceOf 5 50) = false) ∧
    (tierSpace (charge (dropTaken at_last_loadGrammar 0 (tk bytes_last_loadGrammar)) 0 4 228) (stagedWith 5 50 0 0 bytes_last_loadGrammar_1) = none) ∧
    (coverOk (stagedWith 5 50 0 0 bytes_last_loadGrammar_1) 228 = true) ∧
    ((checkGrammar (dropLoad (charge (dropTaken at_last_loadGrammar 0 (tk bytes_last_loadGrammar)) 0 4 228) 5 50) 50 0 ((stagedWith 5 50 0 0 bytes_last_loadGrammar_1).bytes.image 0 228)).v.crc = true ∧ (checkGrammar (dropLoad (charge (dropTaken at_last_loadGrammar 0 (tk bytes_last_loadGrammar)) 0 4 228) 5 50) 50 0 ((stagedWith 5 50 0 0 bytes_last_loadGrammar_1).bytes.image 0 228)).tierOk = true ∧ (checkGrammar (dropLoad (charge (dropTaken at_last_loadGrammar 0 (tk bytes_last_loadGrammar)) 0 4 228) 5 50) 50 0 ((stagedWith 5 50 0 0 bytes_last_loadGrammar_1).bytes.image 0 228)).v.status = none) ∧
    (∀ x ∈ (checkGrammar (dropLoad (charge (dropTaken at_last_loadGrammar 0 (tk bytes_last_loadGrammar)) 0 4 228) 5 50) 50 0 ((stagedWith 5 50 0 0 bytes_last_loadGrammar_1).bytes.image 0 228)).ctx, ctxResident (dropLoad (charge (dropTaken at_last_loadGrammar 0 (tk bytes_last_loadGrammar)) 0 4 228) 5 50) x.1 = false) ∧
    (placed (dropLoad (charge (dropTaken at_last_loadGrammar 0 (tk bytes_last_loadGrammar)) 0 4 bytes_last_loadGrammar_1.length) 5 50) (stagedWith 5 50 0 0 bytes_last_loadGrammar_1) bytes_last_loadGrammar_1.length (checkGrammar (dropLoad (charge (dropTaken at_last_loadGrammar 0 (tk bytes_last_loadGrammar)) 0 4 bytes_last_loadGrammar_1.length) 5 50) 50 0 bytes_last_loadGrammar_1) = true) ∧
    (nexts (exec (.loadGrammar 0 (some bytes_last_loadGrammar_1)) at_last_loadGrammar) fun u => (resident u 5 50).isSome) = true := by decide +kernel

/-- LoadVocabulary: LoadPiecesAreStaged, LastPiecesMakeObjectsResident. -/
theorem test_piece_loadVocabulary :
    (nextPiece at_piece_loadVocabulary 0 6 = some (tk bytes_piece_loadVocabulary)) ∧
    (isReady at_piece_loadVocabulary = true) ∧
    (regOpen at_piece_loadVocabulary 0 4 (lLen bytes_piece_loadVocabulary) = true) ∧
    ((part at_piece_loadVocabulary 0).cqWait = []) ∧
    (loadOk bytes_piece_loadVocabulary = true ∧ afterLast at_piece_loadVocabulary 0 (tk bytes_piece_loadVocabulary) = false) ∧
    (dOp bytes_piece_loadVocabulary = 6) ∧
    (lLast bytes_piece_loadVocabulary = false) ∧
    (loadOf at_piece_loadVocabulary 6 50 = none) ∧
    (resident at_piece_loadVocabulary 6 50 = none) ∧
    ((at_piece_loadVocabulary.ps.batches.any fun x => x.id == 50) = false) ∧
    (lId bytes_piece_loadVocabulary = 50 ∧ lTier bytes_piece_loadVocabulary = 0 ∧ lLen bytes_piece_loadVocabulary = 4 ∧ lOff bytes_piece_loadVocabulary = 0) ∧
    (tierSpace (charge (dropTaken at_piece_loadVocabulary 0 (tk bytes_piece_loadVocabulary)) 0 4 4) (stagedWith 6 50 0 0 [1, 2, 3, 4]) = none) ∧
    (nexts (exec (.loadVocabulary 0 (some [1, 2, 3, 4])) at_piece_loadVocabulary) = true) := by decide +kernel

/-- LoadTemplate: LoadPiecesAreStaged, LastPiecesMakeObjectsResident. -/
theorem test_piece_loadTemplate :
    (nextPiece at_piece_loadTemplate 0 7 = some (tk bytes_piece_loadTemplate)) ∧
    (isReady at_piece_loadTemplate = true) ∧
    (regOpen at_piece_loadTemplate 0 4 (lLen bytes_piece_loadTemplate) = true) ∧
    ((part at_piece_loadTemplate 0).cqWait = []) ∧
    (loadOk bytes_piece_loadTemplate = true ∧ afterLast at_piece_loadTemplate 0 (tk bytes_piece_loadTemplate) = false) ∧
    (dOp bytes_piece_loadTemplate = 7) ∧
    (lLast bytes_piece_loadTemplate = false) ∧
    (loadOf at_piece_loadTemplate 7 50 = none) ∧
    (resident at_piece_loadTemplate 7 50 = none) ∧
    ((at_piece_loadTemplate.ps.batches.any fun x => x.id == 50) = false) ∧
    (lId bytes_piece_loadTemplate = 50 ∧ lTier bytes_piece_loadTemplate = 0 ∧ lLen bytes_piece_loadTemplate = 4 ∧ lOff bytes_piece_loadTemplate = 0) ∧
    (tierSpace (charge (dropTaken at_piece_loadTemplate 0 (tk bytes_piece_loadTemplate)) 0 4 4) (stagedWith 7 50 0 0 [1, 2, 3, 4]) = none) ∧
    (nexts (exec (.loadTemplate 0 (some [1, 2, 3, 4])) at_piece_loadTemplate) = true) := by decide +kernel

theorem test_last_loadTemplate :
    (nextPiece at_last_loadTemplate 0 7 = some (tk bytes_last_loadTemplate)) ∧
    (isReady at_last_loadTemplate = true ∧ regOpen at_last_loadTemplate 0 4 68 = true) ∧
    ((part at_last_loadTemplate 0).cqWait = []) ∧
    (loadOk bytes_last_loadTemplate = true ∧ afterLast at_last_loadTemplate 0 (tk bytes_last_loadTemplate) = false ∧ dOp bytes_last_loadTemplate = 7 ∧ lLast bytes_last_loadTemplate = true) ∧
    (loadOf at_last_loadTemplate 7 50 = none) ∧
    (resident at_last_loadTemplate 7 50 = none) ∧
    (lId bytes_last_loadTemplate = 50 ∧ lTier bytes_last_loadTemplate = 0 ∧ lLen bytes_last_loadTemplate = 68 ∧ lOff bytes_last_loadTemplate = 0 ∧ bytes_last_loadTemplate_1.length = 68) ∧
    (∀ q ∈ allParts, ((part at_last_loadTemplate q).taken.filter fun x => !(q == 0 && x.sq == 1 && x.count == 5)).any (pieceOf 7 50) = false) ∧
    (tierSpace (charge (dropTaken at_last_loadTemplate 0 (tk bytes_last_loadTemplate)) 0 4 68) (stagedWith 7 50 0 0 bytes_last_loadTemplate_1) = none) ∧
    (coverOk (stagedWith 7 50 0 0 bytes_last_loadTemplate_1) 68 = true) ∧
    ((checkTemplate (dropLoad (charge (dropTaken at_last_loadTemplate 0 (tk bytes_last_loadTemplate)) 0 4 68) 7 50) 50 0 ((stagedWith 7 50 0 0 bytes_last_loadTemplate_1).bytes.image 0 68)).v.crc = true ∧ (checkTemplate (dropLoad (charge (dropTaken at_last_loadTemplate 0 (tk bytes_last_loadTemplate)) 0 4 68) 7 50) 50 0 ((stagedWith 7 50 0 0 bytes_last_loadTemplate_1).bytes.image 0 68)).tierOk = true ∧ (checkTemplate (dropLoad (charge (dropTaken at_last_loadTemplate 0 (tk bytes_last_loadTemplate)) 0 4 68) 7 50) 50 0 ((stagedWith 7 50 0 0 bytes_last_loadTemplate_1).bytes.image 0 68)).v.status = none) ∧
    (∀ x ∈ (checkTemplate (dropLoad (charge (dropTaken at_last_loadTemplate 0 (tk bytes_last_loadTemplate)) 0 4 68) 7 50) 50 0 ((stagedWith 7 50 0 0 bytes_last_loadTemplate_1).bytes.image 0 68)).ctx, ctxResident (dropLoad (charge (dropTaken at_last_loadTemplate 0 (tk bytes_last_loadTemplate)) 0 4 68) 7 50) x.1 = false) ∧
    (placed (dropLoad (charge (dropTaken at_last_loadTemplate 0 (tk bytes_last_loadTemplate)) 0 4 bytes_last_loadTemplate_1.length) 7 50) (stagedWith 7 50 0 0 bytes_last_loadTemplate_1) bytes_last_loadTemplate_1.length (checkTemplate (dropLoad (charge (dropTaken at_last_loadTemplate 0 (tk bytes_last_loadTemplate)) 0 4 bytes_last_loadTemplate_1.length) 7 50) 50 0 bytes_last_loadTemplate_1) = true) ∧
    (nexts (exec (.loadTemplate 0 (some bytes_last_loadTemplate_1)) at_last_loadTemplate) fun u => (resident u 7 50).isSome) = true := by decide +kernel

/-- LoadFeatureObject: LoadPiecesAreStaged, LastPiecesMakeObjectsResident. -/
theorem test_piece_loadFeatureObject :
    (nextPiece at_piece_loadFeatureObject 0 8 = some (tk bytes_piece_loadFeatureObject)) ∧
    (isReady at_piece_loadFeatureObject = true) ∧
    (regOpen at_piece_loadFeatureObject 0 4 (lLen bytes_piece_loadFeatureObject) = true) ∧
    ((part at_piece_loadFeatureObject 0).cqWait = []) ∧
    (loadOk bytes_piece_loadFeatureObject = true ∧ afterLast at_piece_loadFeatureObject 0 (tk bytes_piece_loadFeatureObject) = false) ∧
    (dOp bytes_piece_loadFeatureObject = 8) ∧
    (lLast bytes_piece_loadFeatureObject = false) ∧
    (loadOf at_piece_loadFeatureObject 8 50 = none) ∧
    (resident at_piece_loadFeatureObject 8 50 = none) ∧
    ((at_piece_loadFeatureObject.ps.batches.any fun x => x.id == 50) = false) ∧
    (lId bytes_piece_loadFeatureObject = 50 ∧ lTier bytes_piece_loadFeatureObject = 0 ∧ lLen bytes_piece_loadFeatureObject = 4 ∧ lOff bytes_piece_loadFeatureObject = 0) ∧
    (tierSpace (charge (dropTaken at_piece_loadFeatureObject 0 (tk bytes_piece_loadFeatureObject)) 0 4 4) (stagedWith 8 50 0 0 [1, 2, 3, 4]) = none) ∧
    (nexts (exec (.loadFeatureObject 0 (some [1, 2, 3, 4])) at_piece_loadFeatureObject) = true) := by decide +kernel

theorem test_last_loadFeatureObject :
    (nextPiece at_last_loadFeatureObject 0 8 = some (tk bytes_last_loadFeatureObject)) ∧
    (isReady at_last_loadFeatureObject = true ∧ regOpen at_last_loadFeatureObject 0 4 28 = true) ∧
    ((part at_last_loadFeatureObject 0).cqWait = []) ∧
    (loadOk bytes_last_loadFeatureObject = true ∧ afterLast at_last_loadFeatureObject 0 (tk bytes_last_loadFeatureObject) = false ∧ dOp bytes_last_loadFeatureObject = 8 ∧ lLast bytes_last_loadFeatureObject = true) ∧
    (loadOf at_last_loadFeatureObject 8 50 = none) ∧
    (resident at_last_loadFeatureObject 8 50 = none) ∧
    (lId bytes_last_loadFeatureObject = 50 ∧ lTier bytes_last_loadFeatureObject = 0 ∧ lLen bytes_last_loadFeatureObject = 28 ∧ lOff bytes_last_loadFeatureObject = 0 ∧ bytes_last_loadFeatureObject_1.length = 28) ∧
    (∀ q ∈ allParts, ((part at_last_loadFeatureObject q).taken.filter fun x => !(q == 0 && x.sq == 1 && x.count == 5)).any (pieceOf 8 50) = false) ∧
    (tierSpace (charge (dropTaken at_last_loadFeatureObject 0 (tk bytes_last_loadFeatureObject)) 0 4 28) (stagedWith 8 50 0 0 bytes_last_loadFeatureObject_1) = none) ∧
    (coverOk (stagedWith 8 50 0 0 bytes_last_loadFeatureObject_1) 28 = true) ∧
    ((checkFeature (dropLoad (charge (dropTaken at_last_loadFeatureObject 0 (tk bytes_last_loadFeatureObject)) 0 4 28) 8 50) 50 0 ((stagedWith 8 50 0 0 bytes_last_loadFeatureObject_1).bytes.image 0 28)).v.crc = true ∧ (checkFeature (dropLoad (charge (dropTaken at_last_loadFeatureObject 0 (tk bytes_last_loadFeatureObject)) 0 4 28) 8 50) 50 0 ((stagedWith 8 50 0 0 bytes_last_loadFeatureObject_1).bytes.image 0 28)).tierOk = true ∧ (checkFeature (dropLoad (charge (dropTaken at_last_loadFeatureObject 0 (tk bytes_last_loadFeatureObject)) 0 4 28) 8 50) 50 0 ((stagedWith 8 50 0 0 bytes_last_loadFeatureObject_1).bytes.image 0 28)).v.status = none) ∧
    (∀ x ∈ (checkFeature (dropLoad (charge (dropTaken at_last_loadFeatureObject 0 (tk bytes_last_loadFeatureObject)) 0 4 28) 8 50) 50 0 ((stagedWith 8 50 0 0 bytes_last_loadFeatureObject_1).bytes.image 0 28)).ctx, ctxResident (dropLoad (charge (dropTaken at_last_loadFeatureObject 0 (tk bytes_last_loadFeatureObject)) 0 4 28) 8 50) x.1 = false) ∧
    (placed (dropLoad (charge (dropTaken at_last_loadFeatureObject 0 (tk bytes_last_loadFeatureObject)) 0 4 bytes_last_loadFeatureObject_1.length) 8 50) (stagedWith 8 50 0 0 bytes_last_loadFeatureObject_1) bytes_last_loadFeatureObject_1.length (checkFeature (dropLoad (charge (dropTaken at_last_loadFeatureObject 0 (tk bytes_last_loadFeatureObject)) 0 4 bytes_last_loadFeatureObject_1.length) 8 50) 50 0 bytes_last_loadFeatureObject_1) = true) ∧
    (nexts (exec (.loadFeatureObject 0 (some bytes_last_loadFeatureObject_1)) at_last_loadFeatureObject) fun u => (resident u 8 50).isSome) = true := by decide +kernel

/-- LoadPassageBatch: LoadPiecesAreStaged. -/
theorem test_piece_loadPassageBatch :
    (nextPiece at_piece_loadPassageBatch 0 9 = some (tk bytes_piece_loadPassageBatch)) ∧
    (isReady at_piece_loadPassageBatch = true) ∧
    (regOpen at_piece_loadPassageBatch 0 4 (lLen bytes_piece_loadPassageBatch) = true) ∧
    ((part at_piece_loadPassageBatch 0).cqWait = []) ∧
    (loadOk bytes_piece_loadPassageBatch = true ∧ afterLast at_piece_loadPassageBatch 0 (tk bytes_piece_loadPassageBatch) = false) ∧
    (dOp bytes_piece_loadPassageBatch = 9) ∧
    (lLast bytes_piece_loadPassageBatch = false) ∧
    (loadOf at_piece_loadPassageBatch 9 50 = none) ∧
    (resident at_piece_loadPassageBatch 9 50 = none) ∧
    ((at_piece_loadPassageBatch.ps.batches.any fun x => x.id == 50) = false) ∧
    (lId bytes_piece_loadPassageBatch = 50 ∧ lTier bytes_piece_loadPassageBatch = 2 ∧ lLen bytes_piece_loadPassageBatch = 4 ∧ lOff bytes_piece_loadPassageBatch = 0) ∧
    (batchSpace (charge (dropTaken at_piece_loadPassageBatch 0 (tk bytes_piece_loadPassageBatch)) 0 4 4) (stagedWith 9 50 2 0 [1, 2, 3, 4]) = none) ∧
    (nexts (exec (.loadPassageBatch 0 (some [1, 2, 3, 4])) at_piece_loadPassageBatch) = true) := by decide +kernel

/-- LoadContext: LoadPiecesAreStaged, LastPiecesMakeObjectsResident. -/
theorem test_piece_loadContext :
    (nextPiece at_piece_loadContext 0 10 = some (tk bytes_piece_loadContext)) ∧
    (isReady at_piece_loadContext = true) ∧
    (regOpen at_piece_loadContext 0 4 (lLen bytes_piece_loadContext) = true) ∧
    ((part at_piece_loadContext 0).cqWait = []) ∧
    (loadOk bytes_piece_loadContext = true ∧ afterLast at_piece_loadContext 0 (tk bytes_piece_loadContext) = false) ∧
    (dOp bytes_piece_loadContext = 10) ∧
    (lLast bytes_piece_loadContext = false) ∧
    (loadOf at_piece_loadContext 10 50 = none) ∧
    (resident at_piece_loadContext 10 50 = none) ∧
    ((at_piece_loadContext.ps.batches.any fun x => x.id == 50) = false) ∧
    (lId bytes_piece_loadContext = 50 ∧ lTier bytes_piece_loadContext = 0 ∧ lLen bytes_piece_loadContext = 4 ∧ lOff bytes_piece_loadContext = 0) ∧
    (tierSpace (charge (dropTaken at_piece_loadContext 0 (tk bytes_piece_loadContext)) 0 4 4) (stagedWith 10 50 0 0 [1, 2, 3, 4]) = none) ∧
    (nexts (exec (.loadContext 0 (some [1, 2, 3, 4])) at_piece_loadContext) = true) := by decide +kernel

theorem test_last_loadContext :
    (nextPiece at_last_loadContext 0 10 = some (tk bytes_last_loadContext)) ∧
    (isReady at_last_loadContext = true ∧ regOpen at_last_loadContext 0 4 68 = true) ∧
    ((part at_last_loadContext 0).cqWait = []) ∧
    (loadOk bytes_last_loadContext = true ∧ afterLast at_last_loadContext 0 (tk bytes_last_loadContext) = false ∧ dOp bytes_last_loadContext = 10 ∧ lLast bytes_last_loadContext = true) ∧
    (loadOf at_last_loadContext 10 50 = none) ∧
    (resident at_last_loadContext 10 50 = none) ∧
    (lId bytes_last_loadContext = 50 ∧ lTier bytes_last_loadContext = 0 ∧ lLen bytes_last_loadContext = 68 ∧ lOff bytes_last_loadContext = 0 ∧ bytes_last_loadContext_1.length = 68) ∧
    (∀ q ∈ allParts, ((part at_last_loadContext q).taken.filter fun x => !(q == 0 && x.sq == 1 && x.count == 5)).any (pieceOf 10 50) = false) ∧
    (tierSpace (charge (dropTaken at_last_loadContext 0 (tk bytes_last_loadContext)) 0 4 68) (stagedWith 10 50 0 0 bytes_last_loadContext_1) = none) ∧
    (coverOk (stagedWith 10 50 0 0 bytes_last_loadContext_1) 68 = true) ∧
    ((checkContext (dropLoad (charge (dropTaken at_last_loadContext 0 (tk bytes_last_loadContext)) 0 4 68) 10 50) 50 0 ((stagedWith 10 50 0 0 bytes_last_loadContext_1).bytes.image 0 68)).v.crc = true ∧ (checkContext (dropLoad (charge (dropTaken at_last_loadContext 0 (tk bytes_last_loadContext)) 0 4 68) 10 50) 50 0 ((stagedWith 10 50 0 0 bytes_last_loadContext_1).bytes.image 0 68)).tierOk = true ∧ (checkContext (dropLoad (charge (dropTaken at_last_loadContext 0 (tk bytes_last_loadContext)) 0 4 68) 10 50) 50 0 ((stagedWith 10 50 0 0 bytes_last_loadContext_1).bytes.image 0 68)).v.status = none) ∧
    (∀ x ∈ (checkContext (dropLoad (charge (dropTaken at_last_loadContext 0 (tk bytes_last_loadContext)) 0 4 68) 10 50) 50 0 ((stagedWith 10 50 0 0 bytes_last_loadContext_1).bytes.image 0 68)).ctx, ctxResident (dropLoad (charge (dropTaken at_last_loadContext 0 (tk bytes_last_loadContext)) 0 4 68) 10 50) x.1 = false) ∧
    (placed (dropLoad (charge (dropTaken at_last_loadContext 0 (tk bytes_last_loadContext)) 0 4 bytes_last_loadContext_1.length) 10 50) (stagedWith 10 50 0 0 bytes_last_loadContext_1) bytes_last_loadContext_1.length (checkContext (dropLoad (charge (dropTaken at_last_loadContext 0 (tk bytes_last_loadContext)) 0 4 bytes_last_loadContext_1.length) 10 50) 50 0 bytes_last_loadContext_1) = true) ∧
    (nexts (exec (.loadContext 0 (some bytes_last_loadContext_1)) at_last_loadContext) fun u => (resident u 10 50).isSome) = true := by decide +kernel

/-- The DSB at 0x50000 takes effect. -/
def S0 : State :=
  let s := dev0 [(rDSB_LO, 0x50000), (rDSB_HI, 0)]
  { s with host := { s.host with busMaster := true } }

/-- Device 1 with members 2 and 3, and routes to them over ports 0 and 1, which are up. -/
def G0 : State :=
  let s := lab [(rRoute 0 0, 0x81000002), (rRoute 1 0, 0x80010003)]
  { s with cell := { s.cell with group := [2, 3] }, links := { s.links with ports := [(0, upPort), (1, upPort)] } }

def at_sq_enable_off : State := ready []
def at_sq_disable : State := (dev0 [(rPart 0 (pSQ_CFG 1), 0x106)])
def at_doorbell_read : State := (dev0 [(rPart 0 (pSQ_CFG 1), 0x106), (rPart 0 (pSQ_CFG 2), 0x106)])
def at_doorbell_draining : State := modPart at_doorbell_read 0 fun P => { P with st := .draining }
def at_completion_record_written : State := (withReq (lab []) ({ entry0 .committing 1 with gen := 2 ^ 26 - 1 }) ({ work0 descSearch with commit := some ⟨.ok, 0, 0, 1, 0, true⟩, aborts := [⟨1, 6, 9, true⟩] }))
def at_variant_hbm_copy : State := ({ lab [] with gen := { (lab []).gen with copies := [11] } })
def at_admission_search : State := (taking (lab [(rPart 0 0x160, 1000), (rPart 0 0x168, 4)]) descSearch)
def at_admission_generate : State := (taking (lab [(rPart 0 0x164, 1000), (rPart 0 0x168, 4)]) descGen)
def bytes_admission_malformed : List Byte := le 64 0x5a8b3417000000000000000000001000000000000003000000000000000000000000004000800000ffff00000005000300000000000400000000000702030001
def at_admission_malformed : State := (taking (lab [(rPart 0 0x168, 4)]) bytes_admission_malformed)
def at_admission_no_profile : State := (taking ({ lab [] with obj := { (lab []).obj with profiles := [] } }) descGen)
def at_admission_no_object : State := (taking ({ lab [] with obj := { (lab []).obj with objs := [] } }) descGen)
def at_admission_rejected_rate : State := (taking (lab []) descGen)
def at_admission_rejected_full : State := (taking (modPart (lab [(rPart 0 0x130, 0)]) 0 fun P => { P with meters := [(2, ⟨65536, 0, 0, 0, 0⟩)] }) descGen)
def at_admission_rejected_slo : State := (taking (modPart (lab [(rMem 0x44, 1)]) 0 fun P => { P with meters := [(2, ⟨65536, 0, 0, 0, 0⟩)] }) descGen)
def bytes_abort_gone : List Byte := le 64 0xdc223e7000000000000000000000000000000000000000000000000000000000000000000000000000000000000000000010000000000010000000700010004
def at_abort_gone : State := (taking (lab []) bytes_abort_gone)
def at_abort_committing : State := (taking (withReq (lab []) (entry0 .committing 1) (work0 descSearch)) bytes_abort_gone)
def at_abort_aborting : State := (taking (withReq (lab []) (entry0 .aborting 1) (work0 descSearch)) bytes_abort_gone)
def at_abort_ends_at_once : State := (taking (withReq (lab []) (entry0 .front 1) (work0 descSearch)) bytes_abort_gone)
def at_abort_waits_for_a_device : State := (taking (withReq (lab []) (entry0 .front 1) ({ work0 descSearch with sentTo := [1, 2] })) bytes_abort_gone)
def at_abort_timeout : State := (withReq (lab []) ({ entry0 .aborting 5 with tokens := 4 }) ({ work0 descGen with releases := [2], abortBy := 9, writes := [(3, [97, 98])] }))
def at_release_report : State := (withReq (lab []) ({ entry0 .aborting 5 with tokens := 4 }) ({ work0 descGen with releases := [2], abortBy := 9 }))
def at_predWindow : State := lab []
def at_partition_enable : State := (ready (p0 ++ [(rPart 3 0x110, 0x1000), (rPart 3 0x120, 0x3000), (rPart 3 0x118, 9)]))
def at_partition_enable_invalid : State := (ready [(rPart 3 0x118, 20)])
def at_partition_enable_draining : State := (modPart (dev0 []) 0 fun P => { P with st := .draining })
def at_partition_enable_again : State := dev0 []
def at_partition_drain_end_false : State := (modPart (dev0 []) 0 fun P => { P with st := .draining, enPending := false })
def at_partition_drain_end_true : State := (modPart (dev0 []) 0 fun P => { P with st := .draining, enPending := true })
theorem test_object_memory_free : 
    nexts (exec (.objectMemoryFree 1 2) (evictObj (lab []) 1 2)) (fun u => !(u.obj.objs.any fun o => o.uid == 2)) = true ∧
    nexts (exec (.objectMemoryFree 1 2) (withReq (evictObj (lab []) 1 2) (entry0 .front 1) (work0 descSearch)))
      (fun u => u.obj.objs.any fun o => o.uid == 2) = true := by decide +kernel

theorem test_abort_message : nexts (exec (.abortMessage ⟨2, 0, 4, 1⟩) (lab [])) = true := by decide +kernel

/-- SqEnable: RingsAreEnabledReadAndDisabled. -/
theorem test_sq_enable :
    ((S0).boot.fw = true ∧ partEn (S0) 0 = true ∧ isReady (S0) = true ∧ (part (S0) 0).st = .ready) ∧
    (sqEn S0 0 1 = false ∧ 6 ≤ sqLog S0 0 1 ∧ sqLog S0 0 1 ≤ 16) ∧
    (dsbOn S0 = true) ∧
    (nexts (exec (.sqEnable 0 1 0x106 9 (some (doorBlk (List.replicate 16 3) 0 0))) S0) fun u => decide (sqEn u 0 1 = true) && decide (ring u 0 1 = ⟨3, 3, false, false⟩) = true) := by decide +kernel

/-- sq enable unread, sq enable off. -/
theorem test_sqEnable_clauses :
    ((S0.boot.fw = true ∧ partEn S0 0 = true ∧ isReady S0 = true ∧ (part S0 0).st = .ready) ∧
    (sqEn S0 0 15 = false ∧ 6 ≤ sqLog S0 0 15 ∧ sqLog S0 0 15 ≤ 16) ∧
    (nexts (exec (.sqEnable 0 15 0x106 9 none) S0) fun u => decide ((ring u 0 15).restart = true) = true)) ∧
    ((at_sq_enable_off.boot.fw = true ∧ partEn at_sq_enable_off 11 = false) ∧
    (nexts (exec (.sqEnable 11 0 0x10a 9 none) at_sq_enable_off) fun u => decide (sqEn u 11 0 = true ∧ sqLog u 11 0 = 10) = true)) := by decide +kernel

/-- SqDisable: RingsAreEnabledReadAndDisabled. -/
theorem test_sq_disable :
    (at_sq_disable.boot.fw = true) ∧
    (nexts (exec (.sqDisable 0 1 0x006) at_sq_disable) fun u => decide (sqEn u 0 1 = false) = true) := by decide +kernel

/-- DoorbellRead: RingsAreEnabledReadAndDisabled. -/
theorem test_doorbell_read :
    (isReady at_doorbell_read = true ∧ (part at_doorbell_read 0).st = .ready ∧ (part at_doorbell_read 0).nextPoll ≤ max at_doorbell_read.now 500 ∧ (part at_doorbell_read 0).lost = 0) ∧
    (waitingDescs at_doorbell_read + 128 ≤ 4096) ∧
    ((part at_doorbell_read 0).open_.length + (part at_doorbell_read 0).mirrorSlots + dist 0 (part at_doorbell_read 0).cqTail + 128 ≤ cqSize at_doorbell_read 0) ∧
    (nexts (exec (.doorbellRead 0 500 (some (doorBlk [0, 9, 65] 0 0)) []) at_doorbell_read) fun u => decide ((ring u 0 1).head = 8 ∧ (ring u 0 1).tail = 9) && decide ((ring u 0 2).stopped = true) = true) := by decide +kernel

/-- A DRAINING partition: a full ring stops, a descriptor published in another is held back. -/
theorem test_doorbell_draining :
    (isReady (at_doorbell_draining) = true ∧ (part at_doorbell_draining 0).st = .draining ∧
      (part at_doorbell_draining 0).nextPoll ≤ max at_doorbell_draining.now 500 ∧ (part at_doorbell_draining 0).lost = 0) ∧
    nexts (exec (.doorbellRead 0 500 (some (doorBlk [0, 9, 65] 7 0)) []) at_doorbell_draining) (fun u =>
      decide ((ring u 0 1).head = 0 ∧ (ring u 0 1).stopped = false ∧ (ring u 0 2).stopped = true ∧
        (part u 0).cqHead = 7 ∧ (part u 0).interval = 200 ∧ (part u 0).taken = [])) = true := by decide +kernel

theorem test_doorbell_unread :
    (isReady at_doorbell_read = true ∧ (part at_doorbell_read 0).st = .ready ∧ (part at_doorbell_read 0).nextPoll ≤ max at_doorbell_read.now 500 ∧ (part at_doorbell_read 0).lost = 0) ∧
    (waitingDescs at_doorbell_read + 128 ≤ 4096) ∧
    (nexts (exec (.doorbellRead 0 500 none []) at_doorbell_read) fun u => decide ((ring u 0 1).head = 0) = true) := by decide +kernel

/-- CompletionRecordWritten: CompletedEntriesReturnToFree. -/
theorem test_completion_record_written :
    (work at_completion_record_written 0 = some ({ work0 descSearch with commit := some ⟨.ok, 0, 0, 1, 0, true⟩, aborts := [⟨1, 6, 9, true⟩] })) ∧
    ((entry at_completion_record_written 0).st = .committing) ∧
    ((work0 descSearch).commitHeld = false) ∧
    (((part at_completion_record_written 0).cqWait.any fun r => r.n == 0) = false) ∧
    (nexts (exec (.completionRecordWritten 0) at_completion_record_written) fun u => decide (entry u 0 = Entry.freeEntry) && decide (work u 0 = none) = true) := by decide +kernel

/-- DsbHeartbeat: HeartbeatAdvancesOrFaults. -/
theorem test_dsb_heartbeat :
    (S0.boot.fw = true ∧ S0.host.hbTime + 1000000 ≤ max S0.now 3000000) ∧
    (dsbOn S0 = true) ∧
    (nexts (exec (.dsbHeartbeat 3000000 true) S0) fun u => decide (u.host.heartbeat = 1) && decide (u.host.mem.byte 0x50008 = 1) = true) := by decide +kernel

/-- dsb heartbeat off, dsb heartbeat fault. -/
theorem test_dsbHeartbeat_clauses :
    ((at_sq_enable_off.boot.fw = true ∧ dsbOn at_sq_enable_off = false) ∧
    (at_sq_enable_off.host.hbTime + 1000000 ≤ max at_sq_enable_off.now 1000000) ∧
    (nexts (exec (.dsbHeartbeat 1000000 false) at_sq_enable_off) fun u => decide (u.host.heartbeat = 1) = true)) ∧
    ((S0.boot.fw = true ∧ S0.host.hbTime + 1000000 ≤ max S0.now 3000000) ∧
    (dsbOn S0 = true) ∧
    (S0.boot.st ≠ .faulted) ∧
    (S0.host.hbLastOk + 3000000 ≤ max S0.now 3000000) ∧
    (nexts (exec (.dsbHeartbeat 3000000 false) S0) fun u => decide (u.boot.st = .faulted ∧ u.boot.fatal = 0x01000002 ∧ u.pins.faultN = true) = true)) := by decide +kernel

/-- VariantHbmCopy: EvictedObjectsAreFreed. -/
theorem test_variant_hbm_copy :
    ((at_variant_hbm_copy.obj.objs.find? fun o => o.kind == 2 && o.id == 8 && at_variant_hbm_copy.gen.copies.contains o.uid) = some (obj 2 8 11 (.variant ⟨3, 3, [], []⟩))) ∧
    (nexts (exec (.variantHbmCopy 8) at_variant_hbm_copy) fun u => decide ((u.obj.objs.any fun o => o.uid == 11 && o.hbmCopy) = true) = true) := by decide +kernel

/-- Admission: AdmissionWritesTheEntry, RejectedRequestsKeepTheirCredit, TwinsMirrorAndTakeOver. -/
theorem test_admission_search :
    (nextRequest (tick at_admission_search 1000000000) 0 = some (tk descSearch)) ∧
    (isReady at_admission_search = true) ∧
    (requestOk descSearch = true) ∧
    (tget none at_admission_search.obj.profiles (dProfile descSearch) = some prof1) ∧
    (requestNeeds (dropTaken (tick at_admission_search 1000000000) 0 (tk descSearch)) descSearch prof1 = some [1, 4, 5, 6, 7, 8]) ∧
    (colourPasses (dropTaken (tick at_admission_search 1000000000) 0 (tk descSearch)) 0 (fillMeter (dropTaken (tick at_admission_search 1000000000) 0 (tk descSearch)) 0 (dClass descSearch)).colour = true) ∧
    (inUse at_admission_search 0 < lbQuota at_admission_search 0) ∧
    (at_admission_search.lb.fresh < 262144) ∧
    (work at_admission_search at_admission_search.lb.fresh = none) ∧
    (dLast descSearch = 0) ∧
    (nexts (exec (.admission 0 1000000000) at_admission_search) fun u => decide ((entry u 0).st = .admitted ∧ (entry u 0).stage = 1 ∧ (entry u 0).cls = 2) = true) := by decide +kernel

/-- admission generate, admission malformed, admission no profile, admission no object. -/
theorem test_admission_clauses :
    ((nextRequest (tick at_admission_generate 1000000000) 0 = some (tk descGen)) ∧
    (isReady at_admission_generate = true) ∧
    (requestOk descGen = true) ∧
    (tget none at_admission_generate.obj.profiles (dProfile descGen) = some prof1) ∧
    (requestNeeds (dropTaken (tick at_admission_generate 1000000000) 0 (tk descGen)) descGen prof1 = some refs1) ∧
    (colourPasses (dropTaken (tick at_admission_generate 1000000000) 0 (tk descGen)) 0 (fillMeter (dropTaken (tick at_admission_generate 1000000000) 0 (tk descGen)) 0 (dClass descGen)).colour = true) ∧
    (inUse at_admission_generate 0 < lbQuota at_admission_generate 0) ∧
    (at_admission_generate.lb.fresh < 262144) ∧
    (work at_admission_generate at_admission_generate.lb.fresh = none) ∧
    (dLast descGen = 3) ∧
    (gslotOf at_admission_generate prof1.genModel = some 0) ∧
    (canReserve (dropTaken (tick at_admission_generate 1000000000) 0 (tk descGen)) 0 (needBlocks (budgetOf descGen prof1) (dMaxOut descGen)) (dGrammar descGen).isSome = true) ∧
    (predMisses (dropTaken (tick at_admission_generate 1000000000) 0 (tk descGen)) 0 (demoted 2 true) (budgetOf descGen prof1) (ttftDefault at_admission_generate 0 (demoted 2 true)) = false) ∧
    (nexts (exec (.admission 0 1000000000) at_admission_generate) fun u => decide ((entry u 0).st = .admitted ∧ (entry u 0).stage = 1 ∧ (entry u 0).cls = 3) = true)) ∧
    ((nextRequest (tick at_admission_malformed 9) 0 = some (tk bytes_admission_malformed)) ∧
    (isReady at_admission_malformed = true) ∧
    ((part at_admission_malformed 0).cqWait = []) ∧
    (requestOk bytes_admission_malformed = false) ∧
    (nexts (exec (.admission 0 9) at_admission_malformed) fun u => decide ((part u 0).cqTail = 1 ∧ u.lb = at_admission_malformed.lb) = true)) ∧
    ((nextRequest (tick at_admission_no_profile 9) 0 = some (tk descGen)) ∧
    (isReady at_admission_no_profile = true) ∧
    ((part at_admission_no_profile 0).cqWait = []) ∧
    (requestOk descGen = true) ∧
    (tget none at_admission_no_profile.obj.profiles (dProfile descGen) = none) ∧
    (nexts (exec (.admission 0 9) at_admission_no_profile) fun u => decide ((part u 0).cqTail = 1 ∧ u.lb = at_admission_no_profile.lb) = true)) ∧
    ((nextRequest (tick at_admission_no_object 9) 0 = some (tk descGen)) ∧
    (isReady at_admission_no_object = true) ∧
    ((part at_admission_no_object 0).cqWait = []) ∧
    (requestOk descGen = true) ∧
    (tget none at_admission_no_object.obj.profiles (dProfile descGen) = some prof1) ∧
    (requestNeeds (dropTaken (tick at_admission_no_object 9) 0 (tk descGen)) descGen prof1 = none) ∧
    (nexts (exec (.admission 0 9) at_admission_no_object) fun u => decide ((part u 0).cqTail = 1 ∧ u.lb = at_admission_no_object.lb) = true)) := by decide +kernel

/-- admission rejected rate, admission rejected full, admission rejected slo. -/
theorem test_admission_clauses1 :
    ((nextRequest (tick at_admission_rejected_rate 9) 0 = some (tk descGen)) ∧
    (isReady at_admission_rejected_rate = true) ∧
    ((part at_admission_rejected_rate 0).cqWait = []) ∧
    (requestOk descGen = true) ∧
    (tget none at_admission_rejected_rate.obj.profiles (dProfile descGen) = some prof1) ∧
    (requestNeeds (dropTaken (tick at_admission_rejected_rate 9) 0 (tk descGen)) descGen prof1 = some refs1) ∧
    (colourPasses (tick at_admission_rejected_rate 9) 0 (fillMeter (tick at_admission_rejected_rate 9) 0 (dClass descGen)).colour = false) ∧
    (nexts (exec (.admission 0 9) at_admission_rejected_rate) fun u => decide ((part u 0).cqTail = 1 ∧ u.lb = at_admission_rejected_rate.lb) = true)) ∧
    ((nextRequest (tick at_admission_rejected_full 9) 0 = some (tk descGen)) ∧
    (isReady at_admission_rejected_full = true) ∧
    ((part at_admission_rejected_full 0).cqWait = []) ∧
    (requestOk descGen = true) ∧
    (tget none at_admission_rejected_full.obj.profiles (dProfile descGen) = some prof1) ∧
    (requestNeeds (dropTaken (tick at_admission_rejected_full 9) 0 (tk descGen)) descGen prof1 = some refs1) ∧
    (colourPasses (tick at_admission_rejected_full 9) 0 (fillMeter (tick at_admission_rejected_full 9) 0 (dClass descGen)).colour = true) ∧
    (lbQuota at_admission_rejected_full 0 ≤ inUse at_admission_rejected_full 0) ∧
    (nexts (exec (.admission 0 9) at_admission_rejected_full) fun u => decide ((part u 0).cqTail = 1 ∧ u.lb = at_admission_rejected_full.lb) = true)) ∧
    ((nextRequest (tick at_admission_rejected_slo 9) 0 = some (tk descGen)) ∧
    (isReady at_admission_rejected_slo = true) ∧
    ((part at_admission_rejected_slo 0).cqWait = []) ∧
    (requestOk descGen = true) ∧
    (tget none at_admission_rejected_slo.obj.profiles (dProfile descGen) = some prof1) ∧
    (requestNeeds (dropTaken (tick at_admission_rejected_slo 9) 0 (tk descGen)) descGen prof1 = some refs1) ∧
    (colourPasses (tick at_admission_rejected_slo 9) 0 (fillMeter (tick at_admission_rejected_slo 9) 0 (dClass descGen)).colour = true) ∧
    (inUse at_admission_rejected_slo 0 < lbQuota at_admission_rejected_slo 0) ∧
    (dLast descGen = 3) ∧
    (((gslotOf at_admission_rejected_slo prof1.genModel).bind fun g => reserveOn (tick at_admission_rejected_slo 9) prof1.genModel g (needBlocks (budgetOf descGen prof1) (dMaxOut descGen)) (dGrammar descGen).isSome) = none) ∧
    (nexts (exec (.admission 0 9) at_admission_rejected_slo) fun u => decide ((part u 0).cqTail = 1 ∧ u.lb = at_admission_rejected_slo.lb) = true)) := by decide +kernel

/-- No request has been taken: RejectedRequestsKeepTheirCredit. -/
theorem test_admission_none : nextRequest (tick at_nop 9) 0 = none ∧ nexts (exec (.admission 0 9) at_nop) = true := by
  decide +kernel

/-- Abort: AbortsEndRequests. -/
theorem test_abort_gone :
    (nextTaken (tick at_abort_gone 9) 0 (isAdmin 1) = some (tk bytes_abort_gone)) ∧
    (isReady at_abort_gone = true) ∧
    (adminOk bytes_abort_gone = true) ∧
    (zeros bytes_abort_gone 16 24 = true) ∧
    (Handle.ofNum (u64 bytes_abort_gone 8) = h0) ∧
    (liveSlot at_abort_gone h0 = none) ∧
    ((part at_abort_gone 0).cqWait = []) ∧
    (nexts (exec (.abort 0 9) at_abort_gone) = true) := by decide +kernel

/-- abort committing, abort aborting, abort ends at once, abort waits for a device. -/
theorem test_abort_clauses :
    ((nextTaken (tick at_abort_committing 9) 0 (isAdmin 1) = some (tk bytes_abort_gone)) ∧
    (isReady at_abort_committing = true) ∧
    (adminOk bytes_abort_gone = true) ∧
    (zeros bytes_abort_gone 16 24 = true) ∧
    (Handle.ofNum (u64 bytes_abort_gone 8) = h0) ∧
    (liveSlot at_abort_committing h0 = some 0) ∧
    (work at_abort_committing 0 = some (work0 descSearch)) ∧
    ((entry at_abort_committing 0).st = .committing) ∧
    (nexts (exec (.abort 0 9) at_abort_committing) fun u => decide (((work u 0).map (·.aborts)) = some [⟨1, 5, 7, false⟩]) = true)) ∧
    ((nextTaken (tick at_abort_aborting 9) 0 (isAdmin 1) = some (tk bytes_abort_gone)) ∧
    (isReady at_abort_aborting = true) ∧
    (adminOk bytes_abort_gone = true) ∧
    (zeros bytes_abort_gone 16 24 = true) ∧
    (Handle.ofNum (u64 bytes_abort_gone 8) = h0) ∧
    (liveSlot at_abort_aborting h0 = some 0) ∧
    (work at_abort_aborting 0 = some (work0 descSearch)) ∧
    ((entry at_abort_aborting 0).st = .aborting) ∧
    (nexts (exec (.abort 0 9) at_abort_aborting) fun u => decide (((work u 0).map (·.aborts)) = some [⟨1, 5, 7, true⟩]) = true)) ∧
    ((nextTaken (tick at_abort_ends_at_once 9) 0 (isAdmin 1) = some (tk bytes_abort_gone)) ∧
    (isReady at_abort_ends_at_once = true) ∧
    (adminOk bytes_abort_gone = true) ∧
    (zeros bytes_abort_gone 16 24 = true) ∧
    (Handle.ofNum (u64 bytes_abort_gone 8) = h0) ∧
    (liveSlot at_abort_ends_at_once h0 = some 0) ∧
    (work at_abort_ends_at_once 0 = some ((work0 descSearch))) ∧
    ((entry at_abort_ends_at_once 0).st.follows .aborting = true) ∧
    ((entry at_abort_ends_at_once 0).st ≠ .mirror) ∧
    (nexts (exec (.abort 0 9) at_abort_ends_at_once) fun u => decide ((entry u 0).st = .committing) = true)) ∧
    ((nextTaken (tick at_abort_waits_for_a_device 9) 0 (isAdmin 1) = some (tk bytes_abort_gone)) ∧
    (isReady at_abort_waits_for_a_device = true) ∧
    (adminOk bytes_abort_gone = true) ∧
    (zeros bytes_abort_gone 16 24 = true) ∧
    (Handle.ofNum (u64 bytes_abort_gone 8) = h0) ∧
    (liveSlot at_abort_waits_for_a_device h0 = some 0) ∧
    (work at_abort_waits_for_a_device 0 = some ({ work0 descSearch with sentTo := [1, 2] })) ∧
    ((entry at_abort_waits_for_a_device 0).st.follows .aborting = true) ∧
    ((entry at_abort_waits_for_a_device 0).st ≠ .mirror) ∧
    (nexts (exec (.abort 0 9) at_abort_waits_for_a_device) fun u => decide ((entry u 0).st = .aborting) = true)) := by decide +kernel

/-- AbortTimeout: AbortsEndRequests. -/
theorem test_abort_timeout :
    (isReady at_abort_timeout = true) ∧
    (work at_abort_timeout 0 = some ({ work0 descGen with releases := [2], abortBy := 9, writes := [(3, [97, 98])] })) ∧
    ((entry at_abort_timeout 0).st = .aborting) ∧
    (9 ≤ max at_abort_timeout.now 9) ∧
    (nexts (exec (.abortTimeout 0 9) at_abort_timeout) fun u => decide ((entry u 0).st = .aborting ∧
      (work u 0).map (fun w => (w.releases, w.ending)) = some ([], some (.aborted, 4))) = true) ∧
    (isReady at_release_report = true) ∧
    (nexts (exec (.abortTimeout 0 9) at_release_report) fun u => decide ((entry u 0).st = .committing ∧
      ((work u 0).bind (·.commit)).map (fun c => (c.status, c.detail)) = some (.aborted, 4)) = true) := by decide +kernel

/-- ReleaseReport: AbortsEndRequests. -/
theorem test_release_report :
    (work at_release_report 0 = some ({ work0 descGen with releases := [2], abortBy := 9 })) ∧
    ((entry at_release_report 0).st = .aborting) ∧
    (liveSlot at_release_report h0 = some 0) ∧
    ([2].filter (· != 2) = []) ∧
    (nexts (exec (.releaseReport h0 2) at_release_report) fun u => decide ((entry u 0).st = .committing) = true) := by decide +kernel

theorem test_release_report_other :
    (work at_release_report 0 = some ({ work0 descGen with releases := [2], abortBy := 9 })) ∧
    ((entry at_release_report 0).st = .aborting) ∧
    (liveSlot at_release_report h0 = some 0) ∧
    ([2].filter (· != 3) ≠ []) ∧
    (nexts (exec (.releaseReport h0 3) at_release_report) fun u => decide ((entry u 0).st = .aborting) = true) := by decide +kernel

/-- PredWindow: EstimatesAndSharesMoveEachWindow. -/
theorem test_predWindow :
    ((part at_predWindow 0).st ≠ .off) ∧
    (nexts (exec (.predWindow 7) at_predWindow) = true) := by decide +kernel

/-- PfShareAdjust: EstimatesAndSharesMoveEachWindow. -/
theorem test_pfShareAdjust :
    ((part at_predWindow 0).st ≠ .off) ∧
    (nexts (exec (.pfShareAdjust 7) at_predWindow) = true) := by decide +kernel

/-- RegulatorRefill: EstimatesAndSharesMoveEachWindow. -/
theorem test_regulatorRefill :
    ((part at_predWindow 0).st ≠ .off) ∧
    (nexts (exec (.regulatorRefill 7) at_predWindow) = true) := by decide +kernel

/-- FreeBlockReport: EstimatesAndSharesMoveEachWindow. -/
theorem test_free_block_report :
    (2 ≠ devno G0) ∧
    ((groupOf G0).contains 2 = true) ∧
    (resumedWaiting G0 = []) ∧
    (nexts (exec (.freeBlockReport 2 [(3, 10, 9)] true true) G0) fun u => decide (u.gen.reports = [⟨2, [(3, 10, 9)], true, true⟩]) = true) := by decide +kernel

theorem test_free_block_report_own :
    (resumedWaiting G0 = []) ∧
    ((groupOf G0) = [1, 2, 3] ∧ pickPort G0 2 0 = some 0 ∧ pickPort G0 3 0 = some 1) ∧
    (nexts (exec (.freeBlockReport 1 [] false false) G0) fun u => decide (tget [] (port u 1).queues 0 = [(3, 0, .freeBlocks [(3, 64, 64)] true false)] ∧ compassRoom G0 = false) = true) := by decide +kernel

/-- PartitionEnable: PartitionsEnableDrainAndStop. -/
theorem test_partition_enable :
    (at_partition_enable.boot.fw = true ∧ (part at_partition_enable 3).st = .off) ∧
    (geometryOk at_partition_enable 3 = true) ∧
    (nexts (exec (.partitionEnable 3 1 9) at_partition_enable) fun u => decide ((part u 3).st = .ready ∧ (part u 3).nextPoll = 209) = true) := by decide +kernel

/-- partition enable invalid, partition enable draining, partition enable again. -/
theorem test_partitionEnable_clauses :
    ((at_partition_enable_invalid.boot.fw = true ∧ (part at_partition_enable_invalid 3).st = .off) ∧
    (geometryOk at_partition_enable_invalid 3 = false) ∧
    (nexts (exec (.partitionEnable 3 1 9) at_partition_enable_invalid) fun u => decide ((part u 3).st = .invalid) = true)) ∧
    ((at_partition_enable_draining.boot.fw = true ∧ (part at_partition_enable_draining 0).st = .draining) ∧
    (nexts (exec (.partitionEnable 0 1 9) at_partition_enable_draining) fun u => decide ((part u 0).enPending = true) = true)) ∧
    ((at_partition_enable_again.boot.fw = true ∧ (part at_partition_enable_again 0).st = .ready) ∧
    (nexts (exec (.partitionEnable 0 7 9) at_partition_enable_again) fun u => decide (reg u (rPart 0 0) = 7) = true)) := by decide +kernel

/-- PartitionDisable: PartitionsEnableDrainAndStop. -/
theorem test_partition_disable :
    (at_nop.boot.fw = true ∧ (part at_nop 0).st = .ready) ∧
    (nexts (exec (.partitionDisable 0 0) at_nop) fun u => decide ((part u 0).st = .draining ∧ (part u 0).taken = []) = true) := by decide +kernel

/-- partition disable draining, partition disable off. -/
theorem test_partitionDisable_clauses :
    ((at_partition_enable_draining.boot.fw = true ∧ (part at_partition_enable_draining 0).st = .draining) ∧
    (nexts (exec (.partitionDisable 0 0) at_partition_enable_draining) = true)) ∧
    ((at_sq_enable_off.boot.fw = true ∧ (part at_sq_enable_off 0).st = .off) ∧
    (nexts (exec (.partitionDisable 0 0) at_sq_enable_off) = true)) := by decide +kernel

/-- PartitionDrainEnd: PartitionsEnableDrainAndStop. -/
theorem test_partition_drain_end_false :
    ((part at_partition_drain_end_false 0).st = .draining) ∧
    (drained at_partition_drain_end_false 0 = true) ∧
    ((part at_partition_drain_end_false 0).enPending = false) ∧
    (nexts (exec (.partitionDrainEnd 0 9) at_partition_drain_end_false) fun u => decide ((part u 0).st = .off) = true) := by decide +kernel

theorem test_partition_drain_end_true :
    ((part at_partition_drain_end_true 0).st = .draining) ∧
    (drained at_partition_drain_end_true 0 = true) ∧
    ((part at_partition_drain_end_true 0).enPending = true) ∧
    (nexts (exec (.partitionDrainEnd 0 9) at_partition_drain_end_true) fun u => decide ((part u 0).st = .ready) = true) := by decide +kernel

/-- WaypointRangeWrite: PartitionsEnableDrainAndStop. -/
theorem test_waypoint_range_base :
    (at_partition_enable_again.boot.fw = true) ∧
    (nexts (exec (.waypointRangeWrite 0 false 0x1FFFF) at_partition_enable_again) fun u => decide (wpBase u 0 = 65535) = true) := by decide +kernel

/-- waypoint range count, waypoint range too long. -/
theorem test_waypointRangeWrite_clauses :
    ((at_partition_enable_again.boot.fw = true) ∧
    ((65536 : Nat) ≤ 65536) ∧
    (nexts (exec (.waypointRangeWrite 0 true 65536) at_partition_enable_again) fun u => decide (wpCount u 0 = 65536) = true)) ∧
    ((at_partition_enable_again.boot.fw = true) ∧
    ((65536 : Nat) < 65537) ∧
    (nexts (exec (.waypointRangeWrite 0 true 65537) at_partition_enable_again) fun u => decide (u.bar.ignored = 1) = true)) := by decide +kernel

/-- An empty stream, as a default in tests. -/
def noStream : Stream := ⟨none, 0, 0, 0, 0, ⟨0, false, 0⟩, none, [], 0, [], none, []⟩

/-- `StepCanRun` for a descriptor's stream without a signal and with no wait standing met: decidable. -/
abbrev CanRun (s : State) (sid kind op lo hi : Nat) (ok : State → List Byte → Bool)
    (ins : List Byte → List (Nat × Nat)) (x : Stream) (b : List Byte) : Prop :=
  isReady s = true ∧ headStep s sid kind = some (x, b) ∧ u8 b 1 = op ∧ ok s b = true ∧ sid < s.nextSid ∧
    ctxUsable s (stepCtx b) = true ∧ (∃ k ∈ List.range (hi + 1 - lo), domIs s (lo + k) .on = true) ∧
    (s.helm.ctx = stepCtx b ∨ (s.helm.issued = [] ∧ s.helm.swap = none ∧ ctxBad s (stepCtx b) = false)) ∧
    (∀ r ∈ ins b, poisoned (inCtx s (stepCtx b)) r.1 r.2 = false) ∧ x.req = none ∧ NoWaitMet s ∧ x.signal = none

/-- What the tests check of a step is enough for `StepCanRun`. -/
theorem canRun_step {s sid kind op lo hi ok ins x b} (h : CanRun s sid kind op lo hi ok ins x b) :
    StepCanRun s sid kind op lo hi ok ins x b :=
  let ⟨a, c, d, e, f, g, i, j, k, l, m, n⟩ := h
  ⟨a, c, d, e, f, g, i, j, k, .inl l, .inl ⟨m, n⟩⟩

/-- A state with one stream at its first step, of partition 0. -/
def withStream (s : State) (steps : List (List Byte)) : State :=
  { s with nextSid := 4, streams := [(3, some { req := none, part := 0, sq := 1, count := 5, tag := 7, rank := ⟨2, false, 1⟩, signal := none, steps := steps, next := 0, done := [], ended := none, arg := [] })] }
def headOf (s : State) (b : List Byte) : Option (Stream × List Byte) := (stream s 3).map fun x => (x, b)
/-- One waypoint wait: another stream's step waits for 1. -/
def devS : State := lab [(rRoute 0 0, 0x80000002), (rRoute 1 0, 0x80010003)]
def devU : State := { devS with links := { devS.links with ports := [(0, upPort), (1, upPort)] } }

/-- Steps in the tile store at 0x1000. -/
def devM (b : List Byte) : State := { devU with mem := Mem.write [] 0x1000 b }

/-- FP32 rows in the tile store at 0, 64 bytes apart: 1.0, -2.0; 0.5, 3.0; a row state at 0x400 and factors at 0x500. -/
def devA : State :=
  { devU with mem := (((Mem.write [] 0 (le 8 0xc00000003f800000)).write 64 (le 8 0x404000003f000000)).write 0x400 (le 16 0x400000003f80000000000000ff800000)).write 0x500 (le 8 0x3f00000040000000) }

/-- Feature table 12: 3 rows of two FP32 elements, in two shards, owned by this device and by device 3. -/
def table12 : FeatTable := ⟨true, 9, 8, 2, 0, 3, true, 0x3F800000, [1, 3], List.replicate 8 0, []⟩
def devF : State :=
  { devU with
    mem := ((Mem.write [] 0 (le 4 0 ++ le 4 0 ++ le 4 0x3F800000 ++ le 4 0)).write 64 (le 4 1 ++ le 4 0 ++ le 4 0 ++ le 4 0x3F800000)).write 128
      (le 4 2 ++ le 4 0 ++ le 4 0x7F800000 ++ le 4 0)
    obj := { devU.obj with objs := allObjs ++ [obj 8 12 13 (.featTable table12)] } }

def at_waypoint_wait_met : State := (withStream devU ([(le 64 0xffff000f00000105)] ++ []))
def at_waypoint_wait_waits : State := (withStream devU ([(le 64 0x10001000f00000105)] ++ []))
def at_waypoint_signal_own : State := (withStream devU ([(le 64 0xffffffffffff000000000205)] ++ []))
def at_waypoint_signal_far : State := (withStream devU ([(le 64 0x10003006300000205)] ++ []))
def at_remote_signal_not_ready : State := { devU with boot := { devU.boot with st := .faulted } }
def at_signal_ack : State := (passHead (withStream devU ([(le 64 0x10003006300000205)] ++ [])) 3)
def at_wait_timeout : State := (setReg (addWait (passHead (withStream devU ([(le 64 0x10000000f00000105)] ++ [])) 3) ⟨0, 15, 1, 9, .step 3 0⟩) (rPart 0 0x208) 1)
def bytes_run_stream_malformed : List Byte := le 64 0x65859154000000000000000000000000000000000000000000000000000050000000000000000000000000000000008000000000000010000000000700020002
def at_run_stream_malformed : State := (taking (devM (le 64 0xf00000105)) bytes_run_stream_malformed)
def bytes_run_stream_unread : List Byte := le 64 0xc5fc647a000000000000000000000000000000000000001000000000000050000000000000000000000000000000008000000000000010000000000700010002
def at_run_stream_unread : State := (taking (devM (le 64 0xf00000105)) bytes_run_stream_unread)
def bytes_run_stream_waits : List Byte := le 64 0x62ced25a0000000000000000000000000000000000000002000000000000500000000000000000010000000f0000008000000000000010000000000700010202
def at_run_stream_waits : State := (taking (devM (le 64 0xf00000105)) bytes_run_stream_waits)
def bytes_run_stream_starts : List Byte := le 64 0xb4271990000000000000000000000000000000000000000000000000000050000000000700000000000300000000004000000000000010000000000700010402
def at_run_stream_starts : State := (taking (devM (le 64 0xf00000105)) bytes_run_stream_starts)
def bytes_run_stream_wait_met : List Byte := le 64 0xff34100e0000000000000000000000000000000000000002000000000000500000000000000000000000000f0000004000000000000010000000000700010202
def at_run_stream_wait_met : State := (taking (devM (le 64 0xf00000105)) bytes_run_stream_wait_met)
def bytes_run_stream_empty : List Byte := le 64 0xfc9c16ad000000000000000000000000000000000000000900000000000050000000000000000000000000000000000000000000000010000000000700010002
def at_run_stream_empty : State := (taking (devM (le 64 0xf00000105)) bytes_run_stream_empty)
def bytes_arc_apply : List Byte := le 64 0x3f80000000000000000000000000004000001000000000400000000000000002000000020000000000090102
def at_arc_apply : State := (withStream devA ([bytes_arc_apply] ++ []))
def bytes_arc_apply_exp_mx : List Byte := le 64 0x3f80000000000000000000000000004000001000000000400000000000000002000000020000050100090102
def at_arc_apply_exp_mx : State := (withStream devA ([bytes_arc_apply_exp_mx] ++ []))
def bytes_arc_softmax : List Byte := le 64 0x3f80000000000000000000000000004000001000000000400000000000000002000000020000000000090202
def at_arc_softmax : State := (withStream devA ([bytes_arc_softmax] ++ []))
def bytes_arc_softmax_part : List Byte := le 64 0x3f80000000000600000004000000004000001000000000400000000000000002000000020000000000090302
def at_arc_softmax_part : State := (withStream devA ([bytes_arc_softmax_part] ++ []))
def bytes_arc_rowscale : List Byte := le 64 0x3f80000000000500000000000000004000001000000000400000000000000002000000020000000000090402
def at_arc_rowscale : State := (withStream devA ([bytes_arc_rowscale] ++ []))
def bytes_arc_rowscale_final : List Byte := le 64 0x1000000003f80000000000000000004000000004000001000000000400000000000000002000000020000000000090402
def at_arc_rowscale_final : State := (withStream devA ([bytes_arc_rowscale_final] ++ []))
def bytes_arc_rmsnorm : List Byte := le 64 0x3f800000ffffffff000000000000004000001000000000400000000000000002000000020000000000090502
def at_arc_rmsnorm : State := (withStream devA ([bytes_arc_rmsnorm] ++ []))
def bytes_arc_rmsnorm_gain : List Byte := le 64 0x3727c5ac3f80000000000500000000000000004000001000000000400000000000000002000000020000000000090502
def at_arc_rmsnorm_gain : State := (withStream devA ([bytes_arc_rmsnorm_gain] ++ []))
def bytes_sextant_select : List Byte := le 64 0x20000000000000000000000010000000000000000000000000020000000100090103
def at_sextant_select : State := (withStream devA ([bytes_sextant_select] ++ []))
def bytes_sextant_select_ascending : List Byte := le 64 0x20000000000000000000000010000000000000000000000000020000000200190103
def at_sextant_select_ascending : State := (withStream devA ([bytes_sextant_select_ascending] ++ []))
def bytes_sextant_compact : List Byte := le 64 0x20003f00000000000001000010000000000000000000000000020000000000090203
def at_sextant_compact : State := (withStream devA ([bytes_sextant_compact] ++ []))
def bytes_move_copy : List Byte := le 64 0x40000000000000100000000000000000000000ffff00000106
def at_move_copy : State := (withStream devA ([bytes_move_copy] ++ []))
def bytes_move_copy_hbm : List Byte := le 64 0x40000001000000000000000000000000000000ffff00000106
def at_move_copy_hbm : State := (withStream devA ([bytes_move_copy_hbm] ++ []))
def bytes_move_copy_far : List Byte := le 64 0x40000000000000100000000000000000000000000300000106
def at_move_copy_far : State := (withStream devA ([bytes_move_copy_far] ++ []))
def bytes_move_transpose : List Byte := le 64 0x40000000400000000200000002000000000000100000000000000000000000ffff00090206
def at_move_transpose : State := (withStream devA ([bytes_move_transpose] ++ []))
def bytes_feature_update : List Byte := le 64 0x4000000000000000030000000c00000104
def at_feature_update : State := (withStream devF ([bytes_feature_update] ++ []))
/-- WaypointWait: WaypointStepsWaitAndSignal. -/
theorem test_waypoint_wait_met :
    (isReady at_waypoint_wait_met = true) ∧
    (headStep at_waypoint_wait_met 3 5 = headOf at_waypoint_wait_met (le 64 0xffff000f00000105)) ∧
    ((headStep at_waypoint_wait_met 3 5).isSome = true) ∧
    (3 < at_waypoint_wait_met.nextSid) ∧
    (wpStepOk at_waypoint_wait_met (partOf at_waypoint_wait_met 3) (le 64 0xffff000f00000105) = true) ∧
    (u8 (le 64 0xffff000f00000105) 1 = 1) ∧
    (NoWaitMet at_waypoint_wait_met) ∧
    ((headStep at_waypoint_wait_met 3 5).all (·.1.signal.isNone) = true) ∧
    (wpMet at_waypoint_wait_met (u16 (le 64 0xffff000f00000105) 4) (u32 (le 64 0xffff000f00000105) 8) = true) ∧
    (nexts (exec (.waypointWait 3 9) at_waypoint_wait_met) fun u => decide (stream u 3 = none) && decide ((part u 0).cqTail = 1) = true) := by decide +kernel

theorem test_waypoint_wait_waits :
    (isReady at_waypoint_wait_waits = true) ∧
    (headStep at_waypoint_wait_waits 3 5 = headOf at_waypoint_wait_waits (le 64 0x10001000f00000105)) ∧
    ((headStep at_waypoint_wait_waits 3 5).isSome = true) ∧
    (3 < at_waypoint_wait_waits.nextSid) ∧
    (wpStepOk at_waypoint_wait_waits (partOf at_waypoint_wait_waits 3) (le 64 0x10001000f00000105) = true) ∧
    (u8 (le 64 0x10001000f00000105) 1 = 1) ∧
    (NoWaitMet at_waypoint_wait_waits) ∧
    ((headStep at_waypoint_wait_waits 3 5).all (·.1.signal.isNone) = true) ∧
    (wpMet at_waypoint_wait_waits (u16 (le 64 0x10001000f00000105) 4) (u32 (le 64 0x10001000f00000105) 8) = false) ∧
    (nexts (exec (.waypointWait 3 9) at_waypoint_wait_waits) fun u => decide (u.wp.waits = [⟨0, 15, 1, 9, .step 3 0⟩]) = true) := by decide +kernel

/-- WaypointSignal: WaypointStepsWaitAndSignal. -/
theorem test_waypoint_signal_own :
    (isReady at_waypoint_signal_own = true) ∧
    (headStep at_waypoint_signal_own 3 5 = headOf at_waypoint_signal_own (le 64 0xffffffffffff000000000205)) ∧
    ((headStep at_waypoint_signal_own 3 5).isSome = true) ∧
    (3 < at_waypoint_signal_own.nextSid) ∧
    (wpStepOk at_waypoint_signal_own (partOf at_waypoint_signal_own 3) (le 64 0xffffffffffff000000000205) = true) ∧
    (u8 (le 64 0xffffffffffff000000000205) 1 = 2) ∧
    (NoWaitMet at_waypoint_signal_own) ∧
    ((headStep at_waypoint_signal_own 3 5).all (·.1.signal.isNone) = true) ∧
    (ownDev at_waypoint_signal_own (u16 (le 64 0xffffffffffff000000000205) 6) = true) ∧
    (at_waypoint_signal_own.wp.waits = []) ∧
    (nexts (exec (.waypointSignal 3 9) at_waypoint_signal_own) fun u => decide (wpVal u 0 = 0xFFFFFFFF) = true) := by decide +kernel

theorem test_waypoint_signal_far :
    (isReady at_waypoint_signal_far = true) ∧
    (headStep at_waypoint_signal_far 3 5 = headOf at_waypoint_signal_far (le 64 0x10003006300000205)) ∧
    ((headStep at_waypoint_signal_far 3 5).isSome = true) ∧
    (3 < at_waypoint_signal_far.nextSid) ∧
    (wpStepOk at_waypoint_signal_far (partOf at_waypoint_signal_far 3) (le 64 0x10003006300000205) = true) ∧
    (u8 (le 64 0x10003006300000205) 1 = 2) ∧
    (NoWaitMet at_waypoint_signal_far) ∧
    ((headStep at_waypoint_signal_far 3 5).all (·.1.signal.isNone) = true) ∧
    (ownDev at_waypoint_signal_far (u16 (le 64 0x10003006300000205) 6) = false) ∧
    (pickPort at_waypoint_signal_far (u16 (le 64 0x10003006300000205) 6) 0 = some 1) ∧
    (nexts (exec (.waypointSignal 3 9) at_waypoint_signal_far) fun u => decide (tget [] (port u 1).queues 0 = [(3, 0, .wpSignal 0 3 0 99 1)]) = true) := by decide +kernel

/-- RemoteWaypointSignal: RemoteSignalsAreAppliedAndAcknowledged. -/
theorem test_remote_signal :
    (pickPort devU 3 0 = some 1) ∧
    (devU.wp.waits = []) ∧
    (wpOwned devU 0 15 = true) ∧
    (isReady devU = true) ∧
    (nexts (exec (.remoteWaypointSignal 3 0 8 2 15 5 9) devU) fun u => decide (tget [] (port u 1).queues 0 = [(3, 0, .wpAck 8 2 .ok)]) = true) := by decide +kernel

/-- remote signal foreign, remote signal not ready. -/
theorem test_remoteWaypointSignal_clauses :
    ((pickPort devU 3 0 = some 1) ∧
    (devU.wp.waits = []) ∧
    (wpOwned devU 0 16 = false) ∧
    (isReady devU = true) ∧
    (nexts (exec (.remoteWaypointSignal 3 0 8 2 16 5 9) devU) fun u => decide (tget [] (port u 1).queues 0 = [(3, 0, .wpAck 8 2 .badDescriptor)]) = true)) ∧
    ((pickPort at_remote_signal_not_ready 3 0 = some 1) ∧
    (at_remote_signal_not_ready.wp.waits = []) ∧
    (isReady at_remote_signal_not_ready = false) ∧
    (nexts (exec (.remoteWaypointSignal 3 0 8 2 15 5 9) at_remote_signal_not_ready) fun u => decide (tget [] (port u 1).queues 0 = [(3, 0, .wpAck 8 2 .notReady)]) = true)) := by decide +kernel

/-- WaypointSignalAck: RemoteSignalsAreAppliedAndAcknowledged. -/
theorem test_signal_ack :
    ((stream at_signal_ack 3).map (fun x => (x.next, x.done, x.signal, stepKind (x.steps.getD 0 []))) = some (1, [], none, 5)) ∧
    (NoWaitMet at_signal_ack) ∧
    (nexts (exec (.waypointSignalAck 3 0 .ok) at_signal_ack) fun u => decide (stream u 3 = none) = true) := by decide +kernel

theorem test_signal_nak :
    ((stream at_signal_ack 3).map (fun x => (x.next, x.done, x.signal, stepKind (x.steps.getD 0 []))) = some (1, [], none, 5)) ∧
    (NoWaitMet at_signal_ack) ∧
    (nexts (exec (.waypointSignalAck 3 0 .badDescriptor) at_signal_ack) fun u => decide (stream u 3 = none) = true) := by decide +kernel

/-- WaypointWaitTimeout: RemoteSignalsAreAppliedAndAcknowledged. -/
theorem test_wait_timeout :
    (NoWaitMet at_wait_timeout) ∧
    (∀ e ∈ at_wait_timeout.streams, e.2.bind (·.signal) = none) ∧
    (nexts (exec (.waypointWaitTimeout 1000009) at_wait_timeout) fun u => decide (stream u 3 = none) = true) := by decide +kernel

theorem test_wait_timeout_early :
    (NoWaitMet at_wait_timeout) ∧
    (∀ e ∈ at_wait_timeout.streams, e.2.bind (·.signal) = none) ∧
    (nexts (exec (.waypointWaitTimeout 1000008) at_wait_timeout) fun u => decide (u.wp.waits.length = 1) = true) := by decide +kernel

/-- RunStream: OperationDescriptorsStartStreams. -/
theorem test_run_stream_malformed :
    (nextTaken (tick at_run_stream_malformed 9) 0 (fun b => dType b == 2) = some (tk bytes_run_stream_malformed)) ∧
    (isReady at_run_stream_malformed = true) ∧
    (regOpen at_run_stream_malformed 0 4 (oArgLen bytes_run_stream_malformed) = true) ∧
    ((part at_run_stream_malformed 0).cqWait = []) ∧
    (streamOk at_run_stream_malformed 0 bytes_run_stream_malformed = false) ∧
    (nexts (exec (.runStream 0 9 none) at_run_stream_malformed) fun u => decide (u.nextSid = 0) = true) := by decide +kernel

/-- run stream unread, run stream waits, run stream starts, run stream wait met. -/
theorem test_runStream_clauses :
    ((nextTaken (tick at_run_stream_unread 9) 0 (fun b => dType b == 2) = some (tk bytes_run_stream_unread)) ∧
    (isReady at_run_stream_unread = true) ∧
    (regOpen at_run_stream_unread 0 4 (oArgLen bytes_run_stream_unread) = true) ∧
    ((part at_run_stream_unread 0).cqWait = []) ∧
    (streamOk at_run_stream_unread 0 bytes_run_stream_unread = true) ∧
    ((oLen bytes_run_stream_unread != 0 && oArgLen bytes_run_stream_unread != 0) = true) ∧
    (nexts (exec (.runStream 0 9 none) at_run_stream_unread) = true)) ∧
    ((nextTaken (tick at_run_stream_waits 9) 0 (fun b => dType b == 2) = some (tk bytes_run_stream_waits)) ∧
    (isReady at_run_stream_waits = true) ∧
    (regOpen at_run_stream_waits 0 4 (oArgLen bytes_run_stream_waits) = true) ∧
    ((part at_run_stream_waits 0).cqWait = []) ∧
    (streamOk at_run_stream_waits 0 bytes_run_stream_waits = true) ∧
    (oWaitEn bytes_run_stream_waits = true) ∧
    (wpMet at_run_stream_waits (oWaitWp bytes_run_stream_waits) (oWaitVal bytes_run_stream_waits) = false) ∧
    (nexts (exec (.runStream 0 9 (some [1, 2])) at_run_stream_waits) fun u => decide (u.nextSid = 0 ∧ u.wp.waits.length = 1) = true)) ∧
    ((nextTaken (tick at_run_stream_starts 9) 0 (fun b => dType b == 2) = some (tk bytes_run_stream_starts)) ∧
    (isReady at_run_stream_starts = true) ∧
    (regOpen at_run_stream_starts 0 4 (oArgLen bytes_run_stream_starts) = true) ∧
    ((part at_run_stream_starts 0).cqWait = []) ∧
    (streamOk at_run_stream_starts 0 bytes_run_stream_starts = true) ∧
    (oWaitEn bytes_run_stream_starts = false) ∧
    (NoWaitMet at_run_stream_starts) ∧
    (oLen bytes_run_stream_starts ≠ 0) ∧
    (poisoned at_run_stream_starts (oAddr bytes_run_stream_starts) (oLen bytes_run_stream_starts) = false) ∧
    (kindOk (at_run_stream_starts.mem.read (oAddr bytes_run_stream_starts) 64) = true) ∧
    (nexts (exec (.runStream 0 9 none) at_run_stream_starts) fun u => decide (u.nextSid = 1) && decide ((stream u 0).map (fun y => (y.next, y.steps.length, y.signal)) = some (0, 1, some (3, 7))) = true)) ∧
    ((nextTaken (tick at_run_stream_wait_met 9) 0 (fun b => dType b == 2) = some (tk bytes_run_stream_wait_met)) ∧
    (isReady at_run_stream_wait_met = true) ∧
    (regOpen at_run_stream_wait_met 0 4 (oArgLen bytes_run_stream_wait_met) = true) ∧
    ((part at_run_stream_wait_met 0).cqWait = []) ∧
    (streamOk at_run_stream_wait_met 0 bytes_run_stream_wait_met = true) ∧
    (wpMet at_run_stream_wait_met (oWaitWp bytes_run_stream_wait_met) (oWaitVal bytes_run_stream_wait_met) = true) ∧
    (NoWaitMet at_run_stream_wait_met) ∧
    (oLen bytes_run_stream_wait_met ≠ 0) ∧
    (poisoned at_run_stream_wait_met (oAddr bytes_run_stream_wait_met) (oLen bytes_run_stream_wait_met) = false) ∧
    (kindOk (at_run_stream_wait_met.mem.read (oAddr bytes_run_stream_wait_met) 64) = true) ∧
    (nexts (exec (.runStream 0 9 (some [1, 2])) at_run_stream_wait_met) fun u => decide (u.nextSid = 1) && decide ((stream u 0).map (fun y => (y.next, y.steps.length, y.signal)) = some (0, 1, none)) = true)) := by decide +kernel

/-- run stream empty. -/
theorem test_runStream_clauses1 :
    ((nextTaken (tick at_run_stream_empty 9) 0 (fun b => dType b == 2) = some (tk bytes_run_stream_empty)) ∧
    (isReady at_run_stream_empty = true) ∧
    (regOpen at_run_stream_empty 0 4 (oArgLen bytes_run_stream_empty) = true) ∧
    ((part at_run_stream_empty 0).cqWait = []) ∧
    (streamOk at_run_stream_empty 0 bytes_run_stream_empty = true) ∧
    (oWaitEn bytes_run_stream_empty = false) ∧
    (NoWaitMet at_run_stream_empty) ∧
    (oLen bytes_run_stream_empty = 0) ∧
    (oSignalEn bytes_run_stream_empty = false) ∧
    (inArray at_run_stream_empty at_run_stream_empty.nextSid = false) ∧
    (poisoned at_run_stream_empty (oAddr bytes_run_stream_empty) 0 = false) ∧
    (nexts (exec (.runStream 0 9 none) at_run_stream_empty) fun u => decide (u.nextSid = 1 ∧ stream u 0 = none) = true)) := by decide +kernel

/-- ArcApply: ArcStepsWriteTheirRows. -/
theorem test_arc_apply :
    ((headStep at_arc_apply 3 2).isSome = true) ∧
    (CanRun at_arc_apply 3 2 1 25 28 arcOk (arcIns) ((stream at_arc_apply 3).getD noStream) bytes_arc_apply) ∧
    (slotUsable at_arc_apply 0 (aFunc bytes_arc_apply) = true) ∧
    ((arcFn (inCtx at_arc_apply 0) 0 (aFunc bytes_arc_apply)).isSome = true) ∧
    (nexts (exec (.arcApply 3) at_arc_apply) fun u => decide (u.mem.read 0x1000 8 = (le 8 0xc00000003f800000)) && decide (stream u 3 = none) = true) := by decide +kernel

theorem test_arc_apply_exp_mx :
    ((headStep at_arc_apply_exp_mx 3 2).isSome = true) ∧
    (CanRun at_arc_apply_exp_mx 3 2 1 25 28 arcOk (arcIns) ((stream at_arc_apply_exp_mx 3).getD noStream) bytes_arc_apply_exp_mx) ∧
    (slotUsable at_arc_apply_exp_mx 0 (aFunc bytes_arc_apply_exp_mx) = true) ∧
    ((arcFn (inCtx at_arc_apply_exp_mx 0) 0 (aFunc bytes_arc_apply_exp_mx)).isSome = true) := by decide +kernel

/-- ArcSoftmax: ArcStepsWriteTheirRows. -/
theorem test_arc_softmax :
    ((headStep at_arc_softmax 3 2).isSome = true) ∧
    (CanRun at_arc_softmax 3 2 2 25 28 arcOk (arcIns) ((stream at_arc_softmax 3).getD noStream) bytes_arc_softmax) ∧
    (nexts (exec (.arcSoftmax 3) at_arc_softmax) fun u => decide (stream u 3 = none) = true) := by decide +kernel

/-- ArcSoftmaxPart: ArcStepsWriteTheirRows. -/
theorem test_arc_softmax_part :
    ((headStep at_arc_softmax_part 3 2).isSome = true) ∧
    (CanRun at_arc_softmax_part 3 2 3 25 28 arcOk (arcIns) ((stream at_arc_softmax_part 3).getD noStream) bytes_arc_softmax_part) ∧
    (nexts (exec (.arcSoftmaxPart 3) at_arc_softmax_part) fun u => decide (stream u 3 = none) = true) := by decide +kernel

/-- ArcRowscale: ArcStepsWriteTheirRows. -/
theorem test_arc_rowscale :
    ((headStep at_arc_rowscale 3 2).isSome = true) ∧
    (CanRun at_arc_rowscale 3 2 4 25 28 arcOk (arcIns) ((stream at_arc_rowscale 3).getD noStream) bytes_arc_rowscale) ∧
    (nexts (exec (.arcRowscale 3) at_arc_rowscale) fun u => decide (u.mem.read 0x1000 8 = (le 8 0xc080000040000000)) && decide (u.mem.read 0x1040 8 = (le 8 0x3fc000003e800000)) && decide (stream u 3 = none) = true) := by decide +kernel

theorem test_arc_rowscale_final :
    ((headStep at_arc_rowscale_final 3 2).isSome = true) ∧
    (CanRun at_arc_rowscale_final 3 2 4 25 28 arcOk (arcIns) ((stream at_arc_rowscale_final 3).getD noStream) bytes_arc_rowscale_final) ∧
    (nexts (exec (.arcRowscale 3) at_arc_rowscale_final) fun u => decide (u.mem.read 0x1000 8 = List.replicate 8 0) && decide (u.mem.read 0x1040 8 = (le 8 0x3fc000003e800000)) && decide (stream u 3 = none) = true) := by decide +kernel

/-- ArcRmsnorm: ArcStepsWriteTheirRows. -/
theorem test_arc_rmsnorm :
    ((headStep at_arc_rmsnorm 3 2).isSome = true) ∧
    (CanRun at_arc_rmsnorm 3 2 5 25 28 arcOk (arcIns) ((stream at_arc_rmsnorm 3).getD noStream) bytes_arc_rmsnorm) ∧
    (nexts (exec (.arcRmsnorm 3) at_arc_rmsnorm) fun u => decide (stream u 3 = none) = true) := by decide +kernel

theorem test_arc_rmsnorm_gain :
    ((headStep at_arc_rmsnorm_gain 3 2).isSome = true) ∧
    (CanRun at_arc_rmsnorm_gain 3 2 5 25 28 arcOk (arcIns) ((stream at_arc_rmsnorm_gain 3).getD noStream) bytes_arc_rmsnorm_gain) ∧
    (nexts (exec (.arcRmsnorm 3) at_arc_rmsnorm_gain) fun u => decide (stream u 3 = none) = true) := by decide +kernel

/-- SextantSelect: SextantStepsSelectAndCompact. -/
theorem test_sextant_select :
    ((headStep at_sextant_select 3 3).isSome = true) ∧
    (CanRun at_sextant_select 3 3 1 23 24 sextantOk (sxIns) ((stream at_sextant_select 3).getD noStream) bytes_sextant_select) ∧
    (nexts (exec (.sextantSelect 3) at_sextant_select) fun u => decide (u.mem.read 0x2000 8 = le 4 1 ++ le 4 0) && decide (u.mem.read 0x1000 8 = le 4 0x3F800000 ++ le 4 0) && decide (stream u 3 = none) = true) := by decide +kernel

theorem test_sextant_select_ascending :
    ((headStep at_sextant_select_ascending 3 3).isSome = true) ∧
    (CanRun at_sextant_select_ascending 3 3 1 23 24 sextantOk (sxIns) ((stream at_sextant_select_ascending 3).getD noStream) bytes_sextant_select_ascending) ∧
    (nexts (exec (.sextantSelect 3) at_sextant_select_ascending) fun u => decide (u.mem.read 0x1000 8 = le 4 0xC0000000 ++ le 4 1) && decide (stream u 3 = none) = true) := by decide +kernel

/-- SextantCompact: SextantStepsSelectAndCompact. -/
theorem test_sextant_compact :
    ((headStep at_sextant_compact 3 3).isSome = true) ∧
    (CanRun at_sextant_compact 3 3 2 23 24 sextantOk (sxIns) ((stream at_sextant_compact 3).getD noStream) bytes_sextant_compact) ∧
    (nexts (exec (.sextantCompact 3) at_sextant_compact) fun u => decide (u.mem.read 0x2000 8 = le 4 1 ++ le 4 1) && decide (stream u 3 = none) = true) := by decide +kernel

/-- MoveCopy: MovesCopyAndTranspose. -/
theorem test_move_copy :
    ((headStep at_move_copy 3 6).isSome = true) ∧
    (CanRun at_move_copy 3 6 1 35 42 moveOk (moveSrc) ((stream at_move_copy 3).getD noStream) bytes_move_copy) ∧
    (memOpen (inCtx at_move_copy 0) 0 (mSrc bytes_move_copy) 64 = true ∧ memOpen (inCtx at_move_copy 0) 0 (mDst bytes_move_copy) 64 = true) ∧
    (ownDev at_move_copy (mDev bytes_move_copy) = true) ∧
    (nexts (exec (.moveCopy 3) at_move_copy) fun u => decide (u.mem.read 0x1000 8 = (le 8 0xc00000003f800000)) && decide (stream u 3 = none) = true) := by decide +kernel

/-- move copy hbm, move copy far. -/
theorem test_moveCopy_clauses :
    (((headStep at_move_copy_hbm 3 6).isSome = true) ∧
    (CanRun at_move_copy_hbm 3 6 1 35 42 moveOk (moveSrc) ((stream at_move_copy_hbm 3).getD noStream) bytes_move_copy_hbm) ∧
    (memOpen (inCtx at_move_copy_hbm 0) 0 (mSrc bytes_move_copy_hbm) 64 = true ∧ memOpen (inCtx at_move_copy_hbm 0) 0 (mDst bytes_move_copy_hbm) 64 = true) ∧
    (ownDev at_move_copy_hbm (mDev bytes_move_copy_hbm) = true) ∧
    (nexts (exec (.moveCopy 3) at_move_copy_hbm) fun u => decide (u.mem.read 1099511627776 8 = (le 8 0xc00000003f800000)) && decide (stream u 3 = none) = true)) ∧
    (((headStep at_move_copy_far 3 6).isSome = true) ∧
    (CanRun at_move_copy_far 3 6 1 35 42 moveOk moveSrc ((stream at_move_copy_far 3).getD noStream) bytes_move_copy_far) ∧
    (ownDev at_move_copy_far (mDev bytes_move_copy_far) = false) ∧
    (memOpen (inCtx at_move_copy_far 0) 0 (mSrc bytes_move_copy_far) 64 = true) ∧
    (pickPort at_move_copy_far (mDev bytes_move_copy_far) 6 = some 1) ∧
    (nexts (exec (.moveCopy 3) at_move_copy_far) fun u => decide ((tget [] (port u 1).queues 6).length = 1) = true)) := by decide +kernel

/-- MoveTranspose: MovesCopyAndTranspose. -/
theorem test_move_transpose :
    ((headStep at_move_transpose 3 6).isSome = true) ∧
    (CanRun at_move_transpose 3 6 2 35 42 moveOk (moveSrc) ((stream at_move_transpose 3).getD noStream) bytes_move_transpose) ∧
    (memOpen (inCtx at_move_transpose 0) 0 (mSrc bytes_move_transpose) 72 = true ∧ memOpen (inCtx at_move_transpose 0) 0 (mDst bytes_move_transpose) 72 = true) ∧
    (nexts (exec (.moveTranspose 3) at_move_transpose) fun u => decide (u.mem.read 0x1000 8 = (le 8 0x3f0000003f800000)) && decide (u.mem.read 0x1040 8 = (le 8 0x40400000c0000000)) && decide (stream u 3 = none) = true) := by decide +kernel

/-- FeatureUpdate: FeatureUpdateStepsSendTheirRecords. -/
theorem test_feature_update :
    ((headStep at_feature_update 3 4).isSome = true) ∧
    (tableFor at_feature_update (uTable bytes_feature_update) = some table12) ∧
    (CanRun at_feature_update 3 4 1 33 34 updateOk (fun b => [(uIn b, rowSpan (uCount b) (8 + 4 * rowElts table12) (uStride b))]) ((stream at_feature_update 3).getD noStream) bytes_feature_update) ∧
    (([0, 1, 2].all fun r => (shardOwners at_feature_update table12 (r % 2)).all fun d => reachable at_feature_update d) = true) ∧
    (nexts (exec (.featureUpdate 3 9) at_feature_update) fun u => decide (u.feat.contribs = [⟨12, 0, 1, 0, 0, [0x3F800000, 0]⟩]) && decide (tget [] (port u 1).queues 4 = [(3, 0, .update 3 0 ⟨12, 1, 1, 0, 1, [0, 0x3F800000]⟩)]) = true) := by decide +kernel

/-- One INT8 array step: the row [5, 6] at 0x3100 by the tile [[1, 2], [3, 4]] at 0x3000, to 0x4000. -/
def gemm : List Byte := (le 64 0x3f800000ffffffff0000000000000000000000000000000000000040000040000000004000003100000000400000000000003000000000010002000200002201)
def devG : State :=
  { withStream devU [gemm] with mem := ((Mem.write [] 0x3000 [1, 2]).write 0x3040 [3, 4]).write 0x3100 [5, 6] }
/-- The operation of that step; one of a table build; and the first as it entered, its input read. -/
def opG : ArrayOp := ⟨.step 3 0, gemm, [⟨0, 1, ⟨2, false, 1⟩⟩], false, 1, 2, 2, false, false, 0, 0, false, false, none⟩
def opB : ArrayOp := ⟨.build 10 0 1 0, [], [⟨0, 4, ⟨2, false, 1⟩⟩], false, 4, 32, 32, false, true, 0, 0, false, false, none⟩
def runG : OpRun := stepEntry devG opG 3 0 [0]
def opE : ArrayOp := { opG with paid := true, run := some runG }
def opP : ArrayOp := { opB with paid := true }
def withHelm (s : State) (f : Helm → Helm) : State := { s with helm := f s.helm }

/-- Context 9, with nothing in it, is resident, and OPQ_MAX is 128. -/
def devC : State :=
  let s := setReg devG rOPQ_MAX 128
  { s with obj := { s.obj with objs := s.obj.objs ++ [obj 10 9 14 (.context ⟨[], [], [4], [(0x10000000000, 0x8000, 64)]⟩)] } }
def devC9 : State := { withHelm devC fun h => { h with ctx := 9, dirty := [0x200] } with streams := [] }

def at_acceptance_build : State := { withHelm devC (fun h => { h with queue := [opB] }) with streams := [] }
def at_acceptance_swap : State := withHelm devC9 fun h => { h with queue := [opB] }
def at_acceptance_rerun : State := withHelm devG fun h => { h with rerun := [{ opG with rerun := true }] }
/-- A request at stage 3, and the stream the embedder's operations for it come in. -/
def at_acceptance_stream : State := withHelm (withReq devU (entry0 .front 3) (work0 descSearch)) fun h => { h with stopped := true }
def embed : ReqStream := ⟨0, 1, [(h0, 4)], [gemm], [], []⟩
def at_context_swap_out : State := (withHelm devC9 fun h => { h with swap := some (0, opB) })
def at_context_swap_in : State := (withHelm devC fun h => { h with swap := some (9, opB) })
def at_operation_complete : State := (withHelm (passHead devG 3) fun h => { h with issued := [opE, opP] })
def opT : ArrayOp := { opE with src := .build 10 0 1 0, step := [] }
def at_operation_complete_build : State := withHelm devG fun h => { h with issued := [opT] }
def at_operation_poisoned : State := withHelm (passHead devG 3) fun h => { h with issued := [{ opE with run := some { runG with bad := true } }] }
def at_operation_mismatch_twice : State := (withHelm (passHead devG 3) fun h => { h with issued := [{ opE with rerun := true }] })
def at_line_retirement_65 : State := (withHelm ({ devG with faults := { devG.faults with queue := [(clsBank, 3), (clsLine, 65), (clsLine, 8)] } }) fun h => { h with stopped := true })
def at_line_retirement_66 : State := (withHelm ({ devG with faults := { devG.faults with queue := [(clsBank, 3), (clsLine, 66), (clsLine, 8)] } }) fun h => { h with stopped := true })
def at_bank_retirement : State := ({ devG with faults := { devG.faults with queue := [(clsBank, 3), (clsLine, 8)] } })
def at_unit_copy_good : State := { devG with tiers := { devG.tiers with moves := [⟨1, 2, 0, 9, 0⟩, ⟨0, 5, 7, 9, 0⟩] } }
def at_unit_copy_last : State := { devG with tiers := { devG.tiers with moves := [⟨1, 2, 0, 9, 0⟩, ⟨0, 5, 8, 9, 0⟩] } }
def at_ramp_down : State := { devG with array := { devG.array with groups := 11, fill := true } }
def at_scrub_clean : State := ({ devG with tiers := { devG.tiers with scrub := [(2 * 512 * 16 + 511, 8191)] } })
def at_error_window : State := ({ devG with faults := { devG.faults with transient := [(errKey clsHbm 1, 2), (errKey clsLine 4, 1)], corrected := [(errKey clsHbm 1, 2), (errKey clsDie 4, 1)] } })
def at_board_write_back : State := ({ devG with tiers := { devG.tiers with cache := [(4, some 1), (5, some 2)], hot := [1] } })
/-- ArrayAcceptance: HelmIssuesOneOperation. -/
theorem test_acceptance_step :
    (isReady devC = true ∧ (∀ d ∈ List.range 15, domIs devC d .on = true)) ∧
    (devC.helm.swap = none ∧ NoWaitMet devC ∧ lastEntered devC = true) ∧
    (devC.helm.rerun = [] ∧ devC.helm.stopped = false) ∧
    (∀ p ∈ allParts, ∀ dec ∈ [false, true], (headOp devC p dec).bind (checkOp devC) = none) ∧
    ((choosePart (forEach (tick devC 9) allParts markBacklog)).bind (fun pc => chooseOp (forEach (tick devC 9) allParts markBacklog) pc.1 pc.2) = some opG) ∧
    (devC.helm.ctx = opG.ctx ∧ devC.helm.issued = []) ∧
    (nexts (exec (.arrayAcceptance 9 []) devC) fun u => decide (u.helm.issued = [opE] ∧ u.helm.seq = 1 ∧ (stream u 3).map (·.next) = some 1 ∧ u.array.groups = 11 ∧ u.array.ws = 1) = true) := by decide +kernel

/-- acceptance build, acceptance swap, acceptance rerun, acceptance stream, acceptance no stream. -/
theorem test_arrayAcceptance_clauses :
    ((isReady at_acceptance_build = true ∧ (∀ d ∈ List.range 15, domIs at_acceptance_build d .on = true)) ∧
    (at_acceptance_build.helm.swap = none ∧ NoWaitMet at_acceptance_build ∧ lastEntered at_acceptance_build = true) ∧
    (at_acceptance_build.helm.rerun = [] ∧ at_acceptance_build.helm.stopped = false) ∧
    (∀ p ∈ allParts, ∀ dec ∈ [false, true], (headOp at_acceptance_build p dec).bind (checkOp at_acceptance_build) = none) ∧
    ((choosePart (forEach (tick at_acceptance_build 9) allParts markBacklog)).bind (fun pc => chooseOp (forEach (tick at_acceptance_build 9) allParts markBacklog) pc.1 pc.2) = some opB) ∧
    (at_acceptance_build.helm.ctx = opB.ctx) ∧
    (nexts (exec (.arrayAcceptance 9 []) at_acceptance_build) fun u => decide (u.helm.issued.map unrun = [opP] ∧ u.helm.queue = []) = true)) ∧
    ((isReady at_acceptance_swap = true ∧ (∀ d ∈ List.range 15, domIs at_acceptance_swap d .on = true)) ∧
    (at_acceptance_swap.helm.swap = none ∧ NoWaitMet at_acceptance_swap ∧ lastEntered at_acceptance_swap = true) ∧
    (at_acceptance_swap.helm.rerun = [] ∧ at_acceptance_swap.helm.stopped = false) ∧
    (∀ p ∈ allParts, ∀ dec ∈ [false, true], (headOp at_acceptance_swap p dec).bind (checkOp at_acceptance_swap) = none) ∧
    ((choosePart (forEach (tick at_acceptance_swap 9) allParts markBacklog)).bind (fun pc => chooseOp (forEach (tick at_acceptance_swap 9) allParts markBacklog) pc.1 pc.2) = some opB) ∧
    (at_acceptance_swap.helm.ctx ≠ opB.ctx) ∧
    (nexts (exec (.arrayAcceptance 9 []) at_acceptance_swap) fun u => decide (u.helm.swap = some (0, opB) ∧ u.helm.issued = []) = true)) ∧
    ((isReady at_acceptance_rerun = true ∧ (∀ d ∈ List.range 15, domIs at_acceptance_rerun d .on = true)) ∧
    (at_acceptance_rerun.helm.swap = none ∧ NoWaitMet at_acceptance_rerun ∧ lastEntered at_acceptance_rerun = true) ∧
    (at_acceptance_rerun.helm.rerun = [{ opG with rerun := true }] ∧ at_acceptance_rerun.helm.ctx = opG.ctx) ∧
    (nexts (exec (.arrayAcceptance 9 []) at_acceptance_rerun) fun u => decide (u.helm.issued = [{ opE with rerun := true }] ∧ u.helm.rerun = []) = true)) ∧
    ((isReady at_acceptance_stream = true ∧ NoWaitMet at_acceptance_stream ∧ at_acceptance_stream.helm.stopped = true ∧ at_acceptance_stream.helm.rerun = []) ∧
    ((embed.hs.filter fun h => (rankHere at_acceptance_stream h.1).isSome && streamDue at_acceptance_stream 0 h.1) = [(h0, 4)]) ∧
    ((reqModel at_acceptance_stream embed [(h0, 4)]).map (·.uid) = some 1 ∧ kindOk (embed.steps.getD 0 []) = true) ∧
    (nexts (exec (.arrayAcceptance 9 [embed]) at_acceptance_stream) fun u => decide ((stream u 0).map (fun y => (y.steps, y.req)) = some ([gemm], some ⟨0, 1, [(h0, 4)], [], [], u.lb.order⟩)) = true)) ∧
    ((reqModel at_acceptance_stream { embed with model := 2 } [(h0, 4)] = none) ∧
    (nexts (exec (.arrayAcceptance 9 [{ embed with model := 2 }]) at_acceptance_stream) fun u => decide (u.streams = []) = true)) := by decide +kernel

/-- ContextSwap: HelmIssuesOneOperation. -/
theorem test_context_swap_out :
    (isReady at_context_swap_out = true ∧ (∀ d ∈ List.range 15, domIs at_context_swap_out d .on = true)) ∧
    (at_context_swap_out.helm.swap = some (0, opB)) ∧
    (at_context_swap_out.helm.issued = [] ∧ at_context_swap_out.helm.rerun = [] ∧ ctxBad at_context_swap_out 0 = false) ∧
    (∀ e ∈ at_context_swap_out.lb.work, e.2.featRows = [] ∨ e.2.featCtx ≠ 0) ∧
    (nexts (exec (.contextSwap 9 50000) at_context_swap_out) fun u => decide (u.helm.ctx = 0 ∧ u.helm.swap = none ∧ u.helm.issued.map unrun = [opP] ∧ u.helm.dirty = []) = true) := by decide +kernel

theorem test_context_swap_in :
    (isReady at_context_swap_in = true ∧ (∀ d ∈ List.range 15, domIs at_context_swap_in d .on = true)) ∧
    (at_context_swap_in.helm.swap = some (9, opB)) ∧
    (at_context_swap_in.helm.issued = [] ∧ ctxBad at_context_swap_in 9 = false) ∧
    ((ctxOf at_context_swap_in 9).isSome = true) ∧
    (nexts (exec (.contextSwap 9 50000) at_context_swap_in) fun u => decide (u.helm.ctx = 9 ∧ u.helm.swap = none ∧ u.helm.issued.map unrun = [opP] ∧ u.helm.dirty = []) = true) := by decide +kernel

/-- R409: the array is switched off while a swap waits: the step of stream 3 it was for ends DOMAIN_OFF. -/
def at_context_swap_off : State :=
  let s := withHelm (passHead devG 3) fun h => { h with swap := some (9, { opG with ctx := 9 }) }
  { s with power := { s.power with doms := tset Dom.reset s.power.doms 4 ⟨false, .off, false⟩ } }
theorem test_context_swap_off :
    (isReady at_context_swap_off = true ∧ arrayUp at_context_swap_off = false ∧ NoWaitMet at_context_swap_off) ∧
    (at_context_swap_off.helm.swap = some (9, { opG with ctx := 9 }) ∧ at_context_swap_off.helm.issued = [] ∧ opG.rerun = false) ∧
    ((stream at_context_swap_off 3).map (fun x => (x.req, x.ended)) = some (none, none)) ∧
    (nexts (exec (.contextSwap 9 50000) at_context_swap_off) fun u => decide (u.helm.swap = none ∧ u.helm.issued = [] ∧ u.helm.ctx = at_context_swap_off.helm.ctx ∧ stream u 3 = none) = true) := by decide +kernel

/-- OperationComplete: ArrayResultsAreWrittenOrReexecuted. -/
theorem test_operation_complete :
    (isReady at_operation_complete = true) ∧
    (at_operation_complete.helm.issued = [opE, opP]) ∧
    (mismatch ⟨[], [], []⟩ (verdict opE runG ⟨[], [], []⟩ (drainRows runG ⟨[], [], []⟩)) = false) ∧
    ((stream at_operation_complete 3).map (fun x => (x.ended, x.req)) = some (none, none)) ∧
    ((stream at_operation_complete 3).map (fun x => (x.signal, x.next, x.steps.length)) = some (none, 1, 1)) ∧
    (NoWaitMet at_operation_complete ∧ runG.bad = false) ∧
    (3 < at_operation_complete.nextSid) ∧
    (nexts (exec (.operationComplete 9 ⟨[], [], []⟩ 0 0) at_operation_complete) fun u => decide (u.mem.read 0x4000 8 = le 4 0x41B80000 ++ le 4 0x42080000) = true) := by decide +kernel

/-- operation complete build, operation poisoned, operation mismatch, operation mismatch twice. -/
theorem test_operationComplete_clauses :
    ((isReady at_operation_complete_build = true) ∧
    (at_operation_complete_build.helm.issued = [opT] ∧ opT.run = some runG) ∧
    (mismatch ⟨[], [], []⟩ (verdict opT runG ⟨[], [], []⟩ (drainRows runG ⟨[], [], []⟩)) = false) ∧
    (ofStep opT = false) ∧
    (nexts (exec (.operationComplete 9 ⟨[], [], []⟩ 0 0) at_operation_complete_build) fun u => decide (u.helm.issued = []) = true)) ∧
    ((isReady at_operation_poisoned = true) ∧
    (mismatch ⟨[], [], []⟩ (verdict opE { runG with bad := true } ⟨[], [], []⟩ (drainRows runG ⟨[], [], []⟩)) = false) ∧
    ((stream at_operation_poisoned 3).map (fun x => (x.ended, x.req)) = some (none, none) ∧ NoWaitMet at_operation_poisoned) ∧
    (nexts (exec (.operationComplete 9 ⟨[], [], []⟩ 0 0) at_operation_poisoned) fun u => decide (stream u 3 = none ∧ u.mem = at_operation_poisoned.mem) = true)) ∧
    ((isReady at_operation_complete = true) ∧
    (mismatch ⟨[7], [], []⟩ (verdict opE runG ⟨[7], [], []⟩ (drainRows runG ⟨[7], [], []⟩)) = true) ∧
    (opE.rerun = false) ∧
    (nexts (exec (.operationComplete 9 ⟨[7], [], []⟩ 0 0) at_operation_complete) fun u => decide (u.helm.rerun = [{ opG with rerun := true }, opP] ∧ u.helm.issued = []) = true)) ∧
    ((isReady at_operation_mismatch_twice = true) ∧
    (at_operation_mismatch_twice.helm.issued = [{ opE with rerun := true }]) ∧
    (mismatch ⟨[], [(0, 1, 0x42640000)], []⟩ (verdict opE runG ⟨[], [(0, 1, 0x42640000)], []⟩ (drainRows runG ⟨[], [(0, 1, 0x42640000)], []⟩)) = true) ∧
    (chargedLines at_operation_mismatch_twice ⟨[], [(0, 1, 0x42640000)], []⟩ (verdict opE runG ⟨[], [(0, 1, 0x42640000)], []⟩ (drainRows runG ⟨[], [(0, 1, 0x42640000)], []⟩)) = [66]) ∧
    ((stream at_operation_mismatch_twice 3).map (fun x => (x.ended, x.req)) = some (none, none) ∧ NoWaitMet at_operation_mismatch_twice) ∧
    (nexts (exec (.operationComplete 9 ⟨[], [(0, 1, 0x42640000)], []⟩ 0 0) at_operation_mismatch_twice) fun u => decide (66 ∈ u.array.suspect) && decide (stream u 3 = none) = true)) := by decide +kernel

/-- BlockLineRetirement: RetirementsTakeTheirSpares. -/
theorem test_line_retirement_65 :
    (declared at_line_retirement_65 clsLine = 65 :: [8]) ∧
    (at_line_retirement_65.helm.stopped = true ∧ at_line_retirement_65.helm.issued = [] ∧ at_line_retirement_65.helm.rerun = []) ∧
    (nexts (exec (.blockLineRetirement 9) at_line_retirement_65) fun u => decide (u.array.rowSpare = some 65) = true) := by decide +kernel

theorem test_line_retirement_66 :
    (declared at_line_retirement_66 clsLine = 66 :: [8]) ∧
    (at_line_retirement_66.helm.stopped = true ∧ at_line_retirement_66.helm.issued = [] ∧ at_line_retirement_66.helm.rerun = []) ∧
    (nexts (exec (.blockLineRetirement 9) at_line_retirement_66) fun u => decide (u.array.colSpare = some 66) = true) := by decide +kernel

/-- BankRetirement: RetirementsTakeTheirSpares. -/
theorem test_bank_retirement :
    ((declared at_bank_retirement clsBank).head? = some 3) ∧
    (logicalBank at_bank_retirement 3 = some 3) ∧
    (nexts (exec (.bankRetirement 3 9 [5]) at_bank_retirement) fun u => decide (u.tiers.banks = [3] ∧ u.tiers.bankMap = [(3, 4096)] ∧ u.tiers.poison.length = 8) = true) := by decide +kernel

/-- UnitCopy: RetirementsTakeTheirSpares. -/
theorem test_unit_copy_good :
    ((at_unit_copy_good.tiers.moves.find? (·.tier == 0)) = some ⟨0, 5, 7, 9, 0⟩) ∧
    (nexts (exec (.unitCopy 0 5 9 true) at_unit_copy_good) fun u => decide (u.tiers.moves = [⟨1, 2, 0, 9, 0⟩, ⟨0, 5, 8, 9, 0⟩] ∧ u.tiers.poison = []) = true) := by decide +kernel

/-- unit copy bad, unit copy last. -/
theorem test_unitCopy_clauses :
    (((at_unit_copy_good.tiers.moves.find? (·.tier == 0)) = some ⟨0, 5, 7, 9, 0⟩) ∧
    (nexts (exec (.unitCopy 0 5 9 false) at_unit_copy_good) fun u => decide (u.tiers.poison.length = 8) = true)) ∧
    (((at_unit_copy_last.tiers.moves.find? (·.tier == 0)) = some ⟨0, 5, 8, 9, 0⟩) ∧
    (nexts (exec (.unitCopy 0 5 9 true) at_unit_copy_last) fun u => decide ((0, 5) ∈ u.tiers.retired ∧ u.tiers.moves = [⟨1, 2, 0, 9, 0⟩]) = true)) := by decide +kernel

/-- ArrayRampDown: RetirementsTakeTheirSpares. -/
theorem test_ramp_down :
    (at_ramp_down.helm.issued = [] ∧ at_ramp_down.array.groups ≠ 0 ∧ at_ramp_down.array.lastAt + arrNs at_ramp_down 512 ≤ 5000000) ∧
    (nexts (exec (.arrayRampDown 5000000 3) at_ramp_down) fun u => decide (u.array.groups = 8 ∧ u.array.fill = false) = true) := by decide +kernel

/-- ScrubAccess: ScrubWindowsAndTheBoardCache. -/
theorem test_scrub_clean :
    (2 < 3) ∧
    (tget 0 at_scrub_clean.faults.corrected (errKey (memCls 2) 511) < correctedLimit (memCls 2)) ∧
    (scrubbed at_scrub_clean 2 511 = true ∧ scrubUnits at_scrub_clean 2 511 ≤ tget 0 at_scrub_clean.tiers.scrub (2 * 512 * 16 + 511) + 1) ∧
    (nexts (exec (.scrubAccess 2 511 9 .clean false) at_scrub_clean) fun u => decide (tget 0 u.tiers.scrub (2 * 512 * 16 + 511) = 0) = true) := by decide +kernel

/-- scrub corrected, scrub uncorrectable, scrub overwritten, scrub hbm. -/
theorem test_scrubAccess_clauses :
    ((2 < 3) ∧
    (tget 0 at_scrub_clean.faults.corrected (errKey (memCls 2) 511) < correctedLimit (memCls 2)) ∧
    (scrubbed at_scrub_clean 2 511 = true ∧ scrubUnits at_scrub_clean 2 511 ≤ tget 0 at_scrub_clean.tiers.scrub (2 * 512 * 16 + 511) + 1) ∧
    (nexts (exec (.scrubAccess 2 511 9 .corrected false) at_scrub_clean) fun u => decide (tget 0 u.tiers.scrub (2 * 512 * 16 + 511) = 0) = true)) ∧
    ((2 < 3) ∧
    (tget 0 at_scrub_clean.faults.corrected (errKey (memCls 2) 511) < correctedLimit (memCls 2)) ∧
    (scrubbed at_scrub_clean 2 511 = true ∧ scrubUnits at_scrub_clean 2 511 ≤ tget 0 at_scrub_clean.tiers.scrub (2 * 512 * 16 + 511) + 1) ∧
    (nexts (exec (.scrubAccess 2 511 9 .uncorrectable false) at_scrub_clean) fun u => decide (tget 0 u.tiers.scrub (2 * 512 * 16 + 511) = 0) && decide (scrubUnit at_scrub_clean 2 511 8191 ∈ u.tiers.poison) = true)) ∧
    ((2 < 3) ∧
    (tget 0 at_scrub_clean.faults.corrected (errKey (memCls 2) 511) < correctedLimit (memCls 2)) ∧
    (scrubbed at_scrub_clean 2 511 = true ∧ scrubUnits at_scrub_clean 2 511 ≤ tget 0 at_scrub_clean.tiers.scrub (2 * 512 * 16 + 511) + 1) ∧
    (nexts (exec (.scrubAccess 2 511 9 .uncorrectable true) at_scrub_clean) fun u => decide (tget 0 u.tiers.scrub (2 * 512 * 16 + 511) = 0) = true)) ∧
    ((scrubbed devG 0 255 = true) ∧
    (nexts (exec (.scrubAccess 0 255 9 .clean false) devG) fun u => decide (tget 0 u.tiers.scrub 255 = 1) = true)) := by decide +kernel

/-- ErrorWindowBoundary: ScrubWindowsAndTheBoardCache. -/
theorem test_error_window :
    (nexts (exec (.errorWindowBoundary 24 9) at_error_window) fun u => decide (u.faults.transient = [(errKey clsLine 4, 1)] ∧ u.faults.corrected = [(errKey clsHbm 1, 2)]) = true) := by decide +kernel

/-- BoardWriteBack: ScrubWindowsAndTheBoardCache. -/
theorem test_board_write_back :
    (nexts (exec (.boardWriteBack 4 9 false) at_board_write_back) fun u => decide (u.tiers.cache = [(4, none), (5, some 2)]) = true) := by decide +kernel

theorem test_board_evict :
    (nexts (exec (.boardWriteBack 4 9 true) at_board_write_back) fun u => decide (u.tiers.cache = [(5, some 2)]) = true) := by decide +kernel

/-- StackTemperatureReport: ScrubWindowsAndTheBoardCache. -/
theorem test_stack_hot :
    (nexts (exec (.stackTemperatureReport 2 86 [(2, 3)]) at_board_write_back) fun u => decide (2 ∈ u.tiers.hot ∧ 1 ∈ u.tiers.hot) = true) := by decide +kernel

theorem test_stack_cool :
    (nexts (exec (.stackTemperatureReport 1 85 []) at_board_write_back) fun u => decide (u.tiers.hot = []) = true) := by decide +kernel

/-- Index 10: four items of two BF16 dimensions, PQ codes of one sub-quantiser, a graph of degree 2, entries 0 and 1.
Item 2's list names an item past the last. Index 11: the same vectors with 8-bit sketches. -/
def headG : IndexHeader := ⟨4, 2, 0, 4, 1, 8, 2, 8, 0, 0, 31, 32, 33, 0, 34, 0, 0, 0, [0, 1]⟩
def headS : IndexHeader := ⟨4, 2, 0, 0, 0, 8, 0, 8, 8, 0, 0, 42, 0, 43, 44, 0, 0, 0, []⟩
def bodyVec : List Byte := (le 256 0x3f8040400000000000000000000000000000000000000000000000000000000000000000000000000000000000000000000000000000000000000000000000003f8040000000000000000000000000000000000000000000000000000000000000000000000000000000000000000000000000000000000000000000000000003f803f800000000000000000000000000000000000000000000000000000000000000000000000000000000000000000000000000000000000000000000000003f800000)
def secObj (id sec idx stride uid : Nat) (b : List Byte) : Obj := obj 3 id uid (.index ⟨sec, idx, 4, stride, none, 0, [], b⟩)
def indexes : List Obj :=
  [obj 3 10 50 (.index ⟨1, 10, 4, 0, some headG, 0, [], []⟩), secObj 31 2 10 64 51 (le 256 0x200000001000000000000000000000000000000000000000000000000000000000000000000000000000000000000000000000000000000000000000000000009000000000000000000000000000000000000000000000000000000000000000000000000000000000000000000000000000000000000000000000000ffffffff0000000300000000000000000000000000000000000000000000000000000000000000000000000000000000000000000000000000000000000000000000000200000001),
   secObj 32 3 10 4 52 (le 64 0x3f8040403f8040003f803f803f8000003f8040403f8040003f803f803f8000003f8040403f8040003f803f803f8000003f8040403f8040003f803f803f800000), secObj 33 4 10 64 53 (le 256 0x3000000000000000000000000000000000000000000000000000000000000000000000000000000000000000000000000000000000000000000000000000000020000000000000000000000000000000000000000000000000000000000000000000000000000000000000000000000000000000000000000000000000000000100000000000000000000000000000000000000000000000000000000000000000000000000000000000000000000000000000000000000000000000000000000), secObj 34 6 10 64 54 bodyVec,
   obj 3 11 60 (.index ⟨1, 11, 4, 0, some headS, 0, [], []⟩), secObj 42 3 11 4 62 (le 32 0x3f800000bf8000003f800000bf8000003f800000bf8000003f800000bf80),
   secObj 43 5 11 1 63 (le 4 0x10fff00), secObj 44 6 11 64 64 bodyVec]
def devQ : State := { devU with obj := { devU.obj with objs := devU.obj.objs ++ indexes, places := [⟨.image 54, 0x10000000000, 0x1000⟩] } }
def fan (index rerank : Nat) : FanOut := ⟨h0, 1, ⟨2, false, 1⟩, index, 2, 4, 9, 2, rerank, 100, 10, 0, [0x3F800000, 0]⟩
def query (index rerank : Nat) (st : QuerySt) : Query :=
  { f := fan index rerank, arrived := 0, st := st, batch := 0, refs := [50, 51, 52, 53, 54, 60, 62, 63, 64], q := [0x3F800000, 0],
    table := (List.range 16).map fun i => ((i % 4 : Nat) : Int), texp := 0, sketch := 0xAA, cand := [], res := [], visited := [], evals := 0,
    col := 0, built := [], scanAt := 0, retry := [], bad := 0, subs := 0, stopAt := 0, wait := [], scored := [] }
def withQueries (l : List Query) : State := { devQ with bearing := { devQ.bearing with queries := l } }

def at_batch_issue_table : State := withQueries [query 10 2 .gathering]
/-- Queries whose table build is complete: FP32 results 0, 1, 2, 3 for each group of four centroids, or -1 and 1 in turn for
eight sketch bits. -/
def builtTable : Query := { query 10 2 .building with built := [(0, (List.range 16).map fun i => [0, 0x3F800000, 0x40000000, 0x40400000].getD (i % 4) 0)] }
def builtSketch : Query := { query 11 2 .building with built := [(0, (List.range 8).map fun i => [0xBF800000, 0x3F800000].getD (i % 2) 0)], sketch := 0 }
def at_write_table : State := withQueries [builtTable]
def at_batch_issue_sketch : State := withQueries [query 11 2 .gathering]
def at_write_sketch : State := withQueries [builtSketch]
def at_walk_start : State := withQueries [query 10 2 .built]
def theQuery_walk_expansion : Query := { query 10 2 .walking with cand := [⟨2, 2, false⟩, ⟨1, 1, false⟩], res := [⟨2, 2, false⟩, ⟨1, 1, false⟩], visited := insertNat (visitBit headG 1) [visitBit headG 2], evals := 2 : Query }
def at_walk_expansion : State := withQueries [theQuery_walk_expansion]
def theQuery_walk_ends : Query := { theQuery_walk_expansion with f := { (fan 10 2) with evalMax := 3 } }
def at_walk_ends : State := withQueries [theQuery_walk_ends]
def theQuery_walk_stop : Query := { query 10 2 .walking with cand := [⟨2, 2, false⟩, ⟨1, 1, false⟩], res := [⟨2, 2, false⟩, ⟨1, 1, false⟩], visited := insertNat (visitBit headG 1) [visitBit headG 2], evals := 9 : Query }
def at_walk_stop : State := withQueries [theQuery_walk_stop]
def at_neighbour_list : State := ({ withQueries [theQuery_walk_stop] with bearing := { (withQueries [theQuery_walk_stop]).bearing with lines := [⟨h0, 0, 1, 1, 0, false⟩] } })
def at_prefetch_ageing : State := ({ withQueries [({ query 10 2 .walking with cand := [⟨2, 2, false⟩, ⟨1, 1, false⟩], res := [⟨2, 2, false⟩, ⟨1, 1, false⟩], visited := insertNat (visitBit headG 1) [visitBit headG 2], evals := 9 : Query })] with bearing := { (withQueries [({ query 10 2 .walking with cand := [⟨2, 2, false⟩, ⟨1, 1, false⟩], res := [⟨2, 2, false⟩, ⟨1, 1, false⟩], visited := insertNat (visitBit headG 1) [visitBit headG 2], evals := 9 : Query })]).bearing with lines := [⟨h0, 0, 1, 1, 0, false⟩] } })
def theQuery_vector_arrival : Query := { query 10 2 .rerank with res := [⟨3, 3, true⟩, ⟨1, 1, true⟩], wait := [3, 1], scored := [] : Query }
def at_vector_arrival : State := ({ withQueries [theQuery_vector_arrival] with lists := [(0, h0)], tiers := { devQ.tiers with reads := [⟨0, h0, 3, 100000⟩] } })
def theQuery_vector_arrival_last : Query := { query 10 2 .rerank with res := [⟨3, 3, true⟩, ⟨1, 1, true⟩], wait := [3], scored := [⟨1, 0x3F800000, 1⟩] : Query }
def at_vector_arrival_last : State := ({ withQueries [theQuery_vector_arrival_last] with lists := [(0, h0)], tiers := { devQ.tiers with reads := [⟨0, h0, 3, 100000⟩] } })
def at_sketch_scan : State := withQueries [query 11 2 .built, { query 11 0 .built with f := { fan 11 0 with handle := ⟨1, 0, 1, 1⟩ } }]
/-- QueryFanOut: QueriesGatherIntoBatches. -/
theorem test_query_fan_out :
    (isReady devQ = true ∧ bearingUp devQ = true ∧ arrayUp devQ = true) ∧
    ((indexHeader devQ 10).isSome = true ∧ (indexNeeds devQ 10).isSome = true ∧ filterNeeds devQ 0 10 = some []) ∧
    (nexts (exec (.queryFanOut (fan 10 2) 9) devQ) fun u => decide (u.bearing.queries.map (fun q => (q.f, q.st, q.arrived, q.refs)) = [(fan 10 2, .gathering, 9, [50, 51, 52, 53, 54])]) = true) := by decide +kernel

/-- TableBatchIssue: QueriesGatherIntoBatches. -/
theorem test_batch_issue_table :
    (isReady at_batch_issue_table = true) ∧
    (gathering at_batch_issue_table 10 0 = [query 10 2 .gathering]) ∧
    (qHeader at_batch_issue_table (query 10 2 .gathering) = some headG) ∧
    (batchDue (tick at_batch_issue_table 10000) headG [query 10 2 .gathering] = true) ∧
    (nexts (exec (.tableBatchIssue 10 0 10000) at_batch_issue_table) fun u => decide (u.bearing.queries.map (fun q => (q.st, q.batch)) = [(.building, 1)]) = true) := by decide +kernel

theorem test_batch_issue_sketch :
    (isReady at_batch_issue_sketch = true) ∧
    (gathering at_batch_issue_sketch 11 0 = [query 11 2 .gathering]) ∧
    (qHeader at_batch_issue_sketch (query 11 2 .gathering) = some headS) ∧
    (batchDue (tick at_batch_issue_sketch 10000) headS [query 11 2 .gathering] = true) ∧
    (nexts (exec (.tableBatchIssue 11 0 10000) at_batch_issue_sketch) fun u => decide (u.bearing.queries.map (fun q => (q.st, q.batch)) = [(.building, 1)]) = true) := by decide +kernel

theorem test_write_table :
    (isReady at_write_table = true) ∧
    (queryOf at_write_table h0 = some builtTable ∧ builtTable.st = .building) ∧
    (batchRunning at_write_table 0 = false) ∧
    (qHeader at_write_table builtTable = some headG ∧ (heldObj at_write_table builtTable.refs 3 headG.codebookObj).isSome = true) ∧
    (headG.sketchBits = 0 ∧ headG.metric ≠ 1) ∧
    (∀ v ∈ (tableVals headG (secBody (qSection at_write_table builtTable 32)) (builtVals headG builtTable)).map dec32, v.isFin = true) ∧
    (nexts (exec (.distanceTableWrite h0) at_write_table) fun u => decide (u.bearing.queries.map (fun q => (q.st, q.table.take 4, q.texp)) = [(.built, [0, 8192, 16384, 24576], -13)]) = true) := by decide +kernel

theorem test_write_sketch :
    (isReady at_write_sketch = true) ∧
    (queryOf at_write_sketch h0 = some builtSketch ∧ builtSketch.st = .building) ∧
    (batchRunning at_write_sketch 0 = false) ∧
    (qHeader at_write_sketch builtSketch = some headS ∧ (heldObj at_write_sketch builtSketch.refs 3 headS.codebookObj).isSome = true) ∧
    (headS.sketchBits ≠ 0) ∧
    (nexts (exec (.distanceTableWrite h0) at_write_sketch) fun u => decide (u.bearing.queries.map (fun q => (q.st, q.sketch)) = [(.built, 0xAA)]) = true) := by decide +kernel

/-- WalkStart: WalksExpandAndPrefetch. -/
theorem test_walk_start :
    (isReady at_walk_start = true ∧ bearingUp at_walk_start = true) ∧
    (nextWalk at_walk_start = some (query 10 2 .built)) ∧
    (qHeader at_walk_start (query 10 2 .built) = some headG) ∧
    (activeWalks at_walk_start < walkSlots headG) ∧
    (let used := usesOf at_walk_start (query 10 2 .built) headG (evaluated at_walk_start headG { query 10 2 .built with f := { (query 10 2 .built).f with evalMax := 2 ^ 32 } } headG.entries)
     readsOpen at_walk_start 0 (readsOf at_walk_start (query 10 2 .built) headG used) = true ∧ readsBad at_walk_start (readsOf at_walk_start (query 10 2 .built) headG used) = false) ∧
    (nexts (exec (.walkStart h0 none) at_walk_start) fun u => decide ((u.bearing.queries.flatMap fun q => q.cand.map (·.item)) = [1, 0]) && decide (u.bearing.lines.map (·.item) = [1, 0]) = true) := by decide +kernel

/-- WalkExpansion: WalksExpandAndPrefetch. -/
theorem test_walk_expansion :
    (isReady at_walk_expansion = true ∧ bearingUp at_walk_expansion = true) ∧
    (queryOf at_walk_expansion h0 = some theQuery_walk_expansion) ∧
    (qHeader at_walk_expansion theQuery_walk_expansion = some headG) ∧
    (theQuery_walk_expansion.cand.find? (fun e => !e.expanded) = some ⟨2, 2, false⟩ ∧ theQuery_walk_expansion.evals < theQuery_walk_expansion.f.evalMax) ∧
    (let q1 : Query := { theQuery_walk_expansion with cand := [⟨2, 2, true⟩, ⟨1, 1, false⟩] }
     let ns := neighbours at_walk_expansion q1 headG 2
     let used := (0, 2) :: usesOf at_walk_expansion q1 headG (evaluated at_walk_expansion headG q1 ns)
     readsOpen at_walk_expansion 0 (readsOf at_walk_expansion theQuery_walk_expansion headG (onDemand at_walk_expansion h0 used)) = true ∧ readsBad at_walk_expansion (readsOf at_walk_expansion theQuery_walk_expansion headG used) = false ∧
       (expandList at_walk_expansion headG q1 ns).evals < 9) ∧
    (nexts (exec (.walkExpansion h0 9 none) at_walk_expansion) fun u => decide (u.bearing.queries.map (fun q => (q.evals, q.bad, q.cand)) = [(3, 1, [⟨2, 2, true⟩, ⟨1, 1, false⟩, ⟨0, 0, false⟩])]) = true) := by decide +kernel

/-- walk expansion lane, walk stop. -/
theorem test_walkExpansion_clauses :
    ((isReady at_walk_expansion = true ∧ bearingUp at_walk_expansion = true) ∧
    (queryOf at_walk_expansion h0 = some theQuery_walk_expansion) ∧
    (qHeader at_walk_expansion theQuery_walk_expansion = some headG) ∧
    (theQuery_walk_expansion.cand.find? (fun e => !e.expanded) = some ⟨2, 2, false⟩ ∧ theQuery_walk_expansion.evals < theQuery_walk_expansion.f.evalMax) ∧
    (let q1 : Query := { theQuery_walk_expansion with cand := [⟨2, 2, true⟩, ⟨1, 1, false⟩] }
     let ns := neighbours at_walk_expansion q1 headG 2
     let used := (0, 2) :: usesOf at_walk_expansion q1 headG (evaluated at_walk_expansion headG q1 ns)
     readsOpen at_walk_expansion 0 (readsOf at_walk_expansion theQuery_walk_expansion headG (onDemand at_walk_expansion h0 used)) = true ∧ readsBad at_walk_expansion (readsOf at_walk_expansion theQuery_walk_expansion headG used) = false ∧
       (expandList at_walk_expansion headG q1 ns).evals < 9) ∧
    (nexts (exec (.walkExpansion h0 9 (some 5)) at_walk_expansion) fun u => decide (u.bearing.queries.map (fun q => (q.evals, q.bad, q.cand)) = [(3, 1, [⟨2, 2, true⟩, ⟨1, 1, false⟩, ⟨0, 0, false⟩])]) = true)) ∧
    ((isReady at_walk_stop = true ∧ bearingUp at_walk_stop = true) ∧
    (queryOf at_walk_stop h0 = some theQuery_walk_stop) ∧
    (qHeader at_walk_stop theQuery_walk_stop = some headG) ∧
    (theQuery_walk_stop.f.evalMax ≤ theQuery_walk_stop.evals ∧ rerankCount headG theQuery_walk_stop.f ≠ 0 ∧ theQuery_walk_stop.res ≠ []) ∧
    (nexts (exec (.walkExpansion h0 9 none) at_walk_stop) fun u => decide (u.bearing.queries.map (fun q => (q.st, q.wait)) = [(.rerank, [2, 1])]) = true)) := by decide +kernel

/-- The last evaluation allowed ends the walk, and its exact re-rank begins. -/
theorem test_walk_ends :
    (isReady at_walk_ends = true ∧ bearingUp at_walk_ends = true ∧ queryOf at_walk_ends h0 = some theQuery_walk_ends) ∧
    (let q1 : Query := { theQuery_walk_ends with cand := [⟨2, 2, true⟩, ⟨1, 1, false⟩] }
     let ns := neighbours at_walk_ends q1 headG 2
     let used := (0, 2) :: usesOf at_walk_ends q1 headG (evaluated at_walk_ends headG q1 ns)
     readsOpen at_walk_ends 0 (readsOf at_walk_ends theQuery_walk_ends headG (onDemand at_walk_ends h0 used)) = true ∧ readsBad at_walk_ends (readsOf at_walk_ends theQuery_walk_ends headG used) = false ∧
       3 ≤ (expandList at_walk_ends headG q1 ns).evals ∧ (expandList at_walk_ends headG q1 ns).res ≠ []) ∧
    (nexts (exec (.walkExpansion h0 9 none) at_walk_ends) fun u => decide (u.bearing.queries.map (fun q => (q.st, q.evals, q.wait, q.stopAt)) = [(.rerank, 3, [2, 1], 9)]) = true) := by decide +kernel

/-- NeighbourListArrival: WalksExpandAndPrefetch. -/
theorem test_neighbour_list :
    (∃ l ∈ at_neighbour_list.bearing.lines, l.h = h0 ∧ l.kind = 0 ∧ l.item = 1 ∧ l.arrived = false) ∧
    (nexts (exec (.neighbourListArrival h0 1 9) at_neighbour_list) fun u => decide (u.bearing.lines = [⟨h0, 0, 1, 1, 9, true⟩, ⟨h0, 1, 3, 1, 9, false⟩]) = true) := by decide +kernel

/-- PrefetchLineAgeing: WalksExpandAndPrefetch. -/
theorem test_prefetch_ageing :
    (nexts (exec (.prefetchLineAgeing 199999) at_prefetch_ageing) fun u => decide (u.bearing.lines.length = 1) = true) := by decide +kernel

theorem test_prefetch_ageing_late :
    (nexts (exec (.prefetchLineAgeing 200000) at_prefetch_ageing) fun u => decide (u.bearing.lines = []) = true) := by decide +kernel

/-- FullVectorArrival: ExactScoresAndScansRankItems. -/
theorem test_vector_arrival :
    (queryOf at_vector_arrival h0 = some theQuery_vector_arrival ∧ theQuery_vector_arrival.st = .rerank) ∧
    (3 ∈ theQuery_vector_arrival.wait) ∧
    (qHeader at_vector_arrival theQuery_vector_arrival = some headG) ∧
    (hasRead at_vector_arrival 0 h0 3 = true ∧ (vectorRead at_vector_arrival theQuery_vector_arrival headG 3).all (fun r => readsOpen at_vector_arrival 0 [r] && !readsBad at_vector_arrival [r]) = true ∧ (vectorRead at_vector_arrival theQuery_vector_arrival headG 3).isSome = true ∧ theQuery_vector_arrival.wait.filter (· != 3) ≠ []) ∧
    (nexts (exec (.fullVectorArrival h0 3 100000 []) at_vector_arrival) fun u => decide (u.bearing.queries.map (fun q => (q.wait, q.scored)) = [([1], [⟨3, 0x40400000, 1⟩])]) = true) := by decide +kernel

/-- vector arrival last, vector late, vector bad. -/
theorem test_fullVectorArrival_clauses :
    ((queryOf at_vector_arrival_last h0 = some theQuery_vector_arrival_last ∧ theQuery_vector_arrival_last.st = .rerank) ∧
    (3 ∈ theQuery_vector_arrival_last.wait) ∧
    (qHeader at_vector_arrival_last theQuery_vector_arrival_last = some headG) ∧
    (hasRead at_vector_arrival_last 0 h0 3 = true ∧ (vectorRead at_vector_arrival_last theQuery_vector_arrival_last headG 3).all (fun r => readsOpen at_vector_arrival_last 0 [r] && !readsBad at_vector_arrival_last [r]) = true ∧ (vectorRead at_vector_arrival_last theQuery_vector_arrival_last headG 3).isSome = true ∧ theQuery_vector_arrival_last.wait.filter (· != 3) = []) ∧
    ((query 10 2 .rerank).f.home = devno at_vector_arrival_last) ∧
    (nexts (exec (.fullVectorArrival h0 3 9 []) at_vector_arrival_last) fun u => decide (u.bearing.queries = []) = true)) ∧
    ((queryOf at_vector_arrival h0 = some theQuery_vector_arrival ∧ theQuery_vector_arrival.st = .rerank) ∧
    (3 ∈ theQuery_vector_arrival.wait) ∧
    (qHeader at_vector_arrival theQuery_vector_arrival = some headG) ∧
    (hasRead at_vector_arrival 0 h0 3 = true ∧ (vectorRead at_vector_arrival theQuery_vector_arrival headG 3).all (fun r => readsOpen at_vector_arrival 0 [r] && !readsBad at_vector_arrival [r]) = true ∧ (vectorRead at_vector_arrival theQuery_vector_arrival headG 3).isSome = true ∧ theQuery_vector_arrival.wait.filter (· != 3) ≠ []) ∧
    ((theQuery_vector_arrival.res.find? (fun e => e.item == 3)).isSome = true) ∧
    (nexts (exec (.fullVectorArrival h0 3 100001 []) at_vector_arrival) fun u => decide (u.bearing.queries.map (fun q => (q.wait, q.scored)) = [([1], [⟨3, 0x40400000, 2⟩])]) = true)) ∧
    ((queryOf at_vector_arrival h0 = some theQuery_vector_arrival ∧ theQuery_vector_arrival.st = .rerank) ∧
    (3 ∈ theQuery_vector_arrival.wait) ∧
    (qHeader at_vector_arrival theQuery_vector_arrival = some headG) ∧
    (hasRead at_vector_arrival 0 h0 3 = true ∧ (vectorRead at_vector_arrival theQuery_vector_arrival headG 3).all (fun r => readsOpen at_vector_arrival 0 [r] && !readsBad at_vector_arrival [r]) = true ∧ (vectorRead at_vector_arrival theQuery_vector_arrival headG 3).isSome = true ∧ theQuery_vector_arrival.wait.filter (· != 3) ≠ []) ∧
    ((theQuery_vector_arrival.res.find? (fun e => e.item == 3)).isSome = true) ∧
    (nexts (exec (.fullVectorArrival h0 3 9 [0]) at_vector_arrival) fun u => decide (u.bearing.queries.map (fun q => (q.wait, q.subs)) = [([1], 1)]) = true)) := by decide +kernel

theorem test_sketch_scan :
    (isReady at_sketch_scan = true ∧ bearingUp at_sketch_scan = true) ∧
    ((at_sketch_scan.bearing.queries.map (·.f.handle)).Nodup) ∧
    ((scanSet at_sketch_scan 11 0).map (fun q => (q.f.handle, q.scanAt)) = [(h0, 0), (⟨1, 0, 1, 1⟩, 0)]) ∧
    (qHeader at_sketch_scan (query 11 2 .built) = some headS ∧ min headS.itemCount (scanStep headS) = 4) ∧
    ((scanRead at_sketch_scan (query 11 2 .built) headS 0 4 1).toList.all (fun r => readsOpen at_sketch_scan 0 [r]) = true) ∧
    ((scanSet at_sketch_scan 11 0).all (fun q => !readsBad at_sketch_scan ((scanRead at_sketch_scan q headS 0 4 1).toList ++ filterReads at_sketch_scan q headS 0 4)) = true) ∧
    (nexts (exec (.sketchScan 11 0 9 none) at_sketch_scan) fun u => decide (u.bearing.queries.map (fun q => (q.st, q.wait, q.evals)) = [(.rerank, [0, 1], 4), (.rerank, [0, 1], 4)]) = true) := by decide +kernel

/-- With no unit poisoned, no read of an object or of a vocabulary's lines is bad. -/
theorem clean_reads {s : State} (h : s.tiers.poison = []) (l : List ObjRead) : readsBad s l = false := by
  simp only [readsBad, List.any_eq_false]
  intro r _
  simp only [objBad]
  split <;> simp [poisoned, h]

theorem clean_vocab {s : State} (h : s.tiers.poison = []) (v : Obj × VocabObj) : VocabClean s v := fun _ => clean_reads h _

/-- A request of slot 0 at a stage, on device 1 of index 9 with shard 0 here and shard 1 on device 3. -/
def devR : State := { devU with cell := { devU.cell with shards := [⟨9, 0, 1, 0xFFFF⟩, ⟨9, 1, 3, 0xFFFF⟩] } }
def atSt (stage : Nat) (w : Work) : State := withReq devR (entry0 .front stage) w
def cand (item rank : Nat) (f : TextSt) (text : List Byte) : Cand := ⟨item, rank, 1, 0x3F800000, f, false, text, [], [], [], none⟩
def elem (item rank seq : Nat) : Elem := ⟨0x3F800000, seq, item, rank, 1⟩

/-- A passage store of four dies with one set, of index 9: item 7 at a place of its first logical block. -/
def rec7 : PassageRec := ⟨7, [1], [65, 66]⟩
def devP : State := { devR with ps := { devR.ps with
    chans := [(0, 200, 4)], pb := 4096, perDie := 64
    sets := [⟨9, [(7, some ⟨0, 1, 6⟩)], [(7, some rec7)], [], [0], (0, 3)⟩], map := [(0, some (0, 5))] } }

/-- Feature set 15: a lookup of the item in table 12, and of one key in table 13, which is replicated. -/
def row (a b : Nat) : List Byte := le 4 a ++ le 4 b
def table12r : FeatTable := { table12 with rows := [row 0x3F800000 0, row 0 0x3F800000] }
def table13 : FeatTable := ⟨false, 9, 8, 1, 0, 2, false, 0, [], row 0 0, [row 0x40000000 0, row 0x40400000 0x3F800000]⟩
def featObjs : List Obj := [obj 8 12 13 (.featTable table12r), obj 8 13 14 (.featTable table13), obj 8 15 15 (.featSet [⟨12, false, 0, 1, false⟩, ⟨13, true, 0, 2, true⟩])]
def devK : State := { devR with obj := { devR.obj with objs := devR.obj.objs ++ featObjs } }
def prof2 : Profile := { prof1 with featSet := 15, featStride := 64, featAddr := 0x10000000000, featUs := 100 }
def candK (item : Nat) : Cand := { cand item 0 .here [65] with keys := [0, 1] }

def candG (n : Nat) : Cand := { cand n 0 .here [] with genToks := [97, 98, 99] }

def at_query_tokenisation : State := (withReq devR (entry0 .admitted 1) (work0 descGen))
def at_embedding : State := (atSt 3 (work0 descGen))
def theWork_shard_list : Work := { work0 descGen with wanted := [0, 1], got := [], merge := [], fanoutAt := 1000 : Work }
def at_shard_list : State := { atSt 8 theWork_shard_list with lists := [(0, h0)] }
def theWork_shard_list_again : Work := { work0 descGen with wanted := [0, 1], got := [1], merge := [], fanoutAt := 1000 : Work }
def at_shard_list_again : State := atSt 8 theWork_shard_list_again
def theWork_merge_fails : Work := { work0 descGen with wanted := [0, 1], got := [0], merge := [], fanoutAt := 1000, prof := { prof1 with minShards := 2 } : Work }
def at_merge_fails : State := atSt 8 theWork_merge_fails
def theWork_merge_search : Work := { work0 descSearch with wanted := [0, 1], got := [0], merge := [elem 7 0 0, elem 8 0 1], fanoutAt := 1000 : Work }
def at_merge_search : State := atSt 8 theWork_merge_search
def bytes_merge_search_degraded : List Byte := le 64 0xe7605682000000000000000000001000000000000003000000000000000000000000004000800002ffff00000005000300000000000400000000000702000001
def theWork_merge_search_degraded : Work := { work0 bytes_merge_search_degraded with wanted := [0, 1], got := [0], merge := [elem 7 0 0, elem 8 0 1], fanoutAt := 1000 : Work }
def at_merge_search_degraded : State := atSt 8 theWork_merge_search_degraded
def theWork_merge_goes_on : Work := { work0 descGen with wanted := [0, 1], got := [0, 1], merge := [elem 7 0 0, elem 8 1 1], fanoutAt := 1000 : Work }
def at_merge_goes_on : State := atSt 8 theWork_merge_goes_on
def at_passage_fetch_not_ready : State := { devP with boot := { devP.boot with st := .faulted } }
def at_passage_fetch_off : State := { devP with power := { devP.power with doms := tset Dom.reset devP.power.doms 59 Dom.reset } }
def at_passage_fetch_lost : State := { devP with ps := { devP.ps with deadDies := [0] } }
def theWork_text : Work := { work0 descGen with cands := [cand 7 0 .wanted [], cand 8 1 .wanted []], fetchAt := 1000, prof := { prof1 with fetchUs := 100 } : Work }
def at_text : State := atSt 9 theWork_text
def theWork_text_last : Work := { work0 descGen with cands := [cand 7 0 .wanted [], cand 8 1 .absent []], fetchAt := 1000, prof := { prof1 with fetchUs := 100 } : Work }
def at_text_last : State := atSt 9 theWork_text_last
def at_read_deadlines : State := ({ atSt 9 ({ work0 descGen with cands := [cand 7 0 .wanted [], cand 8 1 .wanted []], fetchAt := 1000, prof := { prof1 with fetchUs := 100 } : Work }) with tiers := { devR.tiers with reads := [⟨0, h0, 3, 5⟩, ⟨1, h0, 3, 5⟩, ⟨0, h0, 4, 101001⟩] }, links := { devR.links with inbox := [(1, .fetch h0 9 7 101000)] } })
def theWork_passage_tokens : Work := { work0 descGen with cands := [cand 7 0 .here [97, 98, 99, 97], cand 8 1 .absent []] : Work }
def at_passage_tokens : State := atSt 10 theWork_passage_tokens
def theWork_passage_tokens_features : Work := { work0 descGen with refs := [1, 4, 5, 6, 7, 8, 2, 9, 13, 14, 15], cands := [candK 0, candK 1], prof := prof2 : Work }
def at_passage_tokens_features : State := (withReq devK (entry0 .front 10) theWork_passage_tokens_features)
def theWork_passage_tokens_too_wide : Work := { work0 descGen with refs := [1, 4, 5, 6, 7, 8, 2, 9, 13, 14, 15], cands := [candK 0, candK 1], prof := { prof2 with featStride := 8 } : Work }
def at_passage_tokens_too_wide : State := (withReq devK (entry0 .front 10) theWork_passage_tokens_too_wide)
def at_feature_lookup_not_ready : State := { devK with boot := { devK.boot with st := .faulted } }
def at_feature_lookup_off : State := ({ devK with power := { devK.power with doms := tset Dom.reset (tset Dom.reset devK.power.doms 33 Dom.reset) 34 Dom.reset } })
def theWork_feature_partial : Work := { work0 descGen with refs := [1, 4, 5, 6, 7, 8, 2, 9, 13, 14, 15], cands := [candK 0, candK 1], prof := prof2, featAt := 1000, featWait := [⟨1, 0, 1, 1⟩, ⟨0, 0, 1, 1⟩], featGot := [⟨0, 0, 0, [0x3F800000, 0], 1⟩, ⟨0, 1, 0, [0x40A00000, 0x3F800000], 2⟩, ⟨1, 1, 0, [0x40A00000, 0x3F800000], 2⟩] : Work }
def at_feature_partial : State := (withReq devK (entry0 .front 11) theWork_feature_partial)
def theWork_feature_partial_last : Work := { work0 descGen with refs := [1, 4, 5, 6, 7, 8, 2, 9, 13, 14, 15], cands := [candK 0, candK 1], prof := prof2, featAt := 1000, featWait := [⟨1, 0, 1, 1⟩], featGot := [⟨0, 0, 0, [0x3F800000, 0], 1⟩, ⟨0, 1, 0, [0x40A00000, 0x3F800000], 2⟩, ⟨1, 1, 0, [0x40A00000, 0x3F800000], 2⟩] : Work }
def at_feature_partial_last : State := (withReq devK (entry0 .front 11) theWork_feature_partial_last)
def theWork_rerank : Work := { work0 descGen with cands := [cand 7 0 .here [], cand 8 1 .absent [], cand 9 1 .here []] : Work }
def at_rerank : State := atSt 11 theWork_rerank
def theWork_rerank_ends : Work := { work0 descRerank with cands := [cand 7 0 .here [], cand 8 1 .absent [], cand 9 1 .here []] : Work }
def at_rerank_ends : State := atSt 11 theWork_rerank_ends
def bytes_pack_too_long : List Byte := le 64 0xc7ba63aa000000000000000000001000000000000003000000000000000000000000004000020004ffff00000005000300000000000400000000000702030001
def theWork_pack_too_long : Work := { work0 bytes_pack_too_long with cands := [candG 0, candG 1], order := [1, 0], genToks := [1, 2, 3], prof := { prof1 with budget := 2, minFragment := 2 } : Work }
def at_pack_too_long : State := atSt 12 theWork_pack_too_long
def bytes_pack : List Byte := le 64 0x430963f70000000000000000000010000000000000030000000000000000000000000040000d0004ffff00000005000300000000000400000000000702030001
def theWork_pack : Work := { work0 bytes_pack with cands := [candG 0, candG 1], order := [1, 0], genToks := [1, 2, 3], prof := { prof1 with budget := 13, minFragment := 2 } : Work }
def at_pack : State := atSt 12 theWork_pack
def bytes_pack_cut_ends : List Byte := le 64 0x888836d20000000000000000000010000000000000030000000000000000000000000040000c0004ffff00000005000300000000000400000000000702020001
def theWork_pack_cut_ends : Work := { work0 bytes_pack_cut_ends with cands := [candG 0, candG 1], order := [1, 0], genToks := [1, 2, 3], prof := { prof1 with budget := 12, minFragment := 2 } : Work }
def at_pack_cut_ends : State := atSt 12 theWork_pack_cut_ends
def bytes_pack_fixed_only : List Byte := le 64 0xb94ee87b000000000000000000001000000000000003000000000000000000000000004000030004ffff00000005000300000000000400000000000702030001
def theWork_pack_fixed_only : Work := { work0 bytes_pack_fixed_only with cands := [candG 0, candG 1], order := [1, 0], genToks := [1, 2, 3], prof := { prof1 with budget := 3, minFragment := 2 } : Work }
def at_pack_fixed_only : State := atSt 12 theWork_pack_fixed_only
/-- QueryTokenisation: QueriesAreTokenisedAndFannedOut. -/
theorem test_query_tokenisation :
    (atStage at_query_tokenisation 0 1 = some (work0 descGen)) ∧
    (regOpen at_query_tokenisation 0 4 (dQueryLen descGen) = true) ∧
    (RegsOpen at_query_tokenisation 0 ∧ at_query_tokenisation.tiers.poison = [] ∧ (work0 descGen).writes = []) ∧
    (plotterUp at_query_tokenisation = true ∧ arrayUp at_query_tokenisation = true ∧ arcUp at_query_tokenisation = true ∧ sextantUp at_query_tokenisation = true ∧ movesUp at_query_tokenisation = true) ∧
    (nexts (exec (.queryTokenisation 0 9 (some [97, 98, 99])) at_query_tokenisation) fun u => decide ((work u 0).map (·.retToks) = some [257]) = true) := by decide +kernel

theorem test_query_tokenisation_unread :
    (atStage at_query_tokenisation 0 1 = some (work0 descGen)) ∧
    (regOpen at_query_tokenisation 0 4 (dQueryLen descGen) = true) ∧
    (RegsOpen at_query_tokenisation 0 ∧ at_query_tokenisation.tiers.poison = [] ∧ (work0 descGen).writes = []) ∧
    (plotterUp at_query_tokenisation = true ∧ arrayUp at_query_tokenisation = true ∧ arcUp at_query_tokenisation = true ∧ sextantUp at_query_tokenisation = true ∧ movesUp at_query_tokenisation = true) ∧
    (nexts (exec (.queryTokenisation 0 9 none) at_query_tokenisation) fun u => decide ((entry u 0).st = .committing ∧ ((work u 0).bind (·.commit)).map (·.status) = some .dataError) = true) := by decide +kernel

/-- Embedding: QueriesAreTokenisedAndFannedOut. -/
theorem test_embedding :
    (atStage at_embedding 0 3 = some (work0 descGen)) ∧
    (plotterUp at_embedding = true ∧ arrayUp at_embedding = true ∧ arcUp at_embedding = true ∧ sextantUp at_embedding = true ∧ movesUp at_embedding = true) ∧
    (streamRuns at_embedding 0 h0 = false ∧ listOn at_embedding 0 = true ∧ 0 ∉ at_embedding.lists.map (·.1)) ∧
    (nexts (exec (.embedding 0 9 [0x3F800000]) at_embedding) fun u => decide (u.links.inbox = [(1, .fanOut (fanOutOf 1 (work0 descGen) [0x3F800000]))]) && decide ((tget [] (port u 1).queues 2).length + (tget [] (port u 1).queues 1).length + (tget [] (port u 1).queues 0).length + (tget [] (port u 1).queues 3).length + (tget [] (port u 1).queues 4).length = 1) = true) := by decide +kernel

/-- ShardListReceive: MergesCollectTheLists, OneListPerShardRank. -/
theorem test_shard_list :
    (atStage at_shard_list 0 8 = some theWork_shard_list) ∧
    (liveSlot at_shard_list h0 = some 0) ∧
    (1 ∈ theWork_shard_list.wanted ∧ 1 ∉ theWork_shard_list.got ∧ Sys2Proof.Machine.listOf at_shard_list h0 = some 0) ∧
    (max at_shard_list.now 9 ≤ theWork_shard_list.fanoutAt + theWork_shard_list.prof.mergeUs * 1000) ∧
    ((insertNat 1 theWork_shard_list.got).length ≠ theWork_shard_list.wanted.length) ∧
    (nexts (exec (.shardListReceive h0 1 9 [⟨7, 0x3F800000, 1⟩, ⟨8, 0, 1⟩] false 0) at_shard_list) fun u => decide ((work u 0).map (fun w => (w.got, w.merge.map (·.item))) = some ([1], [7, 8])) = true) := by decide +kernel

/-- A substitution on the shard degrades the request; a merge that holds no list waits. -/
theorem test_shard_list_waits :
    (nexts (exec (.shardListReceive h0 1 9 [⟨7, 0x3F800000, 1⟩] false 2) at_shard_list) fun u => decide ((work u 0).map (·.quals.degraded) = some true) = true) ∧
    (atStage (atSt 8 theWork_shard_list) 0 8 = some theWork_shard_list ∧ liveSlot (atSt 8 theWork_shard_list) h0 = some 0) ∧
    (Sys2Proof.Machine.listOf (atSt 8 theWork_shard_list) h0 = none) ∧
    (nexts (exec (.shardListReceive h0 1 9 [⟨7, 0x3F800000, 1⟩] false 2) (atSt 8 theWork_shard_list)) fun u => decide ((work u 0) = some theWork_shard_list) = true) := by decide +kernel

/-- shard list again, shard list stale. -/
theorem test_shardListReceive_clauses :
    ((atStage at_shard_list_again 0 8 = some theWork_shard_list_again) ∧
    (liveSlot at_shard_list_again h0 = some 0) ∧
    (1 ∈ theWork_shard_list_again.got ∧ max at_shard_list_again.now 9 ≤ theWork_shard_list_again.fanoutAt + theWork_shard_list_again.prof.mergeUs * 1000) ∧
    (nexts (exec (.shardListReceive h0 1 9 [⟨7, 0x3F800000, 1⟩, ⟨8, 0, 1⟩] false 0) at_shard_list_again) = true)) ∧
    ((liveSlot devR h0 = none) ∧
    (nexts (exec (.shardListReceive h0 1 9 [⟨7, 0x3F800000, 1⟩, ⟨8, 0, 1⟩] false 0) devR) = true)) := by decide +kernel

/-- MergeDeadline: MergesCollectTheLists. -/
theorem test_merge_fails :
    (atStage at_merge_fails 0 8 = some theWork_merge_fails) ∧
    ((entry at_merge_fails 0).st = .front ∧ theWork_merge_fails.writes = []) ∧
    (theWork_merge_fails.fanoutAt + theWork_merge_fails.prof.mergeUs * 1000 ≤ max at_merge_fails.now 1001000) ∧
    (theWork_merge_fails.got.length < theWork_merge_fails.prof.minShards) ∧
    (nexts (exec (.mergeDeadline 0 1001000) at_merge_fails) fun u => decide (((work u 0).bind (·.commit)).map (fun c => (c.status, c.detail)) = some (.dataError, 1)) = true) := by decide +kernel

/-- merge search, merge search degraded, merge goes on. -/
theorem test_mergeDeadline_clauses :
    ((atStage at_merge_search 0 8 = some theWork_merge_search) ∧
    ((entry at_merge_search 0).st = .front ∧ theWork_merge_search.writes = []) ∧
    (theWork_merge_search.fanoutAt + theWork_merge_search.prof.mergeUs * 1000 ≤ max at_merge_search.now 1001000) ∧
    (regOpen at_merge_search 0 4 32 = true ∧ theWork_merge_search.prof.minShards ≤ theWork_merge_search.got.length ∧ dLast theWork_merge_search.desc = 0) ∧
    (nexts (exec (.mergeDeadline 0 1001000) at_merge_search) fun u => decide (((work u 0).bind (·.commit)).map (fun c => (c.status, c.detail)) = some (.okShort, 0)) = true)) ∧
    ((atStage at_merge_search_degraded 0 8 = some theWork_merge_search_degraded) ∧
    ((entry at_merge_search_degraded 0).st = .front ∧ theWork_merge_search_degraded.writes = []) ∧
    (theWork_merge_search_degraded.fanoutAt + theWork_merge_search_degraded.prof.mergeUs * 1000 ≤ max at_merge_search_degraded.now 1001000) ∧
    (regOpen at_merge_search_degraded 0 4 32 = true ∧ theWork_merge_search_degraded.prof.minShards ≤ theWork_merge_search_degraded.got.length ∧ dLast theWork_merge_search_degraded.desc = 0) ∧
    (nexts (exec (.mergeDeadline 0 1001000) at_merge_search_degraded) fun u => decide (((work u 0).bind (·.commit)).map (fun c => (c.status, c.detail)) = some (.okDegraded, 1)) = true)) ∧
    ((atStage at_merge_goes_on 0 8 = some theWork_merge_goes_on) ∧
    ((entry at_merge_goes_on 0).st = .front ∧ theWork_merge_goes_on.writes = []) ∧
    (theWork_merge_goes_on.fanoutAt + theWork_merge_goes_on.prof.mergeUs * 1000 ≤ max at_merge_goes_on.now 1001000) ∧
    (theWork_merge_goes_on.prof.minShards ≤ theWork_merge_goes_on.got.length ∧ dLast theWork_merge_goes_on.desc ≠ 0) ∧
    (∃ e ∈ theWork_merge_goes_on.merge, reachable at_merge_goes_on (ownerOf at_merge_goes_on theWork_merge_goes_on e.rank) = true) ∧
    (nexts (exec (.mergeDeadline 0 1001000) at_merge_goes_on) fun u => decide ((entry u 0).stage = 9 ∧ u.links.inbox.length = 1) = true)) := by decide +kernel

/-- PassageFetch: PassageTextsComeOrAreMissed. -/
theorem test_passage_fetch_not_ready :
    (isReady at_passage_fetch_not_ready = false) ∧
    (nexts (exec (.passageFetch 1 h0 9 7 9 true) at_passage_fetch_not_ready) fun u => decide (u.links.inbox = [(1, .text h0 0 7 .notReady [] [])]) = true) := by decide +kernel

/-- passage fetch no passage, passage fetch off, passage fetch lost, passage fetch ok, passage fetch bad. -/
theorem test_passageFetch_clauses :
    ((isReady devP = true ∧ fetchLate (tick devP 9) 1 h0 9 8 = false) ∧
    ((setOf devP 9).bind (fun x => dirOf x 8) = none) ∧
    (nexts (exec (.passageFetch 1 h0 9 8 9 true) devP) fun u => decide (u.links.inbox = [(1, .text h0 0 8 .dataError [] [])]) = true)) ∧
    ((isReady at_passage_fetch_off = true ∧ fetchLate (tick at_passage_fetch_off 9) 1 h0 9 7 = false) ∧
    ((setOf at_passage_fetch_off 9).isSome = true ∧ (setOf at_passage_fetch_off 9).bind (fun x => dirOf x 7) = some ⟨0, 1, 6⟩) ∧
    (∀ d ∈ recDies at_passage_fetch_off ⟨0, 1, 6⟩, d ∉ at_passage_fetch_off.ps.deadDies) ∧
    (∃ d ∈ recDies at_passage_fetch_off ⟨0, 1, 6⟩, domIs at_passage_fetch_off (flashDom at_passage_fetch_off d) .on = false) ∧
    (nexts (exec (.passageFetch 1 h0 9 7 9 true) at_passage_fetch_off) fun u => decide (u.links.inbox = [(1, .text h0 0 7 .domainOff [] [])]) = true)) ∧
    ((isReady at_passage_fetch_lost = true ∧ fetchLate (tick at_passage_fetch_lost 9) 1 h0 9 7 = false) ∧
    ((setOf at_passage_fetch_lost 9).isSome = true ∧ (setOf at_passage_fetch_lost 9).bind (fun x => dirOf x 7) = some ⟨0, 1, 6⟩) ∧
    (∃ d ∈ recDies at_passage_fetch_lost ⟨0, 1, 6⟩, d ∈ at_passage_fetch_lost.ps.deadDies) ∧
    (nexts (exec (.passageFetch 1 h0 9 7 9 true) at_passage_fetch_lost) fun u => decide (u.links.inbox = [(1, .text h0 0 7 .dataError [] [])]) = true)) ∧
    ((isReady devP = true ∧ fetchLate (tick devP 9) 1 h0 9 7 = false) ∧
    ((setOf devP 9).isSome = true ∧ (setOf devP 9).bind (fun x => dirOf x 7) = some ⟨0, 1, 6⟩) ∧
    (∀ d ∈ recDies devP ⟨0, 1, 6⟩, d ∉ devP.ps.deadDies) ∧
    (∀ d ∈ recDies devP ⟨0, 1, 6⟩, domIs devP (flashDom devP d) .on = true) ∧
    (regOpen devP 0 2 (codewordBytes ⟨0, 1, 6⟩) = true) ∧
    ((setOf devP 9).bind (fun x => tget none x.recs 7) = some rec7) ∧
    (headerOk rec7 7 ⟨0, 1, 6⟩ = true) ∧
    (nexts (exec (.passageFetch 1 h0 9 7 9 true) devP) fun u => decide (u.links.inbox = [(1, .text h0 0 7 .ok [65, 66] [1])]) = true)) ∧
    ((isReady devP = true ∧ fetchLate (tick devP 9) 1 h0 9 7 = false) ∧
    ((setOf devP 9).isSome = true ∧ (setOf devP 9).bind (fun x => dirOf x 7) = some ⟨0, 1, 6⟩) ∧
    (∀ d ∈ recDies devP ⟨0, 1, 6⟩, d ∉ devP.ps.deadDies) ∧
    (∀ d ∈ recDies devP ⟨0, 1, 6⟩, domIs devP (flashDom devP d) .on = true) ∧
    (regOpen devP 0 2 (codewordBytes ⟨0, 1, 6⟩) = true) ∧
    ((setOf devP 9).bind (fun x => tget none x.recs 7) = some rec7) ∧
    (nexts (exec (.passageFetch 1 h0 9 7 9 false) devP) fun u => decide (u.links.inbox = [(1, .text h0 0 7 .dataError [] [])]) = true)) := by decide +kernel

/-- A fetch past its deadline answers DATA_ERROR. -/
def at_passage_fetch_late : State := { devP with links := { devP.links with inbox := [(1, .fetch h0 9 7 8)] } }
theorem test_passage_fetch_late :
    (isReady at_passage_fetch_late = true ∧ fetchLate (tick at_passage_fetch_late 9) 1 h0 9 7 = true) ∧
    (nexts (exec (.passageFetch 1 h0 9 7 9 true) at_passage_fetch_late) fun u => decide (u.links.inbox = [(1, .text h0 0 7 .dataError [] [])]) = true) := by decide +kernel

/-- PassageTextReceive: PassageTextsComeOrAreMissed. -/
theorem test_text :
    (atStage at_text 0 9 = some theWork_text) ∧
    (∃ c ∈ theWork_text.cands, c.rank = 0 ∧ c.item = 7 ∧ c.fetch = .wanted) ∧
    (max at_text.now 101000 ≤ theWork_text.fetchAt + theWork_text.prof.fetchUs * 1000) ∧
    (∃ c ∈ theWork_text.cands, c.fetch = .wanted ∧ (c.rank ≠ 0 ∨ c.item ≠ 7)) ∧
    (nexts (exec (.passageTextReceive 0 0 7 101000 .ok [65] [2]) at_text) fun u => decide ((work u 0).map (fun w => w.cands.map (·.fetch)) = some [.here, .wanted]) = true) := by decide +kernel

/-- text refused, text last. -/
theorem test_passageTextReceive_clauses :
    ((atStage at_text 0 9 = some theWork_text) ∧
    (∃ c ∈ theWork_text.cands, c.rank = 0 ∧ c.item = 7 ∧ c.fetch = .wanted) ∧
    (max at_text.now 101000 ≤ theWork_text.fetchAt + theWork_text.prof.fetchUs * 1000) ∧
    (∃ c ∈ theWork_text.cands, c.fetch = .wanted ∧ (c.rank ≠ 0 ∨ c.item ≠ 7)) ∧
    (nexts (exec (.passageTextReceive 0 0 7 101000 .dataError [65] [2]) at_text) fun u => decide ((work u 0).map (fun w => w.cands.map (·.fetch)) = some [.absent, .wanted]) = true)) ∧
    ((atStage at_text_last 0 9 = some theWork_text_last) ∧
    (∃ c ∈ theWork_text_last.cands, c.rank = 0 ∧ c.item = 7 ∧ c.fetch = .wanted) ∧
    (max at_text_last.now 101000 ≤ theWork_text_last.fetchAt + theWork_text_last.prof.fetchUs * 1000) ∧
    (¬ ∃ c ∈ theWork_text_last.cands, c.fetch = .wanted ∧ (c.rank ≠ 0 ∨ c.item ≠ 7)) ∧
    (plotterUp at_text_last = true) ∧
    (nexts (exec (.passageTextReceive 0 0 7 101000 .ok [65] [2]) at_text_last) fun u => decide ((entry u 0).stage = 10 ∧ (work u 0).map (fun w => w.quals.degraded) = some true) = true)) := by decide +kernel

/-- ReadDeadlineRemoval: PassageTextsComeOrAreMissed. -/
theorem test_read_deadlines :
    (nexts (exec (.readDeadlineRemoval 101001) at_read_deadlines) fun u => decide (u.tiers.reads = [⟨1, h0, 3, 5⟩, ⟨0, h0, 4, 101001⟩] ∧ u.links.inbox.length = 1) = true) := by decide +kernel

/-- PassageTokenisation: FeaturesArePooledOrReplaced. -/
theorem test_passage_tokens :
    (atStage at_passage_tokens 0 10 = some theWork_passage_tokens) ∧
    (plotterUp at_passage_tokens = true ∧ arrayUp at_passage_tokens = true ∧ arcUp at_passage_tokens = true ∧ sextantUp at_passage_tokens = true ∧ movesUp at_passage_tokens = true) ∧
    ((entry at_passage_tokens 0).st = .front ∧ theWork_passage_tokens.writes = []) ∧
    (RegsOpen at_passage_tokens 0 ∧ at_passage_tokens.tiers.poison = [] ∧ featureUp at_passage_tokens = true) ∧
    ((theWork_passage_tokens.cands.map fun c => (c.rank, c.item)).Nodup) ∧
    (theWork_passage_tokens.prof.featSet = 0) ∧
    (nexts (exec (.passageTokenisation 0 9) at_passage_tokens) fun u => decide ((work u 0).map (fun w => w.cands.map (·.retToks)) = some [[257, 97], []]) = true) := by decide +kernel

/-- passage tokens features, passage tokens too wide. -/
theorem test_passageTokenisation_clauses :
    ((atStage at_passage_tokens_features 0 10 = some theWork_passage_tokens_features) ∧
    (plotterUp at_passage_tokens_features = true ∧ arrayUp at_passage_tokens_features = true ∧ arcUp at_passage_tokens_features = true ∧ sextantUp at_passage_tokens_features = true ∧ movesUp at_passage_tokens_features = true) ∧
    ((entry at_passage_tokens_features 0).st = .front ∧ theWork_passage_tokens_features.writes = []) ∧
    (RegsOpen at_passage_tokens_features 0 ∧ at_passage_tokens_features.tiers.poison = [] ∧ featureUp at_passage_tokens_features = true) ∧
    ((theWork_passage_tokens_features.cands.map fun c => (c.rank, c.item)).Nodup) ∧
    (theWork_passage_tokens_features.prof.featSet ≠ 0 ∧ sumN ((heldSet at_passage_tokens_features theWork_passage_tokens_features).map fun l => match heldFeat at_passage_tokens_features theWork_passage_tokens_features l.table with | some t => 4 * rowElts t | none => 0) = 16 ∧ 16 ≤ theWork_passage_tokens_features.prof.featStride) ∧
    (nexts (exec (.passageTokenisation 0 9) at_passage_tokens_features) fun u => decide ((work u 0).map (fun w => (w.featWait, w.featGot.length)) = some ([⟨1, 0, 1, 1⟩], 3)) = true)) ∧
    ((atStage at_passage_tokens_too_wide 0 10 = some theWork_passage_tokens_too_wide) ∧
    (plotterUp at_passage_tokens_too_wide = true ∧ arrayUp at_passage_tokens_too_wide = true ∧ arcUp at_passage_tokens_too_wide = true ∧ sextantUp at_passage_tokens_too_wide = true ∧ movesUp at_passage_tokens_too_wide = true) ∧
    ((entry at_passage_tokens_too_wide 0).st = .front ∧ theWork_passage_tokens_too_wide.writes = []) ∧
    (RegsOpen at_passage_tokens_too_wide 0 ∧ at_passage_tokens_too_wide.tiers.poison = [] ∧ featureUp at_passage_tokens_too_wide = true) ∧
    ((theWork_passage_tokens_too_wide.cands.map fun c => (c.rank, c.item)).Nodup) ∧
    (theWork_passage_tokens_too_wide.prof.featSet ≠ 0 ∧ theWork_passage_tokens_too_wide.prof.featStride < sumN ((heldSet at_passage_tokens_too_wide theWork_passage_tokens_too_wide).map fun l => match heldFeat at_passage_tokens_too_wide theWork_passage_tokens_too_wide l.table with | some t => 4 * rowElts t | none => 0)) ∧
    (nexts (exec (.passageTokenisation 0 9) at_passage_tokens_too_wide) fun u => decide (((work u 0).bind (·.commit)).map (·.status) = some .limitExceeded) = true)) := by decide +kernel

/-- FeatureLookup: FeaturesArePooledOrReplaced. -/
theorem test_feature_lookup_not_ready :
    (isReady at_feature_lookup_not_ready = false) ∧
    (nexts (exec (.featureLookup 1 h0 1000 [⟨0, 0, 12, [0, 2]⟩] 9) at_feature_lookup_not_ready) fun u => decide (u.links.inbox = [(1, .lookupRefused h0 [⟨0, 0, 12, [0, 2]⟩] .notReady)]) = true) := by decide +kernel

/-- feature lookup off, feature lookup ok, feature lookup absent. -/
theorem test_featureLookup_clauses :
    ((isReady at_feature_lookup_off = true) ∧
    (featureUp at_feature_lookup_off = false) ∧
    (nexts (exec (.featureLookup 1 h0 1000 [⟨0, 0, 12, [0, 2]⟩] 9) at_feature_lookup_off) fun u => decide (u.links.inbox = [(1, .lookupRefused h0 [⟨0, 0, 12, [0, 2]⟩] .domainOff)]) = true)) ∧
    ((isReady devK = true) ∧
    (featureUp devK = true ∧ max devK.now 9 ≤ 1000 ∧ RegsOpen devK 0 ∧ devK.tiers.poison = []) ∧
    (nexts (exec (.featureLookup 1 h0 1000 [⟨0, 0, 12, [0, 2]⟩] 9) devK) fun u => decide (u.links.inbox = [(1, .partialSum h0 ⟨0, 0, 0, [0x3F800000, 0x3F800000], 2⟩)]) = true)) ∧
    ((isReady devK = true) ∧
    (featureUp devK = true ∧ max devK.now 9 ≤ 1000 ∧ RegsOpen devK 0 ∧ devK.tiers.poison = []) ∧
    (nexts (exec (.featureLookup 1 h0 1000 [⟨0, 0, 99, [0]⟩] 9) devK) fun u => decide (u.links.inbox = [(1, .lookupRefused h0 [⟨0, 0, 99, [0]⟩] .noResource)]) = true)) := by decide +kernel

/-- A lookup past its deadline, and a row that cannot be read, answer DATA_ERROR. -/
def at_feature_lookup_bad : State := { devK with
  obj := { devK.obj with places := [⟨.image 13, 0x10000000000, 0x1000⟩] }
  tiers := { devK.tiers with poison := [(0x10000000000, 0x1000)] } }
theorem test_feature_lookup_late :
    (isReady devK = true ∧ featureUp devK = true ∧ 8 < max devK.now 9) ∧
    (nexts (exec (.featureLookup 1 h0 8 [⟨0, 0, 12, [0, 2]⟩] 9) devK) fun u => decide (u.links.inbox = [(1, .lookupRefused h0 [⟨0, 0, 12, [0, 2]⟩] .dataError)]) = true) ∧
    (isReady at_feature_lookup_bad = true ∧ featureUp at_feature_lookup_bad = true ∧ RegsOpen at_feature_lookup_bad 0) ∧
    ((featTableOf at_feature_lookup_bad 12).all (fun o => o.1.tier != 1 && readsBad at_feature_lookup_bad [rowRead o.1 o.2 2]) = true) ∧
    (nexts (exec (.featureLookup 1 h0 1000 [⟨0, 0, 12, [0, 2]⟩] 9) at_feature_lookup_bad) fun u => decide (u.links.inbox = [(1, .lookupRefused h0 [⟨0, 0, 12, [0, 2]⟩] .dataError)]) = true) := by decide +kernel

/-- FeaturePartialReceive: FeaturesArePooledOrReplaced. -/
theorem test_feature_partial :
    (atStage at_feature_partial 0 11 = some theWork_feature_partial) ∧
    (theWork_feature_partial.featWait.find? (fun x => x.cand == 1 && x.lookup == 0 && x.shard == 1) = some ⟨1, 0, 1, 1⟩) ∧
    (max at_feature_partial.now 101000 ≤ theWork_feature_partial.featAt + theWork_feature_partial.prof.featUs * 1000) ∧
    (theWork_feature_partial.featWait.erase ⟨1, 0, 1, 1⟩ ≠ []) ∧
    (nexts (exec (.featurePartialReceive 0 ⟨1, 0, 1, [0x40000000, 0x40000000], 1⟩ 101000) at_feature_partial) fun u => decide ((work u 0).map (·.featWait) = some [⟨0, 0, 1, 1⟩]) = true) := by decide +kernel

theorem test_feature_partial_last :
    (atStage at_feature_partial_last 0 11 = some theWork_feature_partial_last) ∧
    (theWork_feature_partial_last.featWait.find? (fun x => x.cand == 1 && x.lookup == 0 && x.shard == 1) = some ⟨1, 0, 1, 1⟩) ∧
    (max at_feature_partial_last.now 101000 ≤ theWork_feature_partial_last.featAt + theWork_feature_partial_last.prof.featUs * 1000) ∧
    (headCtx at_feature_partial_last theWork_feature_partial_last = at_feature_partial_last.helm.ctx ∧ (at_feature_partial_last.lb.work.map (·.1)) = [0]) ∧
    (theWork_feature_partial_last.featWait.erase ⟨1, 0, 1, 1⟩ = [] ∧ theWork_feature_partial_last.prof.featSet ≠ 0) ∧
    (nexts (exec (.featurePartialReceive 0 ⟨1, 0, 1, [0x40000000, 0x40000000], 1⟩ 101000) at_feature_partial_last) fun u => decide ((work u 0).map (·.featWait) = some []) && decide (u.mem.read 0x10000000040 16 = f32Bytes [0x40000000, 0x40000000, 0x40200000, 0x3F000000]) = true) := by decide +kernel

/-- With another context loaded, the rows wait for the head's. -/
theorem test_feature_partial_waits :
    (let s := withHelm at_feature_partial_last fun h => { h with ctx := 9 }
     headCtx s theWork_feature_partial_last ≠ s.helm.ctx ∧
     nexts (exec (.featurePartialReceive 0 ⟨1, 0, 1, [0x40000000, 0x40000000], 1⟩ 101000) s) fun u => decide ((work u 0).map (fun w => (w.featRows.length, w.featCtx)) = some (2, 0) ∧ u.mem = s.mem) = true) := by decide +kernel

/-- FeatureDeadline: FeaturesArePooledOrReplaced. -/
theorem test_feature_deadline :
    (atStage at_feature_partial_last 0 11 = some theWork_feature_partial_last) ∧
    (theWork_feature_partial_last.featWait ≠ []) ∧
    (theWork_feature_partial_last.featAt + theWork_feature_partial_last.prof.featUs * 1000 ≤ max at_feature_partial_last.now 101000) ∧
    (nexts (exec (.featureDeadline 0 101000) at_feature_partial_last) fun u => decide ((work u 0).map (fun w => (w.featWait, w.featGot.length, w.quals.degraded)) = some ([], 4, true)) = true) := by decide +kernel

/-- CrossEncoderRerank: RerankAndPackOrderPassages. -/
theorem test_rerank :
    (atStage at_rerank 0 11 = some theWork_rerank) ∧
    ((entry at_rerank 0).st = .front ∧ theWork_rerank.writes = [] ∧ theWork_rerank.featWait = [] ∧ theWork_rerank.featRows = []) ∧
    ((freeList at_rerank).isSome = true ∧ streamRuns at_rerank 1 h0 = false ∧ streamRuns at_rerank 2 h0 = false) ∧
    ((rerankOrder theWork_rerank.cands.length ((scoredPos theWork_rerank).zipIdx.map fun x => (x.1, [0, 0x3F800000].getD x.2 nan32))).Perm (List.range theWork_rerank.cands.length)) ∧
    (dLast theWork_rerank.desc ≠ 1 ∧ plotterUp at_rerank = true) ∧
    (nexts (exec (.crossEncoderRerank 0 9 [0, 0x3F800000]) at_rerank) fun u => decide ((work u 0).map (fun w => (w.order, w.cands.map (·.ce))) = some ([2, 0, 1], [some 0, none, some 0x3F800000])) = true) := by decide +kernel

theorem test_rerank_ends :
    (atStage at_rerank_ends 0 11 = some theWork_rerank_ends) ∧
    ((entry at_rerank_ends 0).st = .front ∧ theWork_rerank_ends.writes = [] ∧ theWork_rerank_ends.featWait = [] ∧ theWork_rerank_ends.featRows = []) ∧
    ((freeList at_rerank_ends).isSome = true ∧ streamRuns at_rerank_ends 1 h0 = false ∧ streamRuns at_rerank_ends 2 h0 = false) ∧
    ((rerankOrder theWork_rerank_ends.cands.length ((scoredPos theWork_rerank_ends).zipIdx.map fun x => (x.1, [0, 0x3F800000].getD x.2 nan32))).Perm (List.range theWork_rerank_ends.cands.length)) ∧
    (dLast theWork_rerank_ends.desc = 1 ∧ regOpen at_rerank_ends 0 4 48 = true) ∧
    (nexts (exec (.crossEncoderRerank 0 9 [0, 0x3F800000]) at_rerank_ends) fun u => decide (((work u 0).bind (·.commit)).map (fun c => (c.status, c.detail)) = some (.ok, 0)) && decide ((entry u 0).outBytes = 48) = true) := by decide +kernel

/-- Packing: RerankAndPackOrderPassages. -/
theorem test_pack_too_long :
    (atStage at_pack_too_long 0 12 = some theWork_pack_too_long) ∧
    ((entry at_pack_too_long 0).st = .front ∧ theWork_pack_too_long.writes = []) ∧
    (heldTemplate at_pack_too_long theWork_pack_too_long theWork_pack_too_long.prof.promptTemplate = some tmpl1) ∧
    ((heldVocab at_pack_too_long theWork_pack_too_long (genVocabId theWork_pack_too_long.prof)).isSome = true) ∧
    (workBudget theWork_pack_too_long < fixedTokens tmpl1 theWork_pack_too_long.genToks) ∧
    (nexts (exec (.packing 0 9) at_pack_too_long) fun u => decide (((work u 0).bind (·.commit)).map (·.status) = some .limitExceeded) = true) := by decide +kernel

/-- pack, pack cut ends, pack fixed only. -/
theorem test_packing_clauses :
    ((atStage at_pack 0 12 = some theWork_pack) ∧
    ((entry at_pack 0).st = .front ∧ theWork_pack.writes = [] ∧ RegsOpen at_pack 0 ∧ at_pack.tiers.poison = [] ∧ regOpen at_pack 0 4 48 = true) ∧
    (heldTemplate at_pack theWork_pack theWork_pack.prof.promptTemplate = some tmpl1) ∧
    ((heldVocab at_pack theWork_pack (genVocabId theWork_pack.prof)).isSome = true) ∧
    (fixedTokens tmpl1 theWork_pack.genToks ≤ workBudget theWork_pack ∧ dLast theWork_pack.desc ≠ 2) ∧
    (nexts (exec (.packing 0 9) at_pack) fun u => decide ((work u 0).map (·.prompt) = some [1, 2, 3, 65, 97, 98, 99, 66, 65, 97, 98, 99, 66]) = true)) ∧
    ((atStage at_pack_cut_ends 0 12 = some theWork_pack_cut_ends) ∧
    ((entry at_pack_cut_ends 0).st = .front ∧ theWork_pack_cut_ends.writes = [] ∧ RegsOpen at_pack_cut_ends 0 ∧ at_pack_cut_ends.tiers.poison = [] ∧ regOpen at_pack_cut_ends 0 4 48 = true) ∧
    (heldTemplate at_pack_cut_ends theWork_pack_cut_ends theWork_pack_cut_ends.prof.promptTemplate = some tmpl1) ∧
    ((heldVocab at_pack_cut_ends theWork_pack_cut_ends (genVocabId theWork_pack_cut_ends.prof)).isSome = true) ∧
    (fixedTokens tmpl1 theWork_pack_cut_ends.genToks ≤ workBudget theWork_pack_cut_ends ∧ dLast theWork_pack_cut_ends.desc = 2) ∧
    (nexts (exec (.packing 0 9) at_pack_cut_ends) fun u => decide (((work u 0).bind (·.commit)).map (·.status) = some .ok) && decide ((entry u 0).outBytes = 48) = true)) ∧
    ((atStage at_pack_fixed_only 0 12 = some theWork_pack_fixed_only) ∧
    ((entry at_pack_fixed_only 0).st = .front ∧ theWork_pack_fixed_only.writes = [] ∧ RegsOpen at_pack_fixed_only 0 ∧ at_pack_fixed_only.tiers.poison = [] ∧ regOpen at_pack_fixed_only 0 4 48 = true) ∧
    (heldTemplate at_pack_fixed_only theWork_pack_fixed_only theWork_pack_fixed_only.prof.promptTemplate = some tmpl1) ∧
    ((heldVocab at_pack_fixed_only theWork_pack_fixed_only (genVocabId theWork_pack_fixed_only.prof)).isSome = true) ∧
    (workBudget theWork_pack_fixed_only = fixedTokens tmpl1 theWork_pack_fixed_only.genToks) ∧
    (nexts (exec (.packing 0 9) at_pack_fixed_only) fun u => decide ((work u 0).map (·.prompt) = some [1, 2, 3]) = true)) := by decide +kernel

/-- Device 1 with members 2 and 3, pool 0 of 64 blocks for model 3. -/
def devT : State := { devU with cell := { devU.cell with group := [2, 3] } }
def order0 : GenOrder := orderOf devT 0 { work0 descGen with prompt := [97, 98], hashes := promptHashes 3 0 [97, 98] } 1
def job0 : PrefillJob := ⟨order0, true, true, [4], 0, false, [], [], []⟩
def seq0 : Sequence := ⟨order0, 0, refs1, .decode, 1, [], [], [], [], none, false⟩
/-- A block table in place 0. -/
def table0 (entries : Tab (Nat × Nat)) (len : Nat) : Nat × BlockTable := (0, ⟨h0, 0, 3, 0, len, 4, 2, entries, refs1⟩)
def withGen (s : State) (f : Gen → Gen) : State := { s with gen := f s.gen }
/-- An entry of the prefix table for block 0 of prompt [97, 98], in pool block 9 or spill block 9, with its tag. -/
def pfx0 (spill : Bool) : PfxEntry := ⟨(promptHashes 3 0 [97, 98]).getD 0 0, 0, spill, 9, none, 0, 7, true, true, true⟩
def withPfx (s : State) (e : PfxEntry) : State :=
  withGen s fun g => { g with
    pfx := [(bucketOf e.hash, [e])]
    pools := if e.spill then [(0, { Pool.reset with spill := [9] })] else [(0, { Pool.reset with used := [9] })]
    tags := [((e.spill, 0, 9), tagFor order0 0 0)] }

/-- A contribution to row 0 of table 12. -/
def grad0 (epoch : Nat) : GradRec := ⟨12, 0, 3, epoch, 0, [0x3F000000, 0]⟩
def devK2 : State := { setReg (setReg devT (rEng 8) 1000) (rEng 0xC) 10 with feat := { devT.feat with spans := [(0, 0, 1000000)] }, obj := { devT.obj with objs := devT.obj.objs ++
    [{ obj 8 12 13 (.featTable { table12 with rows := [le 4 0x3F800000 ++ le 4 0, le 4 0 ++ le 4 0x3F800000] }) with tier := 1 }] } }

def theWork_prefix_lookup_hit : Work := { work0 descGen with prompt := [97, 98] : Work }
def at_prefix_lookup_hit : State := (withReq (withPfx devT (pfx0 false)) (entry0 .front 13) theWork_prefix_lookup_hit)
def at_prefix_lookup_spilled : State := (withReq (withPfx devT (pfx0 true)) (entry0 .front 13) theWork_prefix_lookup_hit)
def at_prefix_lookup_miss : State := (withReq devT (entry0 .waitPrefill 13) theWork_prefix_lookup_hit)
def at_prefix_lookup_too_long : State := (withReq ({ devT with obj := { devT.obj with objs := allObjs.map fun o => if o.uid = 3 then obj 1 3 3 (.model { genModel with maxContext := 2 }) else o } }) (entry0 .front 13) theWork_prefix_lookup_hit)
def thePrefillJob_prefill_admission_own : PrefillJob := { job0 with admitted := false, scratch := [], o := { order0 with home := 3 } : PrefillJob }
def at_prefill_admission_own : State := withGen devT fun g => { g with jobs := [thePrefillJob_prefill_admission_own] }
def theWork_prefill_admitted_one : Work := { work0 descGen with prompt := [97, 98], hashes := promptHashes 3 0 [97, 98], admittedBy := [] : Work }
def at_prefill_admitted_one : State := (withGen (withReq devT (entry0 .waitPrefill 14) theWork_prefill_admitted_one) fun g => { g with jobs := [job0], tables := [table0 [] 0] })
def theWork_prefill_admitted_last : Work := { work0 descGen with prompt := [97, 98], hashes := promptHashes 3 0 [97, 98], admittedBy := [1, 2] : Work }
def at_prefill_admitted_last : State := (withGen (withReq devT (entry0 .waitPrefill 14) theWork_prefill_admitted_last) fun g => { g with jobs := [job0], tables := [table0 [] 0] })
def at_partial_rows : State := (withGen devT fun g => { g with jobs := [({ job0 with rows := [] : PrefillJob })] })
def thePrefillJob_partial_rows_last : PrefillJob := { job0 with rows := [(5, 1, [0x3F800000]), (5, 2, [0x40000000]), (6, 1, [0])] : PrefillJob }
def at_partial_rows_last : State := withGen devT fun g => { g with jobs := [thePrefillJob_partial_rows_last] }
def thePrefillJob_prefill_done_far : PrefillJob := { job0 with o := { order0 with decodeDev := 2, home := 3 } : PrefillJob }
def at_prefill_done_far : State := withGen devT fun g => { g with jobs := [thePrefillJob_prefill_done_far] }
def thePrefillJob_prefill_done_here : PrefillJob := { job0 with o := { order0 with decodeDev := 1, home := 1 } : PrefillJob }
def at_prefill_done_here : State := (withGen (withReq devT (entry0 .prefill 14) (work0 descGen)) fun g => { g with jobs := [thePrefillJob_prefill_done_here] })
def theSequence_slice : Sequence := { seq0 with st := .reshard, pos := 0 : Sequence }
def at_slice : State := (withGen devT fun g => { g with seqs := [theSequence_slice], tables := [table0 [] 0], pools := [(0, { Pool.reset with reserved := 4 })] })
def theSequence_slice_last : Sequence := { seq0 with st := .reshard, pos := 0, got := [⟨1, 0, 0⟩, ⟨2, 0, 0⟩], filling := [(0, 5)] : Sequence }
def at_slice_last : State := (withGen devT fun g => { g with seqs := [theSequence_slice_last], tables := [table0 [] 0], pools := [(0, { Pool.reset with reserved := 4 })] })
def theSequence_logits_last : Sequence := { seq0 with st := .reshard, pos := 0, shares := [(1, [0, 0]), (2, [0x3F800000])], entered := [0] : Sequence }
def at_logits_last : State := (withGen devT fun g => { g with seqs := [theSequence_logits_last], tables := [table0 [(0, (1, 5))] 0], pools := [(0, { Pool.reset with reserved := 4 })] })
def thePrefillJob_reshard_ack : PrefillJob := { job0 with sent := true : PrefillJob }
def at_reshard_ack : State := (withGen devT fun g => { g with jobs := [thePrefillJob_reshard_ack], pools := [(0, { Pool.reset with used := [3, 4] })] })
def at_decode_step : State := (withGen devT fun g => { g with seqs := [seq0], tables := [table0 [(0, (1, 5))] 2] })
def theSequence_mask_built : Sequence := { seq0 with o := { order0 with grammar := some 4 }, refs := [10], waiting := none : Sequence }
def at_mask_built : State := (withGen { devT with compass := { devT.compass with recs := [⟨h0, 4, 10, 0, []⟩] } } fun g => { g with seqs := [theSequence_mask_built], tables := [table0 [(0, (1, 5))] 2] })
def theSequence_mask_built_waiting : Sequence := { seq0 with o := { order0 with grammar := some 4 }, refs := [10], waiting := (some [0x3F800000, 0]) : Sequence }
def at_mask_built_waiting : State := (withGen { devT with compass := { devT.compass with recs := [⟨h0, 4, 10, 0, []⟩] } } fun g => { g with seqs := [theSequence_mask_built_waiting], tables := [table0 [(0, (1, 5))] 2] })
def theWork_token_commit : Work := { work0 descGen with out := [1, 2] : Work }
def theEntry_token_commit_1 : Entry := { entry0 .decode 16 with tokens := 2, ttftUs := 5, outBytes := 3 : Entry }
def at_token_commit : State := withReq devT theEntry_token_commit_1 theWork_token_commit
def theEntry_token_held : Entry := { entry0 .decode 16 with tokens := 2, mirrored := true : Entry }
def at_token_held : State := (withReq devT theEntry_token_held (work0 descGen))
def at_token_early : State := (withReq devT theEntry_token_commit_1 (work0 descGen))
def theEntry_output_write_first : Entry := { entry0 .decode 17 with tokens := 2, arrival := 1000 : Entry }
def theWork_output_write_first_1 : Work := { work0 descGen with writes := [(2, [65, 66]), (4, [67])], lastWrite := 3000 : Work }
def at_output_write_first : State := withReq devT theEntry_output_write_first theWork_output_write_first_1
def theEntry_output_write_1 : Entry := { entry0 .decode 17 with tokens := 2, arrival := 1000, ttftUs := 5, outBytes := 2 : Entry }
def at_output_write : State := withReq devT theEntry_output_write_1 theWork_output_write_first_1
def at_kv_spill : State := (withGen (withPfx devT (pfx0 false)) fun g => { g with pools := [(0, { Pool.reset with used := [8, 9], spill := [2], spilling := some (bucketOf (pfx0 false).hash, 9, 2) })] })
def at_read_back : State := ({ withPfx devT (pfx0 true) with tiers := { devT.tiers with reads := [⟨1, h0, readBackItem 0 9, 100⟩] } })
def at_read_back_gone : State := { devT with tiers := { devT.tiers with reads := [⟨1, h0, readBackItem 0 9, 100⟩] } }
def at_prefix_ageing_kept : State := (setReg (setReg (withPfx devT (pfx0 false)) (rMem 0x1C) 1000) (rMem 0x20) 255)
def at_prefix_ageing_pinned : State := (setReg (setReg (withPfx devT ({ pfx0 false with pin := 1 })) (rMem 0x1C) 1000) (rMem 0x20) 255)
def at_prefix_ageing_out : State := (setReg (setReg (withPfx devT ({ pfx0 false with age := 254 })) (rMem 0x1C) 1000) (rMem 0x20) 255)
def at_update_record : State := { devK2 with feat := { devK2.feat with applied := 2 } }
def at_update_record_off : State := ({ devK2 with feat := { devK2.feat with contribs := [grad0 0] }, power := { devK2.power with doms := tset Dom.reset (tset Dom.reset devK2.power.doms 33 Dom.reset) 34 Dom.reset } })
def at_epoch_apply : State := { devK2 with feat := { devK2.feat with contribs := [grad0 0, grad0 1] } }
def at_row_cache_ageing : State := ({ devK2 with feat := { devK2.feat with cache := [(3, [⟨12, 0, 1, 5, 0⟩])] }, vcache := [⟨1, 6, 1, 5⟩, ⟨1, 6, 2, 6⟩] })
/-- PrefixLookup: PrefixesAreLookedUpAndPrefillIsAdmitted. -/
theorem test_prefix_lookup_hit :
    (atPrefix at_prefix_lookup_hit 0 = some theWork_prefix_lookup_hit) ∧
    ((entry at_prefix_lookup_hit 0).st = .front ∧ theWork_prefix_lookup_hit.hashes = []) ∧
    ((heldModel at_prefix_lookup_hit theWork_prefix_lookup_hit).map (·.maxContext) = some 4096 ∧ (fullPrompt theWork_prefix_lookup_hit).length < 4096 ∧ fullPrompt theWork_prefix_lookup_hit ≠ []) ∧
    (reuseRun at_prefix_lookup_hit (orderOf at_prefix_lookup_hit 0 { theWork_prefix_lookup_hit with hashes := promptHashes 3 0 [97, 98], reuse := 0, late := [] } 0xFFFF) = [pfx0 false]) ∧
    (nexts (exec (.prefixLookup 0 9) at_prefix_lookup_hit) fun u => decide ((work u 0).map (fun w => (w.reuse, w.pins)) = some (1, [(false, 0, 9)])) = true) := by decide +kernel

/-- prefix lookup spilled, prefix lookup miss, prefix lookup too long. -/
theorem test_prefixLookup_clauses :
    ((atPrefix at_prefix_lookup_spilled 0 = some theWork_prefix_lookup_hit) ∧
    ((entry at_prefix_lookup_spilled 0).st = .front ∧ theWork_prefix_lookup_hit.hashes = []) ∧
    (reuseRun at_prefix_lookup_spilled (orderOf at_prefix_lookup_spilled 0 { theWork_prefix_lookup_hit with hashes := promptHashes 3 0 [97, 98], reuse := 0, late := [] } 0xFFFF) = [pfx0 true]) ∧
    (nexts (exec (.prefixLookup 0 9) at_prefix_lookup_spilled) fun u => decide ((entry u 0).stage = 13 ∧ (work u 0).map (·.readBacks) = some [(0, 9)]) = true)) ∧
    ((atPrefix at_prefix_lookup_miss 0 = some theWork_prefix_lookup_hit) ∧
    ((entry at_prefix_lookup_miss 0).st = .waitPrefill ∧ theWork_prefix_lookup_hit.hashes = []) ∧
    (nexts (exec (.prefixLookup 0 9) at_prefix_lookup_miss) fun u => decide ((entry u 0).stage = 14 ∧ (work u 0).map (·.reuse) = some 0) = true)) ∧
    ((atPrefix at_prefix_lookup_too_long 0 = some theWork_prefix_lookup_hit) ∧
    ((entry at_prefix_lookup_too_long 0).st = .front ∧ theWork_prefix_lookup_hit.hashes = []) ∧
    ((heldModel at_prefix_lookup_too_long theWork_prefix_lookup_hit).map (·.maxContext) = some (fullPrompt theWork_prefix_lookup_hit).length) ∧
    (nexts (exec (.prefixLookup 0 9) at_prefix_lookup_too_long) fun u => decide (((work u 0).bind (·.commit)).map (·.status) = some .limitExceeded) = true)) := by decide +kernel

/-- PrefillAdmission: PrefixesAreLookedUpAndPrefillIsAdmitted. -/
theorem test_prefill_admission_own :
    (isReady at_prefill_admission_own = true) ∧
    (jobOf at_prefill_admission_own h0 = some thePrefillJob_prefill_admission_own ∧ thePrefillJob_prefill_admission_own.admitted = false) ∧
    (gslotOf at_prefill_admission_own thePrefillJob_prefill_admission_own.o.model = some 0 ∧ stageUnitUp at_prefill_admission_own 14 = true) ∧
    (cdiv (nBlocks thePrefillJob_prefill_admission_own.o.toks.length) thePrefillJob_prefill_admission_own.o.group.length ≤ unreserved at_prefill_admission_own 0) ∧
    ((takeMany (tick at_prefill_admission_own 9) 0 (cdiv (nBlocks thePrefillJob_prefill_admission_own.o.toks.length) thePrefillJob_prefill_admission_own.o.group.length)).isSome = true) ∧
    (thePrefillJob_prefill_admission_own.o.home ≠ devno at_prefill_admission_own) ∧
    (nexts (exec (.prefillAdmission h0 1 9) at_prefill_admission_own) fun u => decide ((jobOf u h0).map (fun j => (j.admitted, j.scratch)) = some (true, [0])) = true) := by decide +kernel

/-- prefill admitted one, prefill admitted last. -/
theorem test_prefillAdmission_clauses :
    ((isReady at_prefill_admitted_one = true ∧ 3 ≠ devno at_prefill_admitted_one ∧ 3 ∈ groupOf at_prefill_admitted_one) ∧
    (liveSlot at_prefill_admitted_one h0 = some 0 ∧ work at_prefill_admitted_one 0 = some theWork_prefill_admitted_one ∧ theWork_prefill_admitted_one.handle = h0) ∧
    ((entry at_prefill_admitted_one 0).st = .waitPrefill ∧ (entry at_prefill_admitted_one 0).stage = 14) ∧
    (∃ d ∈ groupOf at_prefill_admitted_one, d ≠ 3 ∧ d ∉ theWork_prefill_admitted_one.admittedBy) ∧
    (nexts (exec (.prefillAdmission h0 3 9) at_prefill_admitted_one) fun u => decide ((work u 0).map (·.admittedBy) = some [3]) = true)) ∧
    ((isReady at_prefill_admitted_last = true ∧ 3 ≠ devno at_prefill_admitted_last ∧ 3 ∈ groupOf at_prefill_admitted_last) ∧
    (liveSlot at_prefill_admitted_last h0 = some 0 ∧ work at_prefill_admitted_last 0 = some theWork_prefill_admitted_last ∧ theWork_prefill_admitted_last.handle = h0) ∧
    ((entry at_prefill_admitted_last 0).st = .waitPrefill ∧ (entry at_prefill_admitted_last 0).stage = 14) ∧
    ((∀ d ∈ groupOf at_prefill_admitted_last, d = 3 ∨ d ∈ theWork_prefill_admitted_last.admittedBy) ∧ stageUnitUp at_prefill_admitted_last 14 = true ∧ (tableOf at_prefill_admitted_last h0).isSome = true) ∧
    (nexts (exec (.prefillAdmission h0 3 9) at_prefill_admitted_last) fun u => decide ((entry u 0).st = .prefill ∧ (entry u 0).kvDev = 1 ∧ (seqOf u h0).isSome = true) = true)) := by decide +kernel

/-- PartialRowsReceive: PrefillRowsSlicesAndAcknowledgements. -/
theorem test_partial_rows :
    (jobOf at_partial_rows h0 = some ({ job0 with rows := [] : PrefillJob }) ∧ ({ job0 with rows := [] : PrefillJob }).admitted = true ∧ 3 ∈ ({ job0 with rows := [] : PrefillJob }).o.group) ∧
    (nexts (exec (.partialRowsReceive h0 3 5 [0x40000000]) at_partial_rows) fun u => decide ((jobOf u h0).map (fun j => (j.rows.length, j.hidden)) = some (1, [])) = true) := by decide +kernel

theorem test_partial_rows_last :
    (jobOf at_partial_rows_last h0 = some thePrefillJob_partial_rows_last ∧ thePrefillJob_partial_rows_last.admitted = true ∧ 3 ∈ thePrefillJob_partial_rows_last.o.group) ∧
    (nexts (exec (.partialRowsReceive h0 3 5 [0x40000000]) at_partial_rows_last) fun u => decide ((jobOf u h0).map (fun j => (j.rows, j.hidden)) = some ([(6, 1, [0])], [(5, [0x40A00000])])) = true) := by decide +kernel

/-- PrefillDone: PrefillRowsSlicesAndAcknowledgements. -/
theorem test_prefill_done_far :
    (jobOf at_prefill_done_far h0 = some thePrefillJob_prefill_done_far) ∧
    (thePrefillJob_prefill_done_far.admitted = true ∧ thePrefillJob_prefill_done_far.sent = false ∧ thePrefillJob_prefill_done_far.prefixIn = true ∧ thePrefillJob_prefill_done_far.o.decodeDev ≠ 0xFFFF ∧ movesUp at_prefill_done_far = true) ∧
    (RegsOpen at_prefill_done_far 0 ∧ at_prefill_done_far.tiers.poison = [] ∧ (freeList at_prefill_done_far).isSome = true ∧ streamRuns at_prefill_done_far 3 h0 = false) ∧
    (nexts (exec (.prefillDone h0 9 [0, 1]) at_prefill_done_far) fun u => decide ((jobOf u h0).map (·.sent) = some true) = true) := by decide +kernel

theorem test_prefill_done_here :
    (jobOf at_prefill_done_here h0 = some thePrefillJob_prefill_done_here) ∧
    (thePrefillJob_prefill_done_here.admitted = true ∧ thePrefillJob_prefill_done_here.sent = false ∧ thePrefillJob_prefill_done_here.prefixIn = true ∧ thePrefillJob_prefill_done_here.o.decodeDev ≠ 0xFFFF ∧ movesUp at_prefill_done_here = true) ∧
    (liveSlot at_prefill_done_here h0 = some 0) ∧
    (RegsOpen at_prefill_done_here 0 ∧ at_prefill_done_here.tiers.poison = [] ∧ (freeList at_prefill_done_here).isSome = true ∧ streamRuns at_prefill_done_here 3 h0 = false) ∧
    (nexts (exec (.prefillDone h0 9 [0, 1]) at_prefill_done_here) fun u => decide ((entry u 0).stage = 15) && decide (u.links.inbox.length = 2) = true) := by decide +kernel

/-- ReshardSliceReceive: PrefillRowsSlicesAndAcknowledgements. -/
theorem test_slice :
    (seqOf at_slice h0 = some theSequence_slice ∧ theSequence_slice.st = .reshard ∧ 3 ∈ theSequence_slice.o.group) ∧
    ((seqModel at_slice theSequence_slice).map (·.layers) = some 1 ∧ ⟨3, 0, 0⟩ ∉ theSequence_slice.got ∧ 0 ∈ computedBlocks theSequence_slice.o) ∧
    ((takeReserved (takeMsg (tick at_slice 9) 3 (.slices h0 ⟨3, 0, 0⟩ [])) h0).isSome = true) ∧
    (∃ d ∈ theSequence_slice.o.group, theSequence_slice.shares.lookup d = none) ∧
    (RegsOpen at_slice 0 ∧ at_slice.tiers.poison = [] ∧ (freeList at_slice).isSome = true) ∧
    (nexts (exec (.reshardSliceReceive h0 ⟨3, 0, 0⟩ 9 [(0, 5)] none) at_slice) fun u => decide ((seqOf u h0).map (fun q => (q.got, q.entered)) = some ([⟨3, 0, 0⟩], [])) = true) := by decide +kernel

/-- slice last, logits, logits last. -/
theorem test_reshardSliceReceive_clauses :
    ((seqOf at_slice_last h0 = some theSequence_slice_last ∧ theSequence_slice_last.st = .reshard ∧ 3 ∈ theSequence_slice_last.o.group) ∧
    (⟨3, 0, 0⟩ ∉ theSequence_slice_last.got ∧ 0 ∈ computedBlocks theSequence_slice_last.o) ∧
    ((theSequence_slice_last.filling.any fun f => f.1 == 0) = true) ∧
    (nexts (exec (.reshardSliceReceive h0 ⟨3, 0, 0⟩ 9 [(0, 5)] none) at_slice_last) fun u => decide ((seqOf u h0).map (·.entered) = some [0]) = true)) ∧
    ((seqOf at_slice h0 = some theSequence_slice ∧ theSequence_slice.st = .reshard ∧ 3 ∈ theSequence_slice.o.group) ∧
    (theSequence_slice.shares.lookup 3 = none) ∧
    (∃ d ∈ theSequence_slice.o.group, d ≠ 3 ∧ theSequence_slice.shares.lookup d = none) ∧
    (nexts (exec (.reshardSliceReceive h0 ⟨3, 0, 0⟩ 9 [] (some [0])) at_slice) fun u => decide ((seqOf u h0).map (·.shares) = some [(3, [0])]) = true)) ∧
    ((seqOf at_logits_last h0 = some theSequence_logits_last ∧ theSequence_logits_last.st = .reshard ∧ 3 ∈ theSequence_logits_last.o.group) ∧
    (theSequence_logits_last.shares.lookup 3 = none) ∧
    (allSome (theSequence_logits_last.o.group.map fun d => (theSequence_logits_last.shares ++ [(3, [0])]).lookup d) = some [[0, 0], [0x3F800000], [0]]) ∧
    ((∀ b ∈ computedBlocks theSequence_logits_last.o, b ∈ theSequence_logits_last.entered) ∧ stageUnitUp at_logits_last 16 = true ∧ theSequence_logits_last.o.grammar = none) ∧
    (nexts (exec (.reshardSliceReceive h0 ⟨3, 0, 0⟩ 9 [] (some [0])) at_logits_last) fun u => decide (u.links.inbox = [(1, .token h0 0 2)]) = true)) := by decide +kernel

/-- ReshardAckReceive: PrefillRowsSlicesAndAcknowledgements. -/
theorem test_reshard_ack :
    (jobOf at_reshard_ack h0 = some thePrefillJob_reshard_ack ∧ thePrefillJob_reshard_ack.sent = true) ∧
    (nexts (exec (.reshardAckReceive h0) at_reshard_ack) fun u => decide (jobOf u h0 = none ∧ (pool u 0).used = [3]) = true) := by decide +kernel

/-- DecodeStep: TokensAreDecodedAndCommitted. -/
theorem test_decode_step :
    (isReady at_decode_step = true ∧ stageUnitUp at_decode_step 16 = true ∧ (at_decode_step.gen.seqs.map (·.o.h)).Nodup) ∧
    (at_decode_step.gen.seqs = [seq0] ∧ seq0.o.model = 3 ∧ seq0.st = .decode ∧ seq0.waiting = none ∧ seq0.o.grammar = none) ∧
    (tableOf at_decode_step h0 = some (table0 [(0, (1, 5))] 2)) ∧
    (RegsOpen at_decode_step 0 ∧ at_decode_step.tiers.poison = [] ∧ (freeList at_decode_step).isSome = true ∧ compassBuilds at_decode_step = true ∧ streamRuns at_decode_step 4 h0 = false ∧ (stepSet at_decode_step 3).length = 1 ∧ (at_decode_step.lb.work.map (·.1)).Nodup) ∧
    (nexts (exec (.decodeStep 3 9 [(h0, [0, 0x3F800000])]) at_decode_step) fun u => decide (u.links.inbox = [(1, .token h0 1 1)]) = true) := by decide +kernel

theorem test_decode_step_waits :
    (isReady at_decode_step = true ∧ stageUnitUp at_decode_step 16 = true ∧ compassBuilds at_decode_step = true) ∧
    (seq0 ∈ stepSet at_decode_step 3) ∧
    (nexts (exec (.decodeStep 3 9 []) at_decode_step) fun u => decide (u = at_decode_step) = true) := by decide +kernel

/-- MaskBuilt: TokensAreDecodedAndCommitted. -/
theorem test_mask_built :
    (((wantMask at_mask_built).take (compassOn at_mask_built)).find? (fun q => q.o.h == h0) = some theSequence_mask_built) ∧
    (seqGrammar at_mask_built theSequence_mask_built = some grammar1 ∧ (at_mask_built.compass.recs.find? fun r => r.h == h0) = some ⟨h0, 4, 10, 0, []⟩) ∧
    (theSequence_mask_built.waiting = none ∧ maskOf grammar1 ⟨h0, 4, 10, 0, []⟩ ≠ []) ∧
    (RegsOpen at_mask_built 0 ∧ at_mask_built.tiers.poison = [] ∧ (freeList at_mask_built).isSome = true) ∧
    (nexts (exec (.maskBuilt h0 9) at_mask_built) fun u => decide (u.compass.masks.map (fun m => (m.1, m.2.length)) = [(h0, 8)]) = true) := by decide +kernel

theorem test_mask_built_waiting :
    (((wantMask at_mask_built_waiting).take (compassOn at_mask_built_waiting)).find? (fun q => q.o.h == h0) = some theSequence_mask_built_waiting) ∧
    (seqGrammar at_mask_built_waiting theSequence_mask_built_waiting = some grammar1 ∧ (at_mask_built_waiting.compass.recs.find? fun r => r.h == h0) = some ⟨h0, 4, 10, 0, []⟩) ∧
    (theSequence_mask_built_waiting.waiting = (some [0x3F800000, 0]) ∧ maskOf grammar1 ⟨h0, 4, 10, 0, []⟩ ≠ []) ∧
    (RegsOpen at_mask_built_waiting 0 ∧ at_mask_built_waiting.tiers.poison = [] ∧ (freeList at_mask_built_waiting).isSome = true) ∧
    (nexts (exec (.maskBuilt h0 9) at_mask_built_waiting) fun u => decide (u.links.inbox = [(1, .token h0 1 0)]) = true) := by decide +kernel

/-- TokenCommit: TokensAreDecodedAndCommitted. -/
theorem test_token_commit :
    (work at_token_commit 0 = some theWork_token_commit ∧ liveSlot at_token_commit h0 = some 0 ∧ theWork_token_commit.handle = h0) ∧
    ((entry at_token_commit 0).st = .decode ∧ theWork_token_commit.genEnd = none) ∧
    (theWork_token_commit.held = [] ∧ theWork_token_commit.early = [] ∧ (entry at_token_commit 0).mirrored = false ∧ plotterUp at_token_commit = true ∧ (heldVocab at_token_commit theWork_token_commit (genVocabId theWork_token_commit.prof)).isSome = true) ∧
    ((fitChars ((entry at_token_commit 0).outLen - outIssued (entry at_token_commit 0) theWork_token_commit) (releaseText theWork_token_commit.hold (tokText vocab 97)).1).2 = false) ∧
    (RegsOpen at_token_commit 0 ∧ at_token_commit.tiers.poison = [] ∧ (freeList at_token_commit).isSome = true ∧ isReady at_token_commit = true ∧ theWork_token_commit.ending = none) ∧
    (nexts (exec (.tokenCommit 0 2 97 9) at_token_commit) fun u => decide ((work u 0).map (fun w => (w.out, w.writes)) = some ([1, 2, 97], [(3, [97])])) = true) := by decide +kernel

/-- token held, token early, token repeated. -/
theorem test_tokenCommit_clauses :
    ((work at_token_held 0 = some (work0 descGen) ∧ liveSlot at_token_held h0 = some 0 ∧ (work0 descGen).handle = h0) ∧
    ((entry at_token_held 0).st = .decode ∧ (work0 descGen).genEnd = none) ∧
    ((work0 descGen).early = [] ∧ (entry at_token_held 0).mirrored = true) ∧
    (nexts (exec (.tokenCommit 0 2 97 9) at_token_held) fun u => decide ((work u 0).map (·.held) = some [97]) = true)) ∧
    ((work at_token_early 0 = some (work0 descGen) ∧ liveSlot at_token_early h0 = some 0 ∧ (work0 descGen).handle = h0) ∧
    ((entry at_token_early 0).st = .decode ∧ (work0 descGen).genEnd = none) ∧
    ((entry at_token_early 0).tokens + (work0 descGen).held.length < 4 ∧ ∀ x ∈ (work0 descGen).early, x.1 ≠ 4) ∧
    (nexts (exec (.tokenCommit 0 4 97 9) at_token_early) fun u => decide ((work u 0).map (·.early) = some [(4, 97)]) = true)) ∧
    ((work at_token_early 0 = some (work0 descGen) ∧ liveSlot at_token_early h0 = some 0 ∧ (work0 descGen).handle = h0) ∧
    ((entry at_token_early 0).st = .decode ∧ (work0 descGen).genEnd = none) ∧
    (1 < (entry at_token_early 0).tokens + (work0 descGen).held.length) ∧
    (nexts (exec (.tokenCommit 0 1 97 9) at_token_early) fun u => decide ((entry u 0).tokens = 2) = true)) := by decide +kernel

/-- OutputWriteDone: TokensAreDecodedAndCommitted. -/
theorem test_output_write_first :
    (work at_output_write_first 0 = some theWork_output_write_first_1 ∧ theWork_output_write_first_1.writes = (2, [65, 66]) :: [(4, [67])]) ∧
    (regOpen at_output_write_first 0 4 2 = true ∧ (entry at_output_write_first 0).st = .decode ∧ theWork_output_write_first_1.genEnd = none) ∧
    (isReady at_output_write_first = true ∧ theWork_output_write_first_1.ending = none) ∧
    (nexts (exec (.outputWriteDone 0 10000) at_output_write_first) fun u => decide ((entry u 0).ttftUs = 9 ∧ (entry u 0).outBytes = 4) = true) := by decide +kernel

theorem test_output_write :
    (work at_output_write 0 = some theWork_output_write_first_1 ∧ theWork_output_write_first_1.writes = (2, [65, 66]) :: [(4, [67])]) ∧
    (regOpen at_output_write 0 4 2 = true ∧ (entry at_output_write 0).st = .decode ∧ theWork_output_write_first_1.genEnd = none) ∧
    (isReady at_output_write = true ∧ theWork_output_write_first_1.ending = none) ∧
    (nexts (exec (.outputWriteDone 0 10000) at_output_write) fun u => decide ((entry u 0).ttftUs = 5 ∧ (entry u 0).tbtMax = 1 ∧ (work u 0).map (·.gaps) = some 1) = true) := by decide +kernel

/-- KvSpill: KeyValueBlocksSpillReturnAndAge. -/
theorem test_kv_spill :
    ((pool at_kv_spill 0).spilling = some (bucketOf (pfx0 false).hash, 9, 2)) ∧
    ((tget [] at_kv_spill.gen.pfx (bucketOf (pfx0 false).hash)).find? (fun e => e.valid && e.g == 0 && !e.spill && e.idx == 9) = some (pfx0 false) ∧ (pfx0 false).pin = 0) ∧
    (nexts (exec (.kvSpill 0) at_kv_spill) fun u => decide ((pool u 0).used = [8] ∧ (pfxAll u).map (fun e => (e.2.spill, e.2.idx)) = [(true, 2)]) = true) := by decide +kernel

/-- PrefixReadBack: KeyValueBlocksSpillReturnAndAge. -/
theorem test_read_back :
    ((at_read_back.tiers.reads.find? fun r => r.kind == 1 && r.item == readBackItem 0 9) = some ⟨1, h0, readBackItem 0 9, 100⟩) ∧
    (((pfxAll at_read_back).find? fun e => e.2.g == 0 && e.2.spill && e.2.idx == 9) = some (bucketOf (pfx0 true).hash, pfx0 true)) ∧
    (regOpen at_read_back 0 1 (blockBytesMax at_read_back) = true ∧ regOpen at_read_back 0 0 (blockBytesMax at_read_back) = true ∧ poisoned at_read_back (kvAddr at_read_back true 0 9) (blockBytesMax at_read_back) = false) ∧
    ((takeBlock (charge (tick at_read_back 9) 0 1 (blockBytesMax at_read_back)) 0).map (·.1) = some 0) ∧
    (nexts (exec (.prefixReadBack 0 9 9 []) at_read_back) fun u => decide (u.tiers.reads = [] ∧ (pool u 0).used = [0]) = true) := by decide +kernel

/-- A block that cannot be read is recomputed by the request that waits for it, degraded. -/
def at_read_back_bad : State := { withReq at_read_back (entry0 .front 13) { work0 descGen with prompt := [97, 98], hashes := promptHashes 3 0 [97, 98], readBacks := [(0, 9)] } with
  tiers := { at_read_back.tiers with poison := [(kvAddr at_read_back true 0 9, 64)] } }
theorem test_read_back_bad :
    (regOpen at_read_back_bad 0 1 (blockBytesMax at_read_back_bad) = true ∧ regOpen at_read_back_bad 0 0 (blockBytesMax at_read_back_bad) = true ∧ poisoned at_read_back_bad (kvAddr at_read_back_bad true 0 9) (blockBytesMax at_read_back_bad) = true) ∧
    ((atPrefix at_read_back_bad 0).map (fun w => (gslotOf at_read_back_bad w.prof.genModel, w.readBacks.find? (fun r => r.2 == 9))) = some (some 0, some (0, 9)) ∧ at_read_back_bad.lb.work.map (·.1) = [0]) ∧
    (nexts (exec (.prefixReadBack 0 9 9 []) at_read_back_bad) fun u => decide (u.tiers.reads = [] ∧ (work u 0).map (fun w => (w.late, w.quals.degraded)) = some ([0], true)) = true) := by decide +kernel

theorem test_read_back_gone :
    ((at_read_back_gone.tiers.reads.find? fun r => r.kind == 1 && r.item == readBackItem 0 9).isSome = true) ∧
    (((pfxAll at_read_back_gone).find? fun e => e.2.g == 0 && e.2.spill && e.2.idx == 9) = none) ∧
    (nexts (exec (.prefixReadBack 0 9 9 []) at_read_back_gone) fun u => decide (u.tiers.reads = []) = true) := by decide +kernel

/-- PrefixAgeing: KeyValueBlocksSpillReturnAndAge. -/
theorem test_prefix_ageing_kept :
    (at_prefix_ageing_kept.gen.ageAt + prefixAgeNs at_prefix_ageing_kept ≤ max at_prefix_ageing_kept.now 1000000) ∧
    (nexts (exec (.prefixAgeing 1000000) at_prefix_ageing_kept) fun u => decide ((pfxAll u).map (fun e => e.2.age) = [8]) = true) := by decide +kernel

/-- prefix ageing pinned, prefix ageing out. -/
theorem test_prefixAgeing_clauses :
    ((at_prefix_ageing_pinned.gen.ageAt + prefixAgeNs at_prefix_ageing_pinned ≤ max at_prefix_ageing_pinned.now 1000000) ∧
    (nexts (exec (.prefixAgeing 1000000) at_prefix_ageing_pinned) fun u => decide ((pfxAll u).map (fun e => e.2.age) = [7]) = true)) ∧
    ((at_prefix_ageing_out.gen.ageAt + prefixAgeNs at_prefix_ageing_out ≤ max at_prefix_ageing_out.now 1000000) ∧
    (nexts (exec (.prefixAgeing 1000000) at_prefix_ageing_out) fun u => decide (pfxAll u = [] ∧ (pool u 0).used = []) = true)) := by decide +kernel

/-- UpdateRecordReceive: FeatureUpdatesAndCachesAge. -/
theorem test_update_record :
    (isReady at_update_record = true ∧ at_update_record.feat.applied ≤ (grad0 2).epoch ∧ featureUp at_update_record = true) ∧
    (nexts (exec (.updateRecordReceive (grad0 2)) at_update_record) fun u => decide (u.feat.contribs = [grad0 2]) = true) := by decide +kernel

/-- update record late, update record off. -/
theorem test_updateRecordReceive_clauses :
    ((isReady at_update_record = true ∧ (grad0 1).epoch < at_update_record.feat.applied) ∧
    (nexts (exec (.updateRecordReceive (grad0 1)) at_update_record) fun u => decide (u.feat.stale = [12] ∧ u.feat.contribs = []) = true)) ∧
    ((isReady at_update_record_off = true ∧ featureUp at_update_record_off = false) ∧
    (nexts (exec (.updateRecordReceive (grad0 1)) at_update_record_off) fun u => decide (u.feat.stale = [12]) = true)) := by decide +kernel

/-- UpdateEpochEnd: FeatureUpdatesAndCachesAge. -/
theorem test_epoch_end :
    (epochEnd devK2 devK2.feat.epoch ≤ max devK2.now 1000000) ∧
    (nexts (exec (.updateEpochEnd 1000000) devK2) fun u => decide (u.feat.epoch = 1) = true) := by decide +kernel

theorem test_epoch_end_early :
    (max devK2.now 999999 < epochEnd devK2 devK2.feat.epoch) ∧
    (nexts (exec (.updateEpochEnd 999999) devK2) fun u => decide (u.feat = devK2.feat) = true) := by decide +kernel

/-- EpochApply: FeatureUpdatesAndCachesAge. -/
theorem test_epoch_apply :
    (at_epoch_apply.feat.applied ≤ 0 ∧ 0 < (advanceEpoch (tick at_epoch_apply 1010000)).feat.epoch ∧ epochEnd (advanceEpoch (tick at_epoch_apply 1010000)) 0 + graceNs at_epoch_apply ≤ max at_epoch_apply.now 1010000 ∧ featureUp at_epoch_apply = true ∧ at_epoch_apply.tiers.poison = [] ∧ (∀ c ∈ at_epoch_apply.feat.contribs, 0 ≤ c.epoch) ∧ (at_epoch_apply.obj.objs.map (·.uid)).Nodup) ∧
    (∀ o ∈ at_epoch_apply.obj.objs, (match o.body with | .featTable _ => o.kind == 8 | _ => true) = true) ∧
    (nexts (exec (.epochApply 0 1010000) at_epoch_apply) fun u => decide ((tableFor u 12).map (·.rows) = some [le 4 0x3F000000 ++ le 4 0, le 4 0 ++ le 4 0x3F800000]) = true) := by decide +kernel

theorem test_epoch_apply_off :
    (at_update_record_off.feat.applied ≤ 0 ∧ 0 < (advanceEpoch (tick at_update_record_off 1010000)).feat.epoch ∧ epochEnd (advanceEpoch (tick at_update_record_off 1010000)) 0 + graceNs at_update_record_off ≤ max at_update_record_off.now 1010000 ∧ featureUp at_update_record_off = false) ∧
    (nexts (exec (.epochApply 0 1010000) at_update_record_off) fun u => decide (u.feat.stale = [12] ∧ u.feat.contribs = [] ∧ u.feat.applied = 1) = true) := by decide +kernel

/-- RowCacheAgeing: FeatureUpdatesAndCachesAge. -/
theorem test_row_cache_ageing :
    (nexts (exec (.rowCacheAgeing 9) at_row_cache_ageing) fun u => decide (u.feat.cache = [(3, [⟨12, 0, 1, 2, 0⟩])]) = true) := by decide +kernel

/-- VocabularyCacheAgeing: FeatureUpdatesAndCachesAge. -/
theorem test_vocabulary_cache_ageing :
    (5 + vcacheAgeNs at_row_cache_ageing ≤ 5 + vcacheAgeNs at_row_cache_ageing) ∧
    (nexts (exec (.vocabularyCacheAgeing (5 + vcacheAgeNs devK2)) at_row_cache_ageing) fun u => decide (u.vcache = [⟨1, 6, 2, 6⟩]) = true) := by decide +kernel

/-- A passage store of four dies of 64 block sets of 2 pages; passage set 9 holds item 7. -/
def devV (f : PassageStore → PassageStore) : State :=
  { devU with ps := f { devU.ps with
    chans := [(0, 200, 4)], pb := 2, perDie := 64
    sets := [⟨9, [(7, some ⟨0, 1, 6⟩)], [(7, some rec7)], [], [0], (0, 1024)⟩], map := [(0, some (0, 5))]
    open_ := [⟨0, 5, 0, 2, 0⟩] } }

/-- Batches for set 9: item 7 shortened in place, item 8 new; item 7 deleted; a replacing one. -/
def batchOf (replace : Bool) (rs : List PassageRec) : Batch := ⟨3, 0, 1, 5, 7, 9, replace, rs⟩
def logged (p : PassageStore) : PassageStore :=
  { p with logs := [(0, some (0, 7, 0)), (1, some (0, 7, 1))], open_ := p.open_ ++ [⟨0, 7, 3, 2, 0⟩] }

/-- A DATA frame 0 from device 3 on queue 0; what device 3 has been sent on queue 0. -/
def eth0 : Eth := ⟨0, 0, none, linkEtype devU⟩
def frame0 (seq : Nat) (last : Bool) (m : Option Msg) : Frame := ⟨1, 3, 0, 0, 1, 64, seq, 0, .ok, true, last, none, 0, eth0, m⟩
def sent0 (seq : Nat) : Frame := ⟨3, 1, 0, 0, 1, 64, seq, 0, .ok, true, true, some h0, 0, eth0, some (.abort h0)⟩
def ctl0 (kind seq ack : Nat) (st : Status) : Frame := ⟨1, 3, 0, 0, kind, 0, seq, ack, st, false, false, none, 0, eth0, none⟩
def withLinks (s : State) (f : Links → Links) : State := { s with links := f s.links }

def at_codeword_read : State := devV fun p => { p with closes := [⟨0, 5, 0, 25, 0, 0⟩] }
def at_set_verify : State := devV fun p => { p with pb := 2 }
def at_erase_done : State := (devV fun p => { p with toErase := [(0, 6)] })
def at_batch_commit : State := devV fun p => { p with batches := [batchOf false [⟨7, [1], [67]⟩, ⟨8, [], [68]⟩]] }
def at_batch_commit_deletes : State := devV fun p => { p with batches := [batchOf false [⟨7, [], []⟩]] }
def at_batch_commit_replaces : State := devV fun p => { p with batches := [batchOf true [⟨8, [], [68]⟩]] }
def at_batch_full : State := (devV fun p => { p with batches := [batchOf false [⟨8, [], [68]⟩]], perDie := 1, map := [(0, some (0, 0))], open_ := [] })
def at_log_merge : State := (devV fun p => { logged p with open_ := p.open_ ++ (List.range 64).map (fun k => (⟨0, 8 + k, 3, 2, 0⟩ : OpenSet)), perDie := 128 })
def at_set_rewrite : State := (devV fun p => { p with rewrites := [(0, 5)] })
def at_frame_refused_bringup : State := { devU with boot := { devU.boot with st := .bringup } }
def at_frame_part : State := withLinks devU fun l => { l with rx := [⟨3, 0, 5, none⟩] }
def at_frame_fenced : State := (modPort (withLinks devU fun l => { l with rx := [⟨3, 0, 5, none⟩] }) 1 fun P => { P with heldOut := true })
def at_ack_one : State := withLinks devU fun l => { l with tx := [⟨3, 0, 7, [sent0 5, sent0 6], 1, 2, true, false⟩] }
def at_transmit_ptp : State := (modPort (setReg (setReg devU (rLink 4) 0x030110) (rLink 8) 0x00100010) 1 fun P => { P with queues := [(0, [(3, 0, .abort h0)]), (4, [(3, 0, .token h0 1 2)])], ptp := 1 })
def at_transmit : State := (modPort (setReg (setReg devU (rLink 4) 0x030110) (rLink 8) 0x00100010) 1 fun P => { P with queues := [(0, [(3, 0, .abort h0)]), (4, [(3, 0, .token h0 1 2)])], ptp := 0 })
def at_transmit_weighted : State := (modPort (setReg (setReg devU (rLink 4) 0x030110) (rLink 8) 0x00100010) 1 fun P => { P with queues := [(4, [(3, 0, .token h0 1 2)])] })
def at_transmit_ack : State := (modPort (setReg (setReg (withLinks devU fun l => { l with rx := [⟨3, 4, 6, none⟩] }) (rLink 4) 0x030110) (rLink 8) 0x00100010) 1 fun P => { P with queues := [(0, [(3, 0, .ackFrame 4)])], ptp := 0 })
def at_ack_send : State := withLinks devU fun l => { l with rx := [⟨3, 0, 5, some 4⟩] }
def at_ack_timeout_replay : State := (withLinks (setReg (setReg devU (rLink 4) 0x030110) (rLink 8) 0x00100010) fun l => { l with tx := [⟨3, 0, 6, [sent0 5], 1000, 0, false, false⟩] })
def at_ack_timeout_alternate : State := (withLinks (setReg (setReg devU (rLink 4) 0x030110) (rLink 8) 0x00100010) fun l => { l with tx := [⟨3, 0, 6, [sent0 5], 1000, 2, false, false⟩] })
def at_ack_timeout_lost : State := (withLinks (setReg (setReg devU (rLink 4) 0x030110) (rLink 8) 0x00100010) fun l => { l with tx := [⟨3, 0, 6, [sent0 5], 1000, 5, false, false⟩] })
def at_list_switch_now : State := (modPort devU 1 fun P => { P with pendLen := 2, pend := [(0, some 0x2FF), (1, some 0x4FF)], wheel := [(0, [3]), (5, [7])], flows := [(3, 999999)] })
def at_list_refused_now : State := (modPort devU 1 fun P => { P with pend := [(0, some 0x200)] })
def at_gate_boundary_switches : State := modPort devU 1 fun P => { P with switch := some ⟨9, [0x2FF, 0x4FF]⟩ }
def at_gate_boundary_waits : State := modPort devU 1 fun P => { P with switch := some ⟨10, [0x2FF, 0x4FF]⟩ }
def at_calendar_slot : State := (setReg (modPort devU 1 fun P => { P with pendLen := 2, pend := [(0, some 0x2FF), (1, some 0x4FF)], wheel := [(0, [3]), (5, [7])], flows := [(3, 999999)] }) (rPort 1 0x10C) 10)
def at_training_full : State := modPort devU 1 fun P => { P with st := .down, width := 0, lanes := [] }
def at_lane_loss_first : State := ({ devU with faults := { devU.faults with transient := tset 0 [] (errKey clsLink 6) 0 } })
def at_lane_loss_third : State := ({ devU with faults := { devU.faults with transient := tset 0 [] (errKey clsLink 6) 2 } })
def at_holdover : State := ({ setReg (setReg devU (rLink 0xC) 0) (rLink 0x14) 10 with nt := { devU.nt with status := 1 } })
def at_free_run : State := ({ setReg (setReg devU (rLink 0xC) 0) (rLink 0x14) 10 with nt := { devU.nt with status := 2 } })
def at_pps_in_missed : State := setGpio devU 2 { Gpio.start 2 with func := 3, pend := some 5 }
def at_pps_in_first : State := (setReg (setGpio ({ devU with boot := { devU.boot with st := .bringup } }) 2 { Gpio.start 2 with func := 3, pend := none }) (rLink 0x28) 5)
def at_pps_in_later : State := (setReg (setGpio ({ ({ devU with boot := { devU.boot with st := .bringup } }) with nt := { devU.nt with status := 1 } }) 2 { Gpio.start 2 with func := 3, pend := none }) (rLink 0x28) 5)
def at_pps_in_ready : State := setGpio devU 2 { Gpio.start 2 with func := 3, pend := none }
def at_sync_interval : State := { devU with nt := { devU.nt with port := some 0 } }
def at_pps_out_high : State := setGpio devU 2 { Gpio.start 2 with func := 4, pend := none }
/-- FlashCodewordRead: FlashReadsAndFailuresMendBlockSets. -/
theorem test_codeword_read :
    (isReady at_codeword_read = true ∧ dieUsable at_codeword_read 0 = true) ∧
    (tget 0 at_codeword_read.faults.transient (errKey clsDie 0) < transientLimit clsDie) ∧
    (nexts (exec (.flashCodewordRead 0 5 1 9 1 9 25 true) at_codeword_read) fun u => decide (u.ps.rewrites = [(0, 5)]) = true) := by decide +kernel

/-- codeword read clean, codeword read bad. -/
theorem test_flashCodewordRead_clauses :
    ((isReady at_codeword_read = true ∧ dieUsable at_codeword_read 0 = true) ∧
    (tget 0 at_codeword_read.faults.transient (errKey clsDie 0) < transientLimit clsDie) ∧
    (nexts (exec (.flashCodewordRead 0 5 1 0 0 9 25 true) at_codeword_read) fun u => decide (u.ps.rewrites = []) = true)) ∧
    ((isReady at_codeword_read = true ∧ dieUsable at_codeword_read 0 = true) ∧
    (tget 0 at_codeword_read.faults.transient (errKey clsDie 0) < transientLimit clsDie) ∧
    (nexts (exec (.flashCodewordRead 0 5 1 0 4 9 25 false) at_codeword_read) fun u => decide (tget 0 u.faults.transient (errKey clsDie 0) = 1) = true)) := by decide +kernel

/-- PatrolRead: FlashReadsAndFailuresMendBlockSets. -/
theorem test_patrol_read :
    (isReady at_codeword_read = true ∧ dieUsable at_codeword_read 0 = true) ∧
    ((at_codeword_read.ps.closes.any fun c => c.die == 0 && c.set == 5 && c.patrolAt + patrolNs at_codeword_read ≤ max at_codeword_read.now (patrolNs at_codeword_read)) = true) ∧
    (tget 0 at_codeword_read.faults.transient (errKey clsDie 0) < transientLimit clsDie) ∧
    (nexts (exec (.patrolRead 0 5 (patrolNs at_codeword_read) 9 1 25 true) at_codeword_read) fun u => decide (u.ps.rewrites = [(0, 5)]) = true) := by decide +kernel

/-- patrol read clean, patrol read bad. -/
theorem test_patrolRead_clauses :
    ((isReady at_codeword_read = true ∧ dieUsable at_codeword_read 0 = true) ∧
    ((at_codeword_read.ps.closes.any fun c => c.die == 0 && c.set == 5 && c.patrolAt + patrolNs at_codeword_read ≤ max at_codeword_read.now (patrolNs at_codeword_read)) = true) ∧
    (tget 0 at_codeword_read.faults.transient (errKey clsDie 0) < transientLimit clsDie) ∧
    (nexts (exec (.patrolRead 0 5 (patrolNs at_codeword_read) 0 0 25 true) at_codeword_read) fun u => decide (u.ps.rewrites = []) = true)) ∧
    ((isReady at_codeword_read = true ∧ dieUsable at_codeword_read 0 = true) ∧
    ((at_codeword_read.ps.closes.any fun c => c.die == 0 && c.set == 5 && c.patrolAt + patrolNs at_codeword_read ≤ max at_codeword_read.now (patrolNs at_codeword_read)) = true) ∧
    (tget 0 at_codeword_read.faults.transient (errKey clsDie 0) < transientLimit clsDie) ∧
    (nexts (exec (.patrolRead 0 5 (patrolNs at_codeword_read) 0 4 25 false) at_codeword_read) fun u => decide (tget 0 u.faults.transient (errKey clsDie 0) = 1) = true)) := by decide +kernel

/-- BlockSetVerify: FlashReadsAndFailuresMendBlockSets. -/
theorem test_set_verify :
    (openAt at_set_verify 0 5 = some ⟨0, 5, 0, 2, 0⟩ ∧ at_set_verify.ps.pb = 2 ∧ dieUsable at_set_verify 0 = true ∧ at_set_verify.ps.stopped = false) ∧
    (freshSet at_set_verify 0 false ≠ none) ∧
    (nexts (exec (.blockSetVerify 0 5 9 25 [(0, 0, true), (1, 3, true)]) at_set_verify) fun u => decide (openAt u 0 5 = none ∧ u.ps.closes = [⟨0, 5, 9, 25, 0, 9⟩]) = true) := by decide +kernel

theorem test_set_verify_bad :
    (openAt at_set_verify 0 5 = some ⟨0, 5, 0, 2, 0⟩ ∧ at_set_verify.ps.pb = 2 ∧ dieUsable at_set_verify 0 = true ∧ at_set_verify.ps.stopped = false) ∧
    (freshSet at_set_verify 0 false ≠ none) ∧
    (nexts (exec (.blockSetVerify 0 5 9 25 [(0, 0, true), (1, 0, false)]) at_set_verify) fun u => decide (openAt u 0 5 = none ∧ u.ps.bad = [(0, 5)] ∧ lbMap u 0 = some (0, 0)) = true) := by decide +kernel

/-- ProgramOrEraseDone: FlashReadsAndFailuresMendBlockSets. -/
theorem test_erase_done :
    (0 ∉ at_erase_done.ps.deadDies ∧ (0, 6) ∈ at_erase_done.ps.toErase) ∧
    (nexts (exec (.programOrEraseDone 0 6 9 true true) at_erase_done) fun u => decide (u.ps.toErase = [] ∧ tget 0 u.ps.erases (eraseKey 0 6) = 1) = true) := by decide +kernel

/-- erase failed, program failed. -/
theorem test_programOrEraseDone_clauses :
    ((0 ∉ at_erase_done.ps.deadDies ∧ (0, 6) ∈ at_erase_done.ps.toErase) ∧
    (nexts (exec (.programOrEraseDone 0 6 9 true false) at_erase_done) fun u => decide (u.ps.toErase = [] ∧ u.ps.bad = [(0, 6)]) = true)) ∧
    ((0 ∉ at_erase_done.ps.deadDies ∧ (openAt at_erase_done 0 5).isSome = true) ∧
    (nexts (exec (.programOrEraseDone 0 5 9 false false) at_erase_done) fun u => decide (u.ps.bad = [(0, 5)] ∧ openAt u 0 5 = none ∧ lbMap u 0 = some (0, 0)) = true)) := by decide +kernel

/-- PassageBatchCommit: BatchesCommitWholeAndBlockSetsMove. -/
theorem test_batch_commit :
    (isReady at_batch_commit = true ∧ at_batch_commit.ps.stopped = false ∧ at_batch_commit.ps.batches = [batchOf false [⟨7, [1], [67]⟩, ⟨8, [], [68]⟩]]) ∧
    (regOpen at_batch_commit 0 2 (batchBytes (batchOf false [⟨7, [1], [67]⟩, ⟨8, [], [68]⟩])) = true) ∧
    ((match applyBatch (tick at_batch_commit 9) (batchOf false [⟨7, [1], [67]⟩, ⟨8, [], [68]⟩]) with | .ok _ => true | .error _ => false) = true ∧ ((batchOf false [⟨7, [1], [67]⟩, ⟨8, [], [68]⟩]).recs.map (·.item)).Nodup) ∧
    (nexts (exec (.passageBatchCommit 9 []) at_batch_commit) fun u => decide ((setOf u 9).map (fun x => (x.recs.map (·.1), x.dir.map (·.1))) = some ([7, 8], [7, 8])) = true) := by decide +kernel

/-- batch commit deletes, batch commit replaces, batch full. -/
theorem test_passageBatchCommit_clauses :
    ((isReady at_batch_commit_deletes = true ∧ at_batch_commit_deletes.ps.stopped = false ∧ at_batch_commit_deletes.ps.batches = [batchOf false [⟨7, [], []⟩]]) ∧
    (regOpen at_batch_commit_deletes 0 2 (batchBytes (batchOf false [⟨7, [], []⟩])) = true) ∧
    ((match applyBatch (tick at_batch_commit_deletes 9) (batchOf false [⟨7, [], []⟩]) with | .ok _ => true | .error _ => false) = true ∧ ((batchOf false [⟨7, [], []⟩]).recs.map (·.item)).Nodup) ∧
    (nexts (exec (.passageBatchCommit 9 []) at_batch_commit_deletes) fun u => decide ((setOf u 9).map (·.dir) = some []) = true)) ∧
    ((isReady at_batch_commit_replaces = true ∧ at_batch_commit_replaces.ps.stopped = false ∧ at_batch_commit_replaces.ps.batches = [batchOf true [⟨8, [], [68]⟩]]) ∧
    (regOpen at_batch_commit_replaces 0 2 (batchBytes (batchOf true [⟨8, [], [68]⟩])) = true) ∧
    ((match applyBatch (tick at_batch_commit_replaces 9) (batchOf true [⟨8, [], [68]⟩]) with | .ok _ => true | .error _ => false) = true ∧ ((batchOf true [⟨8, [], [68]⟩]).recs.map (·.item)).Nodup) ∧
    (nexts (exec (.passageBatchCommit 9 []) at_batch_commit_replaces) fun u => decide ((setOf u 9).map (fun x => x.dir.map (·.1)) = some [8]) = true)) ∧
    ((isReady at_batch_full = true ∧ at_batch_full.ps.stopped = false ∧ at_batch_full.ps.batches = [batchOf false [⟨8, [], [68]⟩]]) ∧
    (regOpen at_batch_full 0 2 (batchBytes (batchOf false [⟨8, [], [68]⟩])) = true) ∧
    ((match applyBatch (tick at_batch_full 9) (batchOf false [⟨8, [], [68]⟩]) with | .error .full => true | _ => false) = true) ∧
    (nexts (exec (.passageBatchCommit 9 []) at_batch_full) fun u => decide (u.ps.batches = [] ∧ (part u 0).cqTail = 1) = true)) := by decide +kernel

/-- LogMerge: BatchesCommitWholeAndBlockSetsMove. -/
theorem test_log_merge :
    (isReady at_log_merge = true ∧ at_log_merge.ps.stopped = false ∧ dieUsable at_log_merge 0 = true ∧ mergeDue at_log_merge 0 = true) ∧
    (leastBy (fun a b => decide (logCount at_log_merge b < logCount at_log_merge a)) (loggedLbs at_log_merge 0) = some 0 ∧ openable at_log_merge 0 false = some (0, 1)) ∧
    (nexts (exec (.logMerge 0 9) at_log_merge) fun u => decide (lbMap u 0 = some (0, 0) ∧ u.ps.logs = []) = true) := by decide +kernel

/-- BlockSetRewrite: BatchesCommitWholeAndBlockSetsMove. -/
theorem test_set_rewrite :
    (isReady at_set_rewrite = true ∧ at_set_rewrite.ps.stopped = false ∧ dieUsable at_set_rewrite 0 = true ∧ (0, 5) ∈ at_set_rewrite.ps.rewrites ∧ openable at_set_rewrite 0 false = some (0, 1)) ∧
    (nexts (exec (.blockSetRewrite 0 5 9) at_set_rewrite) fun u => decide (lbMap u 0 = some (0, 0) ∧ u.ps.rewrites = [] ∧ u.ps.toErase = [(0, 5)]) = true) := by decide +kernel

/-- FrameReceiveData: FramesAreAcceptedInOrder. -/
theorem test_frame_refused_faulted :
    ((port at_remote_signal_not_ready 1).en = true ∧ linkEtype at_remote_signal_not_ready = eth0.etype ∧ eth0.etype ≠ 0x8808 ∧ (frame0 0 true none).kind = 1 ∧ (frame0 0 true none).dst = devno at_remote_signal_not_ready) ∧
    (isReady at_remote_signal_not_ready = false) ∧
    (nexts (exec (.frameReceiveData 1 (frame0 0 true none) true 2 9) at_remote_signal_not_ready) fun u => decide (u.links.sent.map (fun x => (x.2.kind, x.2.seq, x.2.status)) = [(3, 0, .internalFault)] ∧ u.links.inbox = []) = true) := by decide +kernel

/-- A PAUSE frame is counted and discarded. -/
theorem test_frame_pause :
    ((port at_frame_part 1).en = true ∧ { eth0 with etype := 0x8808 }.etype = 0x8808) ∧
    (nexts (exec (.frameReceiveData 1 { frame0 5 true none with eth := { eth0 with etype := 0x8808 } } true 2 9) at_frame_part) fun u => decide (rxOf u 3 0 = rxOf at_frame_part 3 0 ∧ u.links.sent = [] ∧ u.links.inbox = []) = true) := by decide +kernel

/-- frame refused bringup, frame part, frame message. -/
theorem test_frameReceiveData_clauses :
    (((port at_frame_refused_bringup 1).en = true ∧ (frame0 0 true none).kind = 1 ∧ (frame0 0 true none).dst = devno at_frame_refused_bringup) ∧
    (isReady at_frame_refused_bringup = false) ∧
    (nexts (exec (.frameReceiveData 1 (frame0 0 true none) true 2 9) at_frame_refused_bringup) fun u => decide (u.links.sent.map (fun x => (x.2.kind, x.2.seq, x.2.status)) = [(3, 0, .notReady)] ∧ u.links.inbox = []) = true)) ∧
    (((port at_frame_part 1).en = true ∧ (frame0 5 false none).kind = 1 ∧ (frame0 5 false none).dst = devno at_frame_part) ∧
    (isReady at_frame_part = true ∧ (txOf at_frame_part (frame0 5 false none).src (frame0 5 false none).queue).unacked = [] ∧ NoWaitMet at_frame_part) ∧
    ((frame0 5 false none).seq = (rxOf at_frame_part 3 0).next) ∧
    ((port at_frame_part 1).st ≠ .fenced ∧ (port at_frame_part 1).heldOut = false) ∧
    ((frame0 5 false none).last = false ∧ refusal at_frame_part 1 (frame0 5 false none) = none) ∧
    (nexts (exec (.frameReceiveData 1 (frame0 5 false none) true 2 9) at_frame_part) fun u => decide (rxOf u 3 0 = ⟨3, 0, 6, some 9⟩ ∧ u.links.inbox = []) = true)) ∧
    (((port at_frame_part 1).en = true ∧ (frame0 5 true (some (.token h0 1 2))).kind = 1 ∧ (frame0 5 true (some (.token h0 1 2))).dst = devno at_frame_part) ∧
    (isReady at_frame_part = true ∧ (txOf at_frame_part (frame0 5 true (some (.token h0 1 2))).src (frame0 5 true (some (.token h0 1 2))).queue).unacked = [] ∧ NoWaitMet at_frame_part) ∧
    ((frame0 5 true (some (.token h0 1 2))).seq = (rxOf at_frame_part 3 0).next) ∧
    ((port at_frame_part 1).st ≠ .fenced ∧ (port at_frame_part 1).heldOut = false) ∧
    (hasCommand (.token h0 1 2) = true) ∧
    (nexts (exec (.frameReceiveData 1 (frame0 5 true (some (.token h0 1 2))) true 2 9) at_frame_part) fun u => decide (rxOf u 3 0 = ⟨3, 0, 6, some 9⟩ ∧ u.links.inbox = [(3, .token h0 1 2)]) = true)) := by decide +kernel

/-- frame fenced, frame repeated, frame ahead, frame bad fcs. -/
theorem test_frameReceiveData_clauses1 :
    (((port at_frame_fenced 1).en = true ∧ (frame0 5 true none).kind = 1 ∧ (frame0 5 true none).dst = devno at_frame_fenced) ∧
    (isReady at_frame_fenced = true ∧ (txOf at_frame_fenced (frame0 5 true none).src (frame0 5 true none).queue).unacked = [] ∧ NoWaitMet at_frame_fenced) ∧
    ((frame0 5 true none).seq = (rxOf at_frame_fenced 3 0).next ∧ (port at_frame_fenced 1).heldOut = true) ∧
    (nexts (exec (.frameReceiveData 1 (frame0 5 true none) true 2 9) at_frame_fenced) fun u => decide (u.links.sent.map (fun x => x.2.status) = [.domainOff] ∧ rxOf u 3 0 = ⟨3, 0, 5, none⟩) = true)) ∧
    (((port at_frame_part 1).en = true ∧ (frame0 4 true (some (.token h0 1 2))).kind = 1 ∧ (frame0 4 true (some (.token h0 1 2))).dst = devno at_frame_part) ∧
    (isReady at_frame_part = true ∧ (txOf at_frame_part (frame0 4 true (some (.token h0 1 2))).src (frame0 4 true (some (.token h0 1 2))).queue).unacked = [] ∧ NoWaitMet at_frame_part) ∧
    ((frame0 4 true (some (.token h0 1 2))).seq ≠ (rxOf at_frame_part 3 0).next ∧ seqBefore (frame0 4 true (some (.token h0 1 2))).seq (rxOf at_frame_part 3 0).next = true) ∧
    (nexts (exec (.frameReceiveData 1 (frame0 4 true (some (.token h0 1 2))) true 2 9) at_frame_part) fun u => decide (rxOf u 3 0 = ⟨3, 0, 5, some 9⟩ ∧ u.links.inbox = []) = true)) ∧
    (((port at_frame_part 1).en = true ∧ (frame0 6 true (some (.token h0 1 2))).kind = 1 ∧ (frame0 6 true (some (.token h0 1 2))).dst = devno at_frame_part) ∧
    (isReady at_frame_part = true ∧ (txOf at_frame_part (frame0 6 true (some (.token h0 1 2))).src (frame0 6 true (some (.token h0 1 2))).queue).unacked = [] ∧ NoWaitMet at_frame_part) ∧
    ((frame0 6 true (some (.token h0 1 2))).seq ≠ (rxOf at_frame_part 3 0).next ∧ seqBefore (frame0 6 true (some (.token h0 1 2))).seq (rxOf at_frame_part 3 0).next = false) ∧
    (nexts (exec (.frameReceiveData 1 (frame0 6 true (some (.token h0 1 2))) true 2 9) at_frame_part) fun u => decide (rxOf u 3 0 = ⟨3, 0, 5, none⟩) = true)) ∧
    (((port devU 1).en = true ∧ tget 0 devU.faults.corrected (errKey clsLink (1 * 4 + 2)) < 1000) ∧
    (nexts (exec (.frameReceiveData 1 (frame0 0 true none) false 2 9) devU) fun u => decide (tget 0 u.faults.corrected (errKey clsLink 6) = 1) = true)) := by decide +kernel

/-- FrameReceiveAck: FramesAreAcceptedInOrder. -/
theorem test_ack_one :
    ((port at_ack_one 1).en = true ∧ (ctl0 2 0 6 .ok).kind = 2 ∧ (ctl0 2 0 6 .ok).dst = devno at_ack_one ∧ at_ack_one.feat.acks = [] ∧ NoWaitMet at_ack_one) ∧
    (((txOf at_ack_one 3 0).unacked.takeWhile fun x => seqBefore x.seq 6).all (fun g => !endsCopy g) = true) ∧
    (nexts (exec (.frameReceiveAck 1 (ctl0 2 0 6 .ok) 9) at_ack_one) fun u => decide (txOf u 3 0 = ⟨3, 0, 7, [sent0 6], 9, 0, true, false⟩) = true) := by decide +kernel

/-- ack all, ack none. -/
theorem test_frameReceiveAck_clauses :
    (((port at_ack_one 1).en = true ∧ (ctl0 2 0 7 .ok).kind = 2 ∧ (ctl0 2 0 7 .ok).dst = devno at_ack_one ∧ at_ack_one.feat.acks = [] ∧ NoWaitMet at_ack_one) ∧
    (((txOf at_ack_one 3 0).unacked.takeWhile fun x => seqBefore x.seq 7).all (fun g => !endsCopy g) = true) ∧
    (nexts (exec (.frameReceiveAck 1 (ctl0 2 0 7 .ok) 9) at_ack_one) fun u => decide (txOf u 3 0 = ⟨3, 0, 7, [], 9, 0, false, false⟩) = true)) ∧
    (((port at_ack_one 1).en = true ∧ (ctl0 2 0 5 .ok).kind = 2 ∧ (ctl0 2 0 5 .ok).dst = devno at_ack_one ∧ at_ack_one.feat.acks = [] ∧ NoWaitMet at_ack_one) ∧
    (((txOf at_ack_one 3 0).unacked.takeWhile fun x => seqBefore x.seq 5).all (fun g => !endsCopy g) = true) ∧
    (nexts (exec (.frameReceiveAck 1 (ctl0 2 0 5 .ok) 9) at_ack_one) fun u => decide (txOf u 3 0 = ⟨3, 0, 7, [sent0 5, sent0 6], 1, 2, true, false⟩) = true)) := by decide +kernel

/-- FrameReceiveNak: FramesAreAcceptedInOrder. -/
theorem test_nak_internal_fault :
    ((port at_ack_one 1).en = true ∧ (ctl0 3 5 0 .internalFault).kind = 3 ∧ (ctl0 3 5 0 .internalFault).dst = devno at_ack_one ∧ (txOf at_ack_one 3 0).unacked = sent0 5 :: [sent0 6] ∧ (sent0 5).seq = (ctl0 3 5 0 .internalFault).seq ∧ (sent0 5).last = true) ∧
    ((ctl0 3 5 0 .internalFault).status = .internalFault) ∧
    (nexts (exec (.frameReceiveNak 1 (ctl0 3 5 0 .internalFault) 9) at_ack_one) fun u => decide ((txOf u 3 0).unacked = [] ∧ (txOf u 3 0).lost = true) = true) := by decide +kernel

theorem test_nak_not_ready :
    ((port at_ack_one 1).en = true ∧ (ctl0 3 5 0 .notReady).kind = 3 ∧ (ctl0 3 5 0 .notReady).dst = devno at_ack_one ∧ (txOf at_ack_one 3 0).unacked = sent0 5 :: [sent0 6] ∧ (sent0 5).seq = (ctl0 3 5 0 .notReady).seq ∧ (sent0 5).last = true) ∧
    ((ctl0 3 5 0 .notReady).status = .notReady) ∧
    (nexts (exec (.frameReceiveNak 1 (ctl0 3 5 0 .notReady) 9) at_ack_one) fun u => decide ((txOf u 3 0).unacked = [{ sent0 6 with seq := 5 }] ∧ (txOf u 3 0).retries = 0) = true) := by decide +kernel

/-- FrameTransmit: FramesAreSentReplayedAndAcknowledged. -/
theorem test_transmit_ptp :
    ((port at_transmit_ptp 1).en = true ∧ upDegraded (port at_transmit_ptp 1).st = true ∧ 64 ≤ maxPayload at_transmit_ptp) ∧
    ((port at_transmit_ptp 1).ptp ≠ 0) ∧
    (nexts (exec (.frameTransmit 1 9 64 true) at_transmit_ptp) fun u => decide ((port u 1).ptp = 0 ∧ u.links.sent = []) = true) := by decide +kernel

/-- transmit, transmit part, transmit weighted. -/
theorem test_frameTransmit_clauses :
    (((port at_transmit 1).en = true ∧ upDegraded (port at_transmit 1).st = true ∧ 64 ≤ maxPayload at_transmit) ∧
    ((port at_transmit 1).ptp = 0 ∧ pickQueue (tick at_transmit 9) 1 64 = some 0 ∧ headMsg at_transmit 1 0 = some (3, 0, .abort h0) ∧ maySend at_transmit (.abort h0) = true) ∧
    (nexts (exec (.frameTransmit 1 9 64 true) at_transmit) fun u => decide ((tget [] (port u 1).queues 0) = [] ∧ (txOf u 3 0).seq = 1) = true)) ∧
    (((port at_transmit 1).en = true ∧ upDegraded (port at_transmit 1).st = true ∧ 64 ≤ maxPayload at_transmit) ∧
    ((port at_transmit 1).ptp = 0 ∧ pickQueue (tick at_transmit 9) 1 64 = some 0 ∧ headMsg at_transmit 1 0 = some (3, 0, .abort h0) ∧ maySend at_transmit (.abort h0) = true) ∧
    (nexts (exec (.frameTransmit 1 9 64 false) at_transmit) fun u => decide ((tget [] (port u 1).queues 0).length = 1 ∧ tget 0 (port u 1).midMsg 3 = 1) = true)) ∧
    (((port at_transmit_weighted 1).en = true ∧ upDegraded (port at_transmit_weighted 1).st = true ∧ 64 ≤ maxPayload at_transmit_weighted) ∧
    ((port at_transmit_weighted 1).ptp = 0 ∧ pickQueue (tick at_transmit_weighted 9) 1 64 = some 4 ∧ headMsg at_transmit_weighted 1 4 = some (3, 0, .token h0 1 2)) ∧
    (nexts (exec (.frameTransmit 1 9 64 true) at_transmit_weighted) fun u => decide ((txOf u 3 4).seq = 1) = true)) := by decide +kernel

/-- An ACK frame at the head of the queue goes out and joins no window. -/
theorem test_transmit_ack :
    ((port at_transmit_ack 1).en = true ∧ upDegraded (port at_transmit_ack 1).st = true ∧ 64 ≤ maxPayload at_transmit_ack) ∧
    ((port at_transmit_ack 1).ptp = 0 ∧ pickQueue (tick at_transmit_ack 9) 1 64 = some 0 ∧ headMsg at_transmit_ack 1 0 = some (3, 0, .ackFrame 4)) ∧
    (nexts (exec (.frameTransmit 1 9 64 true) at_transmit_ack) fun u => decide (u.links.sent.map (fun x => (x.1, x.2.kind, x.2.queue, x.2.ackSeq)) = [(1, 2, 4, 6)] ∧ u.links.tx = []) = true) := by decide +kernel

/-- AckSend: FramesAreSentReplayedAndAcknowledged. -/
theorem test_ack_send :
    ((rxOf at_ack_send 3 0).owed = some 4 ∧ routePort at_ack_send 3 0 = some 1) ∧
    (nexts (exec (.ackSend 3 0 9) at_ack_send) fun u => decide (rxOf u 3 0 = ⟨3, 0, 5, none⟩ ∧ tget [] (port u 1).queues 0 = [(3, 0, .ackFrame 0)] ∧ u.links.sent = []) = true) := by decide +kernel

/-- AckTimeout: FramesAreSentReplayedAndAcknowledged. -/
theorem test_ack_timeout_replay :
    ((txOf at_ack_timeout_replay 3 0).unacked ≠ [] ∧ (txOf at_ack_timeout_replay 3 0).sentAt + ackTimeoutUs at_ack_timeout_replay * 1000 ≤ max at_ack_timeout_replay.now 99000 ∧ linkRetryMax at_ack_timeout_replay = 3) ∧
    (routePort at_ack_timeout_replay 3 0 = some 1) ∧
    (nexts (exec (.ackTimeout 3 0 99000) at_ack_timeout_replay) fun u => decide ((txOf u 3 0).retries = 1 ∧ (txOf u 3 0).sentAt = 99000 ∧ u.links.sent = [(1, sent0 5)]) = true) := by decide +kernel

/-- ack timeout alternate, ack timeout lost. -/
theorem test_ackTimeout_clauses :
    (((txOf at_ack_timeout_alternate 3 0).unacked ≠ [] ∧ (txOf at_ack_timeout_alternate 3 0).sentAt + ackTimeoutUs at_ack_timeout_alternate * 1000 ≤ max at_ack_timeout_alternate.now 99000 ∧ linkRetryMax at_ack_timeout_alternate = 3) ∧
    (nexts (exec (.ackTimeout 3 0 99000) at_ack_timeout_alternate) fun u => decide ((txOf u 3 0).alt = true ∧ (txOf u 3 0).retries = 3 ∧ (txOf u 3 0).unacked = [sent0 5]) = true)) ∧
    (((txOf at_ack_timeout_lost 3 0).unacked ≠ [] ∧ (txOf at_ack_timeout_lost 3 0).sentAt + ackTimeoutUs at_ack_timeout_lost * 1000 ≤ max at_ack_timeout_lost.now 99000 ∧ linkRetryMax at_ack_timeout_lost = 3) ∧
    (nexts (exec (.ackTimeout 3 0 99000) at_ack_timeout_lost) fun u => decide ((txOf u 3 0).lost = true ∧ (txOf u 3 0).unacked = []) = true)) := by decide +kernel

/-- ListSwitchNow: GatesSwitchAndFlowsFallDue. -/
theorem test_list_switch_now :
    (1 < nPorts at_list_switch_now ∧ barOpen at_list_switch_now 0x400000 = true ∧ gclOk at_list_switch_now 1 (pendList (port at_list_switch_now 1)) = true) ∧
    (nexts (exec (.listSwitchNow 1 9) at_list_switch_now) fun u => decide ((port u 1).refused = false ∧ ((port u 1).switch.map (·.list)) = some [0x2FF, 0x4FF]) = true) := by decide +kernel

theorem test_list_refused_now :
    (1 < nPorts at_list_refused_now ∧ barOpen at_list_refused_now 0x400000 = true ∧ gclOk at_list_refused_now 1 (pendList (port at_list_refused_now 1)) = false) ∧
    (nexts (exec (.listSwitchNow 1 9) at_list_refused_now) fun u => decide ((port u 1).refused = true) = true) := by decide +kernel

/-- ListSwitchAtTime: GatesSwitchAndFlowsFallDue. -/
theorem test_list_switch_at_time :
    (1 < nPorts at_list_switch_now ∧ barOpen at_list_switch_now 0x400000 = true ∧ gclOk at_list_switch_now 1 (pendList (port at_list_switch_now 1)) = true) ∧
    (nexts (exec (.listSwitchAtTime 1 9) at_list_switch_now) fun u => decide ((port u 1).refused = false ∧ ((port u 1).switch.map (·.list)) = some [0x2FF, 0x4FF]) = true) := by decide +kernel

theorem test_list_refused_at_time :
    (1 < nPorts at_list_refused_now ∧ barOpen at_list_refused_now 0x400000 = true ∧ gclOk at_list_refused_now 1 (pendList (port at_list_refused_now 1)) = false) ∧
    (nexts (exec (.listSwitchAtTime 1 9) at_list_refused_now) fun u => decide ((port u 1).refused = true) = true) := by decide +kernel

/-- GateEntryBoundary: GatesSwitchAndFlowsFallDue. -/
theorem test_gate_boundary_switches :
    (1 < nPorts at_gate_boundary_switches) ∧
    (((port at_gate_boundary_switches 1).switch.map fun x => decide (x.at_ ≤ max at_gate_boundary_switches.now 9)) = some true) ∧
    (nexts (exec (.gateEntryBoundary 1 9) at_gate_boundary_switches) fun u => decide ((port u 1).active = [0x2FF, 0x4FF] ∧ (port u 1).switch = none ∧ (port u 1).base = some 9 ∧ (port u 1).pendLen = 1) = true) := by decide +kernel

theorem test_gate_boundary_waits :
    (1 < nPorts at_gate_boundary_waits) ∧
    (((port at_gate_boundary_waits 1).switch.map fun x => decide (x.at_ ≤ max at_gate_boundary_waits.now 9)) = some false) ∧
    (nexts (exec (.gateEntryBoundary 1 9) at_gate_boundary_waits) fun u => decide ((port u 1).active = [0x2FF] ∧ (port u 1).switch = some ⟨10, [0x2FF, 0x4FF]⟩) = true) := by decide +kernel

/-- CalendarSlot: GatesSwitchAndFlowsFallDue. -/
theorem test_calendar_slot :
    (3 ∈ tget [] (port at_calendar_slot 1).wheel (max at_calendar_slot.now 9 / 64 % 4096) ∧ flowRate at_calendar_slot 1 (3 / 12) (3 % 12) = 10 ∧ max at_calendar_slot.now 9 / 64 < cdiv (tget 0 (port at_calendar_slot 1).flows 3) (64 * 10)) ∧
    (nexts (exec (.calendarSlot 1 9) at_calendar_slot) fun u => decide ((port u 1).wheel = [(5, [7]), (1563, [3])]) = true) := by decide +kernel

/-- TrainingAttempt: PortsTrainAndLoseLanes. -/
theorem test_training_full :
    ((port at_training_full 1).en = true ∧ 1 < nPorts at_training_full ∧ domIs at_training_full (portDom 1) .on = true ∧ 1 ∉ at_training_full.boot.heldPorts ∧ 2 ∉ at_training_full.power.refLost ∧ NoWaitMet at_training_full) ∧
    ((⟨4, [0, 1, 2, 3], 3, 0, 6⟩ : Training).width ≠ 0 ∧ trainOk (port at_training_full 1) (⟨4, [0, 1, 2, 3], 3, 0, 6⟩ : Training) = true ∧ at_training_full.boot.etr = none) ∧
    (∀ e ∈ at_training_full.links.ports, startedAnew e.2 (⟨4, [0, 1, 2, 3], 3, 0, 6⟩ : Training) = false) ∧
    (nexts (exec (.trainingAttempt 1 9 (⟨4, [0, 1, 2, 3], 3, 0, 6⟩ : Training)) at_training_full) fun u => decide ((port u 1).partner = some (3, 0, 6) ∧ (port u 1).st = .up ∧ (port u 1).width = 4) = true) := by decide +kernel

/-- training half, training fails. -/
theorem test_trainingAttempt_clauses :
    (((port at_training_full 1).en = true ∧ 1 < nPorts at_training_full ∧ domIs at_training_full (portDom 1) .on = true ∧ 1 ∉ at_training_full.boot.heldPorts ∧ 2 ∉ at_training_full.power.refLost ∧ NoWaitMet at_training_full) ∧
    ((⟨2, [2, 3], 3, 0, 6⟩ : Training).width ≠ 0 ∧ trainOk (port at_training_full 1) (⟨2, [2, 3], 3, 0, 6⟩ : Training) = true ∧ at_training_full.boot.etr = none) ∧
    (∀ e ∈ at_training_full.links.ports, startedAnew e.2 (⟨2, [2, 3], 3, 0, 6⟩ : Training) = false) ∧
    (nexts (exec (.trainingAttempt 1 9 (⟨2, [2, 3], 3, 0, 6⟩ : Training)) at_training_full) fun u => decide ((port u 1).partner = some (3, 0, 6) ∧ (port u 1).st = .degraded ∧ (port u 1).width = 2) = true)) ∧
    (((port devU 1).en = true ∧ 1 < nPorts devU ∧ domIs devU (portDom 1) .on = true ∧ 1 ∉ devU.boot.heldPorts ∧ 2 ∉ devU.power.refLost ∧ NoWaitMet devU) ∧
    ((⟨0, [], 0, 0, 0⟩ : Training).width = 0) ∧
    (nexts (exec (.trainingAttempt 1 9 (⟨0, [], 0, 0, 0⟩ : Training)) devU) fun u => decide ((port u 1).st = .down ∧ (port u 1).width = 0) = true)) := by decide +kernel

/-- PortEnable: PortsTrainAndLoseLanes. -/
theorem test_port_enable :
    (barOpen devU 0x400000 = true ∧ 5 < nPorts devU) ∧
    (nexts (exec (.portEnable 5 1 9) devU) fun u => decide ((port u 5).en = true ∧ bit (reg u (rPort 5 0)) 0 = true) = true) := by decide +kernel

theorem test_port_disable :
    (barOpen devU 0x400000 = true ∧ 1 < nPorts devU ∧ NoWaitMet devU) ∧
    (nexts (exec (.portEnable 1 0 9) devU) fun u => decide ((port u 1).en = false ∧ (port u 1).st = .down) = true) := by decide +kernel

/-- LaneLockLoss: PortsTrainAndLoseLanes. -/
theorem test_lane_loss_first :
    (upDegraded (port at_lane_loss_first 1).st = true ∧ 2 ∈ (port at_lane_loss_first 1).lanes ∧ NoWaitMet at_lane_loss_first ∧ tget 0 at_lane_loss_first.faults.transient (errKey clsLink 6) = 0) ∧
    (nexts (exec (.laneLockLoss 1 2 9) at_lane_loss_first) fun u => decide ((port u 1).st = .down ∧ tget 0 u.faults.transient (errKey clsLink 6) = 1 ∧ (port u 1).badLanes = []) = true) := by decide +kernel

theorem test_lane_loss_third :
    (upDegraded (port at_lane_loss_third 1).st = true ∧ 2 ∈ (port at_lane_loss_third 1).lanes ∧ NoWaitMet at_lane_loss_third ∧ tget 0 at_lane_loss_third.faults.transient (errKey clsLink 6) = 2) ∧
    (nexts (exec (.laneLockLoss 1 2 9) at_lane_loss_third) fun u => decide ((port u 1).st = .down ∧ (port u 1).badLanes = [2]) = true) := by decide +kernel

/-- PtpMessage: NetworkTimeLocksHoldsAndRuns. -/
theorem test_ptp_steps :
    ((port at_frame_refused_bringup 1).en = true ∧ upDegraded (port at_frame_refused_bringup 1).st = true) ∧
    (nexts (exec (.ptpMessage 1 9 false (-100)) at_frame_refused_bringup) fun u => decide (u.now = 109) = true) := by decide +kernel

/-- ptp sync, ptp sync small. -/
theorem test_ptpMessage_clauses :
    ((port devU 1).en = true ∧ upDegraded (port devU 1).st = true) ∧
    ((port devU 1).en = true ∧ upDegraded (port devU 1).st = true) := by decide +kernel

/-- HoldoverEntry: NetworkTimeLocksHoldsAndRuns. -/
theorem test_holdover :
    (at_holdover.nt.status = 1 ∧ at_holdover.nt.lastSync + 3 * syncNs at_holdover ≤ max at_holdover.now 3000000000) ∧
    (nexts (exec (.holdoverEntry 3000000000) at_holdover) fun u => decide (u.nt.status = 2 ∧ u.nt.holdAt = 3000000000) = true) := by decide +kernel

/-- FreeRunEntry: NetworkTimeLocksHoldsAndRuns. -/
theorem test_free_run :
    (at_free_run.nt.status = 2 ∧ at_free_run.nt.holdAt + ntHoldoverNs at_free_run ≤ max at_free_run.now 10000000) ∧
    (nexts (exec (.freeRunEntry 10000000) at_free_run) fun u => decide (u.nt.status = 3 ∧ u.nt.freq = 0) = true) := by decide +kernel

/-- PpsInEdge: NetworkTimeLocksHoldsAndRuns. -/
theorem test_pps_in_missed :
    (ppsPin at_pps_in_missed = some 2 ∧ (gpio at_pps_in_missed 2).pend.isSome = true) ∧
    (nexts (exec (.ppsInEdge 2 9) at_pps_in_missed) fun u => decide (u.pins.ppsMissed = 1) = true) := by decide +kernel

/-- pps in first, pps in later, pps in ready. -/
theorem test_ppsInEdge_clauses :
    ((ppsPin at_pps_in_first = some 2 ∧ (gpio at_pps_in_first 2).pend = none ∧ isReady at_pps_in_first = false) ∧
    (nexts (exec (.ppsInEdge 2 1500000000) at_pps_in_first) fun u => decide (u.now = 5000000000 ∧ u.nt.status = 1 ∧ u.nt.ppsAt = 5000000000) = true)) ∧
    ((ppsPin at_pps_in_later = some 2 ∧ (gpio at_pps_in_later 2).pend = none ∧ isReady at_pps_in_later = false) ∧
    (nexts (exec (.ppsInEdge 2 1500000000) at_pps_in_later) fun u => decide (u.now = 2000000000) = true)) ∧
    (ppsPin at_pps_in_ready = some 2 ∧ (gpio at_pps_in_ready 2).pend = none ∧ isReady at_pps_in_ready = true) := by decide +kernel

/-- SyncInterval: NetworkTimeLocksHoldsAndRuns. -/
theorem test_sync_interval :
    (nexts (exec (.syncInterval 9) at_sync_interval) fun u => decide ((port u 0).ptp = 0 ∧ (port u 1).ptp = 2) = true) := by decide +kernel

/-- PpsOut: NetworkTimeLocksHoldsAndRuns. -/
theorem test_pps_out_high :
    ((gpio at_pps_out_high 2).func = 4 ∧ (gpio at_pps_out_high 2).pend = none) ∧
    (nexts (exec (.ppsOut 1099999999) at_pps_out_high) fun u => decide (u.pins.pps = true) = true) := by decide +kernel

theorem test_pps_out_low :
    ((gpio at_pps_out_high 2).func = 4 ∧ (gpio at_pps_out_high 2).pend = none) ∧
    (nexts (exec (.ppsOut 1100000000) at_pps_out_high) fun u => decide (u.pins.pps = false) = true) := by decide +kernel

/-- A sideband input settled; a device in reset, with its ports; a device in bring-up at a stage. -/
def withSide (s : State) (pin : Nat) (x : Sideband) : State := { s with pins := { s.pins with side := [(pin, x)] } }
def withBoot (s : State) (f : Boot → Boot) : State := { s with boot := f s.boot }
def withPower (s : State) (f : Power → Power) : State := { s with power := f s.power }
def inBringup (stage : Nat) : State :=
  withBoot devU fun b => { b with st := .bringup, stage := stage, setupDone := false, mapped := false, stage4At := none }
def withDom (s : State) (d : Nat) (x : Dom) : State :=
  withPower s fun p => { p with doms := tset Dom.reset p.doms d x }

/-- A device in reset with image A of security version 2 and B of 3. -/
def inReset (f : PkgFlash → PkgFlash) : State :=
  { State.reset with flash := f { State.reset.flash with imgA := ⟨0, 2, true⟩, imgB := ⟨0, 3, true⟩ } }

/-- A topology record of device 1: port 1 leads to port 0 of device 3. -/
def etrBytes : List Byte := (le 256 0x2eca11b900000000000000000000000000000000000000000000000000000000000000000000ffff000000000000ffff000000000000ffff000000000000ffff000000000000ffff000000000000ffff000000000000ffff000000000000ffff000000000000ffff000000000000ffff000000000000ffff000000000000ffff000000000000ffff000000000000ffff000000000000ffff000000000000ffff000000000000ffff000000000000ffff000000000000ffff000000000000ffff000000000000ffff000000000000ffff0000000104000003000000000000ffff0000000000000000000000000000000000000000000000020001000100010001)

/-- Device 1 with twin 3 over ports 0 and 1, a mirror quota of 4, and the generating request's image. -/
def devW : State := setReg (setReg (setReg devU rTWIN_CTRL 0x00010001) rTWIN_DEVNO 3) rMIRROR_QUOTA 4
def withTwin (s : State) (f : Twin → Twin) : State := { s with twin := f s.twin }
def h8 : Handle := ⟨3, 0, 8, 2⟩
def img8 : EntryImage := ⟨h8, 2, 2, false, 3, 1, 7, 0, 1000, 0xFFFFFFFF, 0, 5, 0x30000, 64, descGen⟩
def mirror8 (st : Nat) (toks : List Nat) (c : Option Commit) (wait : Bool) : Mirror := ⟨0, img8, [97], toks, st, c, wait, 0, 0⟩
/-- A MIRROR entry in slot 0. -/
def withMirror (s : State) (m : Mirror) : State :=
  modPart { s with lb := { s.lb with
    entries := tset Entry.freeEntry s.lb.entries 0 { Entry.freeEntry with st := .mirror, tag := 7, sq := 1 }, fresh := 1, mirrors := [m] } }
    0 fun P => { P with mirrorSlots := 1 }

/-- The twin's DSB in STATE 3; in STATE 2 with HB_TIME 4. -/
def dsb3 : List Byte := le 4 0 ++ le 4 3 ++ List.replicate 32 0
def dsbOld : List Byte := le 4 0 ++ le 4 2 ++ le 8 9 ++ le 8 4 ++ List.replicate 16 0

/-- A part in the RETURNED state. -/
def devL : State := { devU with flash := { devU.flash with lc := 4 } }

def at_device_reset_pin2 : State := withSide devU 2 ⟨true, false, 2⟩
def at_device_reset_pin3 : State := withSide devU 3 ⟨true, false, 2⟩
def at_start_newer : State := inReset fun x => { x with saved := true }
def at_start_returned : State := inReset fun x => { x with lcPending := some 4, saved := true }
def at_start_scrapped : State := inReset fun x => { x with lc := 4, lcPending := some 5 }
def at_start_no_image : State := inReset fun x => { x with imgA := ⟨0, 2, false⟩, imgB := ⟨0, 0, false⟩ }
def at_start_after_trip : State := (withBoot (inReset id) fun b => { b with tripped := true, rails := List.range 9 })
def at_configuration_ready : State := inBringup 1
def at_configuration_retry : State := inReset id
def at_configuration_request : State := { S0 with host := { S0.host with busMaster := false } }
def at_logic_bist_host : State := withBoot devU fun b => { b with bistBusy := true, bistRun := [25, 26] }
def at_bist_start : State := ({ setReg devU (rBring 0x108) 0x06000000 with flash := { devU.flash with lc := 4 } })
/-- Stage 1 with its logic BIST run. -/
def at_memory_test1 : State := { at_configuration_ready with boot := { at_configuration_ready.boot with bistDone := true } }
def at_memory_test : State := ({ inBringup 2 with mem := [(5, 5)] })
def at_defect_map : State := (withBoot (inBringup 3) fun b => { b with fails := [(clsHbm, 3), (clsLink, 7), (clsLine, 131)] })
def at_defect_map_past_the_spare : State := (withBoot (inBringup 3) fun b => { b with fails := [(clsLine, 66), (clsLine, 131)] })
def at_setup_done_waits : State := (setReg (setReg (inBringup 3) (rMem 0x44) 0) (rMem 0x40) 0)
def at_setup_done_checks : State := (withBoot (setReg (setReg (inBringup 3) (rMem 0x44) 0) (rMem 0x40) 0) fun b => { b with mapped := true })
def at_setup_refused : State := (setReg (setReg (setReg (inBringup 3) (rMem 0x44) 0) (rMem 0x40) 0) rTWIN_CTRL 1)
def at_etr_read_ready : State := ({ setReg (modPort (withBoot (withDom (setReg (setReg (inBringup 3) (rMem 0x44) 0) (rMem 0x40) 0) 0 ⟨true, .on, false⟩) fun b => { b with mapped := true, stage := 4, stage4At := some 5, setupDone := true, etrWait := true }) 1 fun P => { P with partner := some (3, 0, 6) }) (rPort 1 0) 1 with tiers := { devU.tiers with boardCaps := List.replicate 32 16 } })
def at_etr_read_power_fail : State := (withSide ({ setReg (modPort (withBoot (withDom (setReg (setReg (inBringup 3) (rMem 0x44) 0) (rMem 0x40) 0) 0 ⟨true, .on, false⟩) fun b => { b with mapped := true, stage := 4, stage4At := some 5, setupDone := true, etrWait := true }) 1 fun P => { P with partner := some (3, 0, 6) }) (rPort 1 0) 1 with tiers := { devU.tiers with boardCaps := List.replicate 32 16 } }) 1 ⟨true, false, 0⟩)
def bytes_etr_read_bad : List Byte := le 256 0x30ca11b900000000000000000000000000000000000000000000000000000000000000000000ffff000000000000ffff000000000000ffff000000000000ffff000000000000ffff000000000000ffff000000000000ffff000000000000ffff000000000000ffff000000000000ffff000000000000ffff000000000000ffff000000000000ffff000000000000ffff000000000000ffff000000000000ffff000000000000ffff000000000000ffff000000000000ffff000000000000ffff000000000000ffff000000000000ffff0000000104000003000000000000ffff0000000000000000000000000000000000000000000000020001000100010001
def at_topo_wait_true : State := (withBoot (inBringup 4) fun b => { b with stage4At := some 5, etr := some ⟨0, 0, false, 2, []⟩ })
def at_watchdog_strike : State := { devU with faults := { devU.faults with strike := 5 } }
def at_heartbeat_heard : State := withTwin devW fun x => { x with active := true, seen := true, misses := 0 }
def at_heartbeat_missed : State := withTwin devW fun x => { x with active := true, seen := false, misses := 3 }
def at_heartbeat_fifth : State := withTwin devW fun x => { x with active := true, seen := false, misses := 4 }
def at_mirror_past_quota : State := setReg devW rMIRROR_QUOTA 0
def at_mirror_token : State := (withMirror devW (mirror8 5 [65] none false))
def at_mirror_ack_refused : State := (withReq devW { entry0 .decode 18 with mirrored := true } (work0 descGen))
def at_mirror_ack_commit : State := (modPart (withReq devW { entry0 .committing 18 with mirrored := true } { work0 descGen with commitHeld := true }) 0 fun P => { P with cqWait := [⟨3, [1, 2], some h0⟩] })
def at_failover : State := (withMirror devW (mirror8 7 [65] none false))
def at_twin_dsb_faulted : State := (withTwin (withMirror devW (mirror8 7 [65] none false)) fun x => { x with reading := true })
def at_takeover_waits : State := (withMirror devW (mirror8 6 [65] (some ⟨.ok, 0, 0, 18, 3, true⟩) false))
def at_slot_read_there : State := (withMirror devW (mirror8 6 [65] (some ⟨.ok, 0, 0, 18, 3, true⟩) true))
def at_domain_enable : State := withDom devU 25 ⟨false, .off, false⟩
def at_domain_enable_array_waits : State := (withPower devU fun p => { p with doms := (List.range 15).map fun d => (d, (⟨decide (1 < d), .off, false⟩ : Dom)) })
def at_domain_drain_done : State := withDom devU 52 ⟨false, .draining, false⟩
def at_domain_drain_done_array : State := withDom devU 14 ⟨false, .draining, false⟩
def drainingLists (d l : Nat) : State := { withDom devU d ⟨false, .draining, false⟩ with lists := [(l, h0)] }
def at_domain_isolation_off : State := withDom devU 52 ⟨false, .fenced, false⟩
def at_domain_isolation_again : State := withDom devU 25 ⟨true, .fenced, false⟩
def at_domain_power_up : State := withDom devU 25 ⟨true, .poweringUp, false⟩
def at_domain_power_up_off : State := withDom devU 25 ⟨false, .poweringUp, false⟩
def at_temperature_stays : State := withPower devU fun p => { p with thermal := true }
def at_power_over : State := withPower devU fun p => { p with pwrTarget := 1600 }
def at_power_at_least : State := withPower devU fun p => { p with pwrTarget := 1400 }
def at_power_under : State := withPower devU fun p => { p with pwrTarget := 1580 }
def at_throttle_stuck_true : State := withPower devU fun p => { p with throttleAt := some 5 }
def at_pin_switch_end : State := setGpio devU 3 { Gpio.start 3 with pend := some 4 }
def at_mctp_get : State := { devU with pins := { devU.pins with eid := 9 } }
def at_jtagIdcode : State := { devU with flash := { devU.flash with lc := 4 } }
def at_jtag_scrapped : State := { devU with flash := { devU.flash with lc := 5 } }
def at_counter_select : State := ({ devU with cnt := { devU.cnt with cnt := [(255, ⟨0x1FFFF000, 5, true, 4, false⟩)] } })
def at_snap_due : State := ({ (setReg ({ devU with cnt := { devU.cnt with cnt := [(255, ⟨0x1FFFF000, 5, true, 4, false⟩)] } }) rSNAP 0x200) with now := 2000 })
def at_periodic_snapshot_2000 : State := (setReg ({ devU with cnt := { devU.cnt with cnt := [(255, ⟨0x1FFFF000, 5, true, 4, false⟩)] } }) rSNAP 0x200)
def at_register_write_setup : State := (withBoot (inBringup 3) fun b => { b with setupDone := true })
def at_nt_status : State := { devU with nt := { devU.nt with status := 2, stepFlag := true } }
def at_dead_bytes : State := { devU with ps := { devU.ps with dead := 0x500000003 } }
theorem test_jtag_other_open : devL.flash.lc ≠ 3 ∧ devL.flash.lc ≠ 5 ∧ (match exec (.jtagOtherInstruction 5) devL with | .refused (.jtagInstruction c) => c | _ => 0) = 5 := by decide +kernel

/-- DeviceReset: ResetsReturnEverythingToReset. -/
theorem test_device_reset_rail :
    (nexts (exec (.deviceReset (some 3)) devU) fun u => decide (u.boot.st = .reset ∧ u.boot.rails = [3] ∧ u.host.mem = devU.host.mem) = true) := by decide +kernel

/-- device reset pin2, device reset pin3, device reset not due. -/
theorem test_deviceReset_clauses :
    (((side at_device_reset_pin2 2).active = true) ∧
    (nexts (exec (.deviceReset none) at_device_reset_pin2) fun u => decide (u.boot.st = .reset ∧ u.boot.rails = []) = true)) ∧
    ((side at_device_reset_pin3 3).active = true) ∧
    ((side devU 2).active = false ∧ (side devU 3).active = false) := by decide +kernel

/-- Thermtrip: ResetsReturnEverythingToReset. -/
theorem test_thermtrip_115 :
    (nexts (exec (.thermtrip 115) devU) fun u => decide (u.boot.tripped = true ∧ u.boot.st = .reset) = true) := by decide +kernel

theorem test_thermtrip_114 :
    (nexts (exec (.thermtrip 114) devU) fun u => decide (u = devU) = true) := by decide +kernel

/-- RefclkLoss: ResetsReturnEverythingToReset. -/
theorem test_refclk_1_lost :
    (nexts (exec (.refclkLoss 1 false 9) devU) fun u => decide (u.boot.noClock = true ∧ u.boot.st = .reset) = true) := by decide +kernel

theorem test_refclk_2_lost :
    (nexts (exec (.refclkLoss 2 false 9) devU) fun u => decide ((port u 1).st = .down) = true) := by decide +kernel

/-- DeviceStart: StartsRunAnImageAndAnswer. -/
theorem test_start_newer :
    (at_start_newer.boot.st = .reset ∧ at_start_newer.boot.noClock = false ∧ resetPin at_start_newer = false ∧ at_start_newer.boot.tripped = false) ∧
    (at_start_newer.flash.lc ≠ 0 ∧ at_start_newer.flash.lc ≠ 5 ∧ at_start_newer.flash.imgA.signed = true ∧ at_start_newer.ident.minSec ≤ at_start_newer.flash.imgA.sec) ∧
    (nexts (exec (.deviceStart 9 true) at_start_newer) fun u => decide (u.boot.imageB = true ∧ u.boot.warm = true ∧ u.boot.stage = 1 ∧ (dom u 0).st = .poweringUp) = true) := by decide +kernel

/-- start returned, start scrapped, start no image, start after trip. -/
theorem test_deviceStart_clauses :
    ((at_start_returned.boot.st = .reset ∧ at_start_returned.boot.noClock = false ∧ resetPin at_start_returned = false ∧ at_start_returned.boot.tripped = false) ∧
    (at_start_returned.flash.lcPending = some 4) ∧
    (nexts (exec (.deviceStart 9 true) at_start_returned) fun u => decide (u.flash.lc = 4 ∧ u.boot.warm = false ∧ u.flash.saved = false) = true)) ∧
    ((at_start_scrapped.boot.st = .reset ∧ at_start_scrapped.boot.noClock = false ∧ resetPin at_start_scrapped = false ∧ at_start_scrapped.boot.tripped = false) ∧
    (at_start_scrapped.flash.lcPending.getD at_start_scrapped.flash.lc = 5) ∧
    (nexts (exec (.deviceStart 9 true) at_start_scrapped) fun u => decide (u.boot.st = .bringup ∧ u.boot.fw = false ∧ u.flash.startCount = 1) = true)) ∧
    ((at_start_no_image.boot.st = .reset ∧ at_start_no_image.boot.noClock = false ∧ resetPin at_start_no_image = false ∧ at_start_no_image.boot.tripped = false) ∧
    (at_start_no_image.flash.imgA.signed = false ∧ at_start_no_image.flash.imgB.signed = false ∧ at_start_no_image.flash.lc = 3) ∧
    (nexts (exec (.deviceStart 9 true) at_start_no_image) fun u => decide (u.boot.st = .faulted ∧ u.boot.fatal = 0x01000000 ∧ u.pins.faultN = true) = true)) ∧
    (at_start_after_trip.boot.st = .reset ∧ at_start_after_trip.boot.noClock = false ∧ resetPin at_start_after_trip = false ∧ ∀ r ∈ List.range 9, r ∈ at_start_after_trip.boot.rails) := by decide +kernel

/-- ConfigurationReady: StartsRunAnImageAndAnswer. -/
theorem test_configuration_ready :
    (at_configuration_ready.boot.st ≠ .reset) ∧
    (nexts (exec .configurationReady at_configuration_ready) fun u => decide (u.host.cfgReady = true) = true) := by decide +kernel

/-- ConfigurationRequest: StartsRunAnImageAndAnswer. -/
theorem test_configuration_retry :
    (at_configuration_retry.host.cfgReady = false) ∧
    (nexts (exec (.configurationRequest (some true)) at_configuration_retry) fun u => decide (u.host.lastRetry = true ∧ u.host.busMaster = false) = true) := by decide +kernel

theorem test_configuration_request :
    (at_configuration_request.host.cfgReady = true ∧ dsbOn at_configuration_request = false ∧ dsbOn { at_configuration_request with host := { at_configuration_request.host with busMaster := true } } = true) ∧
    (nexts (exec (.configurationRequest (some true)) at_configuration_request) fun u => decide (u.host.busMaster = true ∧ u.host.mem.byte 0x50000 = 1 ∧ u.host.mem.byte 0x50004 = 2) = true) := by decide +kernel

/-- LogicBist: BringUpTestsMapWhatFails. -/
theorem test_logic_bist_port :
    (at_configuration_ready.boot.bistBusy = false ∧ inStage at_configuration_ready 1 = true ∧ at_configuration_ready.boot.warm = false ∧ at_configuration_ready.boot.bistDone = false) ∧
    (((((List.range 96).filter fun d => ([56, 99] : List Nat).contains d && fittedDom at_configuration_ready d).find? fun d => (domPort d).isNone)) = none) ∧
    (nexts (exec (.logicBist [56, 99]) at_configuration_ready) fun u => decide (u.boot.heldPorts = [5] ∧ u.boot.bistFailed = [56]) = true) := by decide +kernel

/-- logic bist fatal, logic bist host. -/
theorem test_logicBist_clauses :
    ((at_configuration_ready.boot.bistBusy = false ∧ inStage at_configuration_ready 1 = true ∧ at_configuration_ready.boot.warm = false ∧ at_configuration_ready.boot.bistDone = false) ∧
    (((((List.range 96).filter fun d => ([56, 60] : List Nat).contains d && fittedDom at_configuration_ready d).find? fun d => (domPort d).isNone)) = some 60) ∧
    (nexts (exec (.logicBist [56, 60]) at_configuration_ready) fun u => decide (u.boot.st = .faulted ∧ u.boot.fatal = 0x0200003C) = true)) ∧
    ((at_logic_bist_host.boot.bistBusy = true) ∧
    (nexts (exec (.logicBist [26, 27]) at_logic_bist_host) fun u => decide (u.boot.bistFailed = [26] ∧ u.boot.bistFail = true ∧ (dom u 25).st = .off ∧ (dom u 27).st = .on) = true)) := by decide +kernel

/-- BistStart: BringUpTestsMapWhatFails. -/
theorem test_bist_start :
    (at_bist_start.boot.fw = true ∧ (at_bist_start.flash.lc = 1 ∨ at_bist_start.flash.lc = 4) ∧ at_bist_start.boot.bistBusy = false) ∧
    (nexts (exec (.bistStart 1) at_bist_start) fun u => decide (u.boot.bistRun = [25, 26] ∧ (dom u 25).st = .draining ∧ (dom u 25).en = false ∧ (dom u 24).st = .on) = true) := by decide +kernel

/-- A flash target of 4 planes of 1,024 pages and 1,024 Gb; and one whose pages are too small. -/
def targetG : FlashTarget := ⟨[3600, 2400, 1600], 16384, 2048, 4, 1024, 1024, some 70, 3000, 3, [1, 2]⟩
def targetS : FlashTarget := { targetG with rates := [2400], pageBytes := 8192 }

/-- InterfaceTraining: BringUpTestsMapWhatFails. -/
theorem test_interface_training :
    (inStage at_memory_test1 1 = true ∧ at_memory_test1.boot.bistDone = true ∧ nFlash at_memory_test1 = 16) ∧
    (nexts (exec (.interfaceTraining [7] [16, 16] [6400, 5600] [[targetG, targetG]] 9) at_memory_test1) fun u => decide (u.boot.stage = 2 ∧ u.tiers.boardCaps = [16, 16] ∧ u.tiers.dieRates = [5600, 0, 0, 0] ∧ tget (0, 0) u.ps.chans 0 = (3600, 2) ∧ u.ps.rejected = [] ∧ u.ps.pb = 4096 ∧ u.ps.perDie = 2048 ∧ u.ps.defaults = [1, 2] ∧ (clsHbm, 224) ∈ u.boot.fails ∧ (clsBoard, 2) ∈ u.boot.fails) = true) := by decide +kernel

theorem test_interface_rejects :
    (targetOk targetG = true ∧ targetOk targetS = false) ∧
    (nexts (exec (.interfaceTraining [] [] [] [[targetG, targetS]] 9) at_memory_test1) fun u => decide (u.ps.rejected = [(0, 1)] ∧ tget (0, 0) u.ps.chans 0 = (3600, 1)) = true) := by decide +kernel

/-- MemoryTest: BringUpTestsMapWhatFails. -/
theorem test_memory_test :
    (inStage at_memory_test 2 = true) ∧
    (nexts (exec (.memoryTest [(3, true, 0), (4, false, 0)] [] [(9, false, 17), (8, false, 16)] (false, 17)) at_memory_test) fun u => decide (u.boot.stage = 3 ∧ u.mem = [] ∧ u.boot.fails = [(clsHbm, 3), (clsBank, 9), (clsLogbook, 0)]) = true) := by decide +kernel

/-- DefectMapBuild: BringUpTestsMapWhatFails. -/
theorem test_defect_map :
    (inStage at_defect_map 3 = true ∧ at_defect_map.boot.mapped = false ∧ at_defect_map.array.rowSpare = none ∧ at_defect_map.array.colSpare = none) ∧
    (nexts (exec (.defectMapBuild 9 false) at_defect_map) fun u => decide (u.boot.mapped = true ∧ u.tiers.retired = [(0, 3)] ∧ (port u 1).badLanes = [3] ∧ u.array.colSpare = some 131 ∧ u.flash.grown.length = 3 ∧ u.boot.stage = 3) = true) := by decide +kernel

theorem test_defect_map_past_the_spare :
    (inStage at_defect_map_past_the_spare 3 = true ∧ at_defect_map_past_the_spare.boot.mapped = false ∧ at_defect_map_past_the_spare.array.rowSpare = none ∧ at_defect_map_past_the_spare.array.colSpare = none) ∧
    (nexts (exec (.defectMapBuild 9 false) at_defect_map_past_the_spare) fun u => decide (u.boot.st = .faulted ∧ u.pins.faultN = true ∧ u.boot.fatal = fatalCode clsLine 131) = true) := by decide +kernel

/-- SetupDone: SetUpIsCheckedThenTopology, RegistersAreWrittenAndReadOnce. -/
theorem test_setup_done_waits :
    (at_setup_done_waits.boot.fw = true ∧ at_setup_done_waits.boot.st = .bringup ∧ (∀ r ∈ setupRules at_setup_done_waits, r.1 = true) ∧ at_setup_done_waits.boot.stage4At = none) ∧
    (nexts (exec (.setupDone 9) at_setup_done_waits) fun u => decide (u.boot.setupDone = true ∧ u.boot.etrWait = true ∧ u.boot.stage = 3 ∧ (port u 1).en = false) = true) := by decide +kernel

/-- setup done checks, setup refused. -/
theorem test_setupDone_clauses :
    ((at_setup_done_checks.boot.fw = true ∧ at_setup_done_checks.boot.st = .bringup ∧ (∀ r ∈ setupRules at_setup_done_checks, r.1 = true) ∧ at_setup_done_checks.boot.stage4At = none) ∧
    (nexts (exec (.setupDone 9) at_setup_done_checks) fun u => decide (u.boot.setupDone = true ∧ u.boot.stage = 4 ∧ u.boot.stage4At = some 9) = true)) ∧
    ((at_setup_refused.boot.fw = true ∧ at_setup_refused.boot.st = .bringup ∧ ((setupRules at_setup_refused).find? (fun r => !r.1)).map (·.2) = some rTWIN_CTRL) ∧
    (nexts (exec (.setupDone 9) at_setup_refused) fun u => decide (u.boot.refused = true ∧ u.boot.refusedAt = rTWIN_CTRL ∧ u.boot.setupDone = false) = true)) := by decide +kernel

/-- EtrRead: SetUpIsCheckedThenTopology. -/
theorem test_etr_read_ready :
    (at_etr_read_ready.boot.etrWait = true ∧ etrOk at_etr_read_ready etrBytes = true ∧ inStage at_etr_read_ready 4 = true ∧ at_etr_read_ready.boot.setupDone = true ∧ pwrFail at_etr_read_ready = false) ∧
    (nexts (exec (.etrRead (some etrBytes) 9) at_etr_read_ready) fun u => decide (u.boot.st = .ready ∧ portClass u 1 = 0 ∧ u.boot.etrWait = false) = true) := by decide +kernel

/-- etr read power fail, etr read none, etr read bad. -/
theorem test_etrRead_clauses :
    (at_etr_read_power_fail.boot.etrWait = true ∧ etrOk at_etr_read_power_fail etrBytes = true ∧ pwrFail at_etr_read_power_fail = true) ∧
    ((at_etr_read_ready.boot.etrWait = true) ∧
    (nexts (exec (.etrRead none 9) at_etr_read_ready) fun u => decide (u.boot.refused = true ∧ u.boot.refusedAt = rTOPO_LO ∧ u.boot.setupDone = false) = true)) ∧
    ((at_etr_read_ready.boot.etrWait = true) ∧
    (etrOk at_etr_read_ready bytes_etr_read_bad = false)) := by decide +kernel

/-- TopoWaitExpiry: SetUpIsCheckedThenTopology. -/
theorem test_topo_wait_true :
    (at_topo_wait_true.boot.etr = some ⟨0, 0, false, 2, []⟩ ∧ at_topo_wait_true.boot.stage4At = some 5 ∧ inStage at_topo_wait_true 4 = true) ∧
    (nexts (exec (.topoWaitExpiry 2000000005) at_topo_wait_true) fun u => decide (u.boot.topoFail = true) = true) := by decide +kernel

theorem test_topo_wait_false :
    (at_topo_wait_true.boot.etr = some ⟨0, 0, false, 2, []⟩ ∧ at_topo_wait_true.boot.stage4At = some 5 ∧ inStage at_topo_wait_true 4 = true) ∧
    (nexts (exec (.topoWaitExpiry 2000000004) at_topo_wait_true) fun u => decide (u.boot.topoFail = false) = true) := by decide +kernel

/-- LcRequest: SetUpIsCheckedThenTopology. -/
theorem test_lc_request_returned :
    (barOpen devU 0x10000 = true ∧ devU.flash.lc = 3) ∧
    (nexts (exec (.lcRequest 4 true) devU) fun u => decide (u.flash.lcPending = some 4 ∧ u.boot.lcRefused = false) = true) := by decide +kernel

/-- lc request unauthorised, lc request scrapped, lc request same, lc request six. -/
theorem test_lcRequest_clauses :
    ((barOpen devU 0x10000 = true ∧ devU.flash.lc = 3) ∧
    (nexts (exec (.lcRequest 4 false) devU) fun u => decide (u.flash.lcPending = none ∧ u.boot.lcRefused = true) = true)) ∧
    (barOpen devU 0x10000 = true ∧ devU.flash.lc = 3) ∧
    (barOpen devU 0x10000 = true ∧ devU.flash.lc = 3) ∧
    (barOpen devU 0x10000 = true ∧ devU.flash.lc = 3) := by decide +kernel

/-- WatchdogStrike: WatchdogsAndHeartbeatsAreHeard. -/
theorem test_watchdog_strike :
    (at_watchdog_strike.boot.fw = true) ∧
    (nexts (exec (.watchdogStrike 2000005) at_watchdog_strike) fun u => decide (u.faults.strike = 2000005) = true) := by decide +kernel

/-- WatchdogExpiry: WatchdogsAndHeartbeatsAreHeard. -/
theorem test_watchdog_expiry :
    (at_watchdog_strike.boot.fw = true ∧ at_watchdog_strike.boot.st ≠ .faulted ∧ at_watchdog_strike.faults.strike + 2000000 ≤ max at_watchdog_strike.now 2000005) ∧
    (nexts (exec (.watchdogExpiry 2000005) at_watchdog_strike) fun u => decide (u.boot.st = .faulted ∧ u.boot.fatal = 0x01000001) = true) := by decide +kernel

theorem test_watchdog_expiry_tells_the_twin :
    (devW.boot.fw = true ∧ devW.boot.st ≠ .faulted ∧ twinEn devW = true ∧ portUp devW 0 = true ∧ portUp devW 1 = true) := by decide +kernel

/-- TwinHeartbeatSend: WatchdogsAndHeartbeatsAreHeard. -/
theorem test_twin_heartbeat_send :
    (isReady devW = true ∧ twinEn devW = true ∧ portUp devW (twinPort0 devW) = true) ∧
    (nexts (exec (.twinHeartbeatSend 9) devW) fun u => decide (tget [] (port u 0).queues 2 = [(3, 0, .heartbeat)] ∧ tget [] (port u 1).queues 2 = [(3, 0, .heartbeat)]) = true) := by decide +kernel

/-- HeartbeatMiss: WatchdogsAndHeartbeatsAreHeard. -/
theorem test_heartbeat_heard :
    (isReady at_heartbeat_heard = true ∧ twinEn at_heartbeat_heard = true ∧ at_heartbeat_heard.twin.seen = true ∧ resumedWaiting at_heartbeat_heard = []) ∧
    (nexts (exec (.heartbeatMiss 9) at_heartbeat_heard) fun u => decide (u.twin.misses = 0 ∧ u.twin.seen = false) = true) := by decide +kernel

/-- heartbeat missed, heartbeat fifth. -/
theorem test_heartbeatMiss_clauses :
    ((isReady at_heartbeat_missed = true ∧ twinEn at_heartbeat_missed = true ∧ at_heartbeat_missed.twin.seen = false ∧ resumedWaiting at_heartbeat_missed = []) ∧
    (nexts (exec (.heartbeatMiss 9) at_heartbeat_missed) fun u => decide (u.twin.misses = 4 ∧ u.twin.reading = false) = true)) ∧
    ((isReady at_heartbeat_fifth = true ∧ twinEn at_heartbeat_fifth = true ∧ at_heartbeat_fifth.twin.seen = false ∧ resumedWaiting at_heartbeat_fifth = []) ∧
    (nexts (exec (.heartbeatMiss 9) at_heartbeat_fifth) fun u => decide (u.twin.misses = 5 ∧ u.twin.reading = true) = true)) := by decide +kernel

/-- TwinHeartbeatReceive: WatchdogsAndHeartbeatsAreHeard. -/
theorem test_twin_heartbeat_receive :
    (twinEn devW = true ∧ 3 = twinDev devW ∧ 1 = devno devW) ∧
    (nexts (exec (.twinHeartbeatReceive 3 1) devW) fun u => decide (u.twin.seen = true ∧ u.twin.active = true) = true) := by decide +kernel

theorem test_twin_heartbeat_discarded :
    (4 ≠ devno devW) ∧
    (nexts (exec (.twinHeartbeatReceive 3 4) devW) fun u => decide (u.twin.seen = false ∧ u.twin.discarded = 1) = true) := by decide +kernel

/-- MirrorRecord: TwinsMirrorAndTakeOver. -/
theorem test_mirror_admission :
    (isReady devW = true ∧ twinEn devW = true ∧ 3 = twinDev devW) ∧
    (devW.lb.mirrors.length < mirrorQuota devW ∧ (part devW 0).st = .ready ∧ cqRoom devW 0 = true ∧ devW.lb.fresh < 262144) ∧
    (nexts (exec (.mirrorRecord 3 (.admission img8)) devW) fun u => decide ((entry u 0).st = .mirror ∧ (entry u 0).tag = 7 ∧ (part u 0).mirrorSlots = 1 ∧ tget [] (port u 0).queues 2 = [(3, 0, .mirrorAck (.admission img8) true)]) = true) := by decide +kernel

/-- mirror past quota, mirror token. -/
theorem test_mirrorRecord_clauses :
    ((isReady at_mirror_past_quota = true ∧ twinEn at_mirror_past_quota = true ∧ 3 = twinDev at_mirror_past_quota) ∧
    (mirrorQuota at_mirror_past_quota ≤ at_mirror_past_quota.lb.mirrors.length) ∧
    (nexts (exec (.mirrorRecord 3 (.admission img8)) at_mirror_past_quota) fun u => decide (tget [] (port u 0).queues 2 = [(3, 0, .mirrorAck (.admission img8) false)]) = true)) ∧
    ((isReady at_mirror_token = true ∧ twinEn at_mirror_token = true ∧ 3 = twinDev at_mirror_token ∧ mirrorOf at_mirror_token h8 = some (mirror8 5 [65] none false)) ∧
    (nexts (exec (.mirrorRecord 3 (.token h8 1 66)) at_mirror_token) fun u => decide ((mirrorOf u h8).map (·.toks) = some [65, 66]) = true)) := by decide +kernel

/-- MirrorAck: TwinsMirrorAndTakeOver. -/
theorem test_mirror_ack_refused :
    (liveSlot at_mirror_ack_refused h0 = some 0 ∧ work at_mirror_ack_refused 0 = some (work0 descGen) ∧ (work0 descGen).handle = h0 ∧ (entry at_mirror_ack_refused 0).mirrored = true ∧ (work0 descGen).held = []) ∧
    (nexts (exec (.mirrorAck (.token h0 1 66) false 9) at_mirror_ack_refused) fun u => decide ((entry u 0).mirrored = false) = true) := by decide +kernel

theorem test_mirror_ack_commit :
    (liveSlot at_mirror_ack_commit h0 = some 0 ∧ work at_mirror_ack_commit 0 = some { work0 descGen with commitHeld := true } ∧ (entry at_mirror_ack_commit 0).mirrored = true ∧ (part at_mirror_ack_commit 0).cqWait = [⟨3, [1, 2], some h0⟩]) ∧
    (nexts (exec (.mirrorAck (.commit h0 ⟨.ok, 0, 0, 18, 3, true⟩) true 9) at_mirror_ack_commit) fun u => decide ((part u 0).cqWait = [] ∧ u.host.mem.byte 0x10061 = 2 ∧ (work u 0).map (·.commitHeld) = some false) = true) := by decide +kernel

/-- Failover: WatchdogsAndHeartbeatsAreHeard, TwinsMirrorAndTakeOver. -/
theorem test_failover :
    (isReady at_failover = true ∧ twinEn at_failover = true ∧ twinDev at_failover = 3 ∧ at_failover.lb.mirrors = [mirror8 7 [65] none false] ∧ at_failover.lb.work = [] ∧ NoWaitMet at_failover) ∧
    (nexts (exec (.failover 3 9) at_failover) fun u => decide ((entry u 0).st = .committing ∧ ((work u 0).bind (·.commit)).map (fun c => (c.status, c.detail)) = some (.aborted, 1) ∧ u.twin.took = true) = true) := by decide +kernel

/-- TwinDsbRead: TwinsMirrorAndTakeOver. -/
theorem test_twin_dsb_faulted :
    (isReady at_twin_dsb_faulted = true ∧ at_twin_dsb_faulted.twin.reading = true ∧ (u32 dsb3 4 = 3 ∨ u64 dsb3 0x10 + 5000000 ≤ max at_twin_dsb_faulted.now 9)) ∧
    (nexts (exec (.twinDsbRead (some dsb3) 9) at_twin_dsb_faulted) fun u => decide (u.twin.took = true) = true) := by decide +kernel

/-- twin dsb stopped, twin dsb alive. -/
theorem test_twinDsbRead_clauses :
    ((isReady at_twin_dsb_faulted = true ∧ at_twin_dsb_faulted.twin.reading = true ∧ (u32 dsbOld 4 = 3 ∨ u64 dsbOld 0x10 + 5000000 ≤ max at_twin_dsb_faulted.now 5000004)) ∧
    (nexts (exec (.twinDsbRead (some dsbOld) 5000004) at_twin_dsb_faulted) fun u => decide (u.twin.took = true) = true)) ∧
    (isReady at_twin_dsb_faulted = true ∧ at_twin_dsb_faulted.twin.reading = true ∧ u32 dsbOld 4 ≠ 3 ∧ max at_twin_dsb_faulted.now 5000003 < u64 dsbOld 0x10 + 5000000) := by decide +kernel

/-- TakeoverSlotRead: TwinsMirrorAndTakeOver. -/
theorem test_slot_read_there :
    (at_slot_read_there.lb.mirrors.find? (fun m => m.slot == 0 && m.waiting) = some (mirror8 6 [65] (some ⟨.ok, 0, 0, 18, 3, true⟩) true) ∧ u64 (le 8 h8.toNum ++ List.replicate 23 0 ++ [1]) 0 = h8.toNum ∧ bit (u8 (le 8 h8.toNum ++ List.replicate 23 0 ++ [1]) 31) 0 = true ∧ work at_slot_read_there 0 = none) ∧
    (nexts (exec (.takeoverSlotRead 0 9 (some (le 8 h8.toNum ++ List.replicate 23 0 ++ [1]))) at_slot_read_there) fun u => decide (u.lb.mirrors = [] ∧ (entry u 0).st = .free ∧ u.lb.freed = [0]) = true) := by decide +kernel

theorem test_slot_read_not_there :
    (at_slot_read_there.lb.mirrors.find? (fun m => m.slot == 0 && m.waiting) = some (mirror8 6 [65] (some ⟨.ok, 0, 0, 18, 3, true⟩) true) ∧ u64 (le 8 0 ++ List.replicate 23 0 ++ [1]) 0 = 0 ∧ bit (u8 (le 8 0 ++ List.replicate 23 0 ++ [1]) 31) 0 = true ∧ work at_slot_read_there 0 = none) ∧
    (isReady at_slot_read_there = true) ∧
    (nexts (exec (.takeoverSlotRead 0 9 (some (le 8 0 ++ List.replicate 23 0 ++ [1]))) at_slot_read_there) fun u => decide ((entry u 0).st = .committing ∧ ((work u 0).bind (·.commit)).map (·.status) = some .okResumed) = true) := by decide +kernel

/-- DomainDisable: DomainsDrainFenceAndReturn. -/
theorem test_domain_disable_refused :
    (devU.boot.fw = true ∧ fittedDom devU 95 = true ∧ enRefused devU 95 = true) ∧
    (nexts (exec (.domainDisable 95 9) devU) fun u => decide ((dom u 95).refused = true ∧ (dom u 95).en = true) = true) := by decide +kernel

/-- domain disable 52, domain disable 0. -/
theorem test_domainDisable_clauses :
    ((devU.boot.fw = true ∧ fittedDom devU 52 = true ∧ enRefused devU 52 = false) ∧
    (nexts (exec (.domainDisable 52 9) devU) fun u => decide ((dom u 52).st = .draining ∧ (port u 1).st = .fenced) = true)) ∧
    ((devU.boot.fw = true ∧ fittedDom devU 0 = true ∧ enRefused devU 0 = false) ∧
    (nexts (exec (.domainDisable 0 9) devU) fun u => decide ((dom u 0).en = false ∧ (dom u 14).st = .draining ∧ (dom u 14).en = true ∧ (dom u 15).st = .on) = true)) := by decide +kernel

/-- DomainEnable: DomainsDrainFenceAndReturn. -/
theorem test_domain_enable :
    (at_domain_enable.boot.fw = true ∧ fittedDom at_domain_enable 25 = true) ∧
    (nexts (exec (.domainEnable 25) at_domain_enable) fun u => decide ((dom u 25) = ⟨true, .poweringUp, false⟩) = true) := by decide +kernel

theorem test_domain_enable_array_waits :
    (at_domain_enable_array_waits.boot.fw = true ∧ fittedDom at_domain_enable_array_waits 0 = true ∧ 1 ∈ domGroup 0 ∧ (dom at_domain_enable_array_waits 1).en = false) := by decide +kernel

/-- DomainDrainDone: DomainsDrainFenceAndReturn. -/
theorem test_domain_drain_done :
    ((dom at_domain_drain_done 52).st = .draining ∧ at_domain_drain_done.helm.issued = [] ∧ at_domain_drain_done.helm.rerun = [] ∧ (∀ x ∈ domGroup 52, x = 52 → (dom at_domain_drain_done x).en = false)) ∧
    (nexts (exec (.domainDrainDone 52 9) at_domain_drain_done) fun u => decide ((dom u 52).st = .fenced) = true) := by decide +kernel

theorem test_domain_drain_done_array :
    ((dom at_domain_drain_done_array 14).st = .draining ∧ at_domain_drain_done_array.helm.issued = [] ∧ at_domain_drain_done_array.helm.rerun = [] ∧ at_domain_drain_done_array.helm.swap = none ∧ (∀ x ∈ domGroup 14, x = 14 → (dom at_domain_drain_done_array x).en = false)) ∧
    (nexts (exec (.domainDrainDone 14 9) at_domain_drain_done_array) fun u => decide ((dom u 14).st = .fenced) = true) := by decide +kernel

/-- A Sextant domain whose lists are free is fenced; the other domain's list does not hold it, its own does. -/
theorem test_domain_drain_done_lists :
    ((dom (drainingLists 23 32) 23).st = .draining ∧ (∀ l ∈ (drainingLists 23 32).lists, 32 ≤ l.1)) ∧
    (nexts (exec (.domainDrainDone 23 9) (drainingLists 23 32)) fun u => decide ((dom u 23).st = .fenced) = true) ∧
    ((dom (drainingLists 24 31) 24).st = .draining ∧ (∀ l ∈ (drainingLists 24 31).lists, l.1 < 32)) ∧
    (nexts (exec (.domainDrainDone 24 9) (drainingLists 24 31)) fun u => decide ((dom u 24).st = .fenced) = true) ∧
    (nexts (exec (.domainDrainDone 23 9) (drainingLists 23 31)) fun u => decide ((dom u 23).st = .draining) = true) := by decide +kernel

/-- DomainIsolationDone: DomainsDrainFenceAndReturn. -/
theorem test_domain_isolation_off :
    ((dom at_domain_isolation_off 52).st = .fenced ∧ at_domain_isolation_off.helm.issued = [] ∧ at_domain_isolation_off.helm.rerun = [] ∧ (∀ x ∈ domGroup 52, x = 52 → (dom at_domain_isolation_off x).en = false)) ∧
    (nexts (exec (.domainIsolationDone 52 9) at_domain_isolation_off) fun u => decide ((dom u 52).st = .off ∧ (port u 1).st = .off) = true) := by decide +kernel

theorem test_domain_isolation_again :
    ((dom at_domain_isolation_again 25).st = .fenced ∧ at_domain_isolation_again.helm.issued = [] ∧ at_domain_isolation_again.helm.rerun = [] ∧ (∀ x ∈ domGroup 25, x = 25 → (dom at_domain_isolation_again x).en = true)) ∧
    (nexts (exec (.domainIsolationDone 25 9) at_domain_isolation_again) fun u => decide ((dom u 25).st = .poweringUp) = true) := by decide +kernel

/-- DomainPowerUpDone: DomainsDrainFenceAndReturn. -/
theorem test_domain_power_up :
    ((dom at_domain_power_up 25).st = .poweringUp ∧ at_domain_power_up.helm.issued = [] ∧ at_domain_power_up.helm.rerun = [] ∧ (∀ x ∈ domGroup 25, x = 25 → (dom at_domain_power_up x).en = true)) ∧
    (nexts (exec (.domainPowerUpDone 25 9) at_domain_power_up) fun u => decide ((dom u 25).st = .on) = true) := by decide +kernel

theorem test_domain_power_up_off :
    ((dom at_domain_power_up_off 25).st = .poweringUp ∧ at_domain_power_up_off.helm.issued = [] ∧ at_domain_power_up_off.helm.rerun = [] ∧ (∀ x ∈ domGroup 25, x = 25 → (dom at_domain_power_up_off x).en = false)) ∧
    (nexts (exec (.domainPowerUpDone 25 9) at_domain_power_up_off) fun u => decide ((dom u 25).st = .draining) = true) := by decide +kernel

/-- TemperatureCrossing: ClockAndInputsAreLimited. -/
theorem test_temperature_hot :
    (tjThrottle devU ≤ 200) ∧
    (nexts (exec (.temperatureCrossing 200) devU) fun u => decide (u.power.thermal = true ∧ u.power.ckArr = 1400 ∧ u.power.tjMax = 200) = true) := by decide +kernel

theorem test_temperature_stays :
    (at_temperature_stays.power.thermal = true ∧ tjThrottle at_temperature_stays < 92 + 5 ∧ 92 < tjThrottle at_temperature_stays) := by decide +kernel

/-- PowerLimitTick: ClockAndInputsAreLimited. -/
theorem test_power_over :
    (at_power_over.boot.fw = true) ∧
    (pwrLimit at_power_over < 4095) ∧
    (nexts (exec (.powerLimitTick 9 4095) at_power_over) fun u => decide (u.power.pwrTarget = 1550 ∧ u.power.limiting = true ∧ u.power.ckArr = 1550) = true) := by decide +kernel

/-- power at least, power under. -/
theorem test_powerLimitTick_clauses :
    ((at_power_at_least.boot.fw = true) ∧
    (pwrLimit at_power_at_least < 4095) ∧
    (nexts (exec (.powerLimitTick 9 4095) at_power_at_least) fun u => decide (u.power.pwrTarget = 1400 ∧ u.helm.delay = 1) = true)) ∧
    ((at_power_under.boot.fw = true) ∧
    (1 * 100 < 95 * pwrLimit at_power_under) ∧
    (nexts (exec (.powerLimitTick 9 1) at_power_under) fun u => decide (u.power.pwrTarget = 1600 ∧ u.power.limiting = false) = true)) := by decide +kernel

/-- SidebandInputChange: ClockAndInputsAreLimited. -/
theorem test_sideband_0_true :
    (nexts (exec (.sidebandInputChange 0 9 true) devU) fun u => decide (u.power.throttleAt = some 9 ∧ u.power.ckArr = 1400) = true) := by decide +kernel

/-- sideband 1 true, sideband 3 true, sideband 2 false, sideband 1 false. -/
theorem test_sidebandInputChange_clauses :
    (nexts (exec (.sidebandInputChange 1 9 true) devU) fun u => decide (u.ps.stopped = true) = true) ∧
    (nexts (exec (.sidebandInputChange 3 9 true) devU) fun u => decide (u.boot.st = .reset) = true) ∧
    (nexts (exec (.sidebandInputChange 2 9 false) devU) fun u => decide (u.boot.st = .ready) = true) ∧
    (nexts (exec (.sidebandInputChange 1 9 false) devU) fun u => decide (u.ps.stopped = false) = true) := by decide +kernel

/-- SidebandUnsettled: ClockAndInputsAreLimited. -/
theorem test_unsettled_1 :
    (nexts (exec (.sidebandUnsettled 1 9) devU) fun u => decide (side u 1 = ⟨true, true, 1⟩ ∧ u.ps.stopped = true) = true) := by decide +kernel

theorem test_unsettled_2 :
    (nexts (exec (.sidebandUnsettled 2 9) devU) fun u => decide (u.boot.st = .reset ∧ (side u 2).unsettled = true) = true) := by decide +kernel

/-- ThrottleStuck: ClockAndInputsAreLimited. -/
theorem test_throttle_stuck_true :
    (at_throttle_stuck_true.power.throttleAt = some 5 ∧ at_throttle_stuck_true.power.stuck = false) ∧
    (nexts (exec (.throttleStuck 100000005) at_throttle_stuck_true) fun u => decide (u.power.stuck = true) = true) := by decide +kernel

theorem test_throttle_stuck_false :
    (at_throttle_stuck_true.power.throttleAt = some 5 ∧ at_throttle_stuck_true.power.stuck = false) ∧
    (nexts (exec (.throttleStuck 100000004) at_throttle_stuck_true) fun u => decide (u.power.stuck = false) = true) := by decide +kernel

/-- PinFunctionSwitch: PinsMctpAndJtagAnswer. -/
theorem test_pin_switch_new :
    (barOpen devU 0x40000 = true) ∧
    (nexts (exec (.pinFunctionSwitch 3 68 true) devU) fun u => decide ((gpio u 3).pend = some 4 ∧ (gpio u 3).out = true ∧ (gpio u 3).func = 0 ∧ u.bar.ignored = 0) = true) := by decide +kernel

theorem test_pin_switch_reserved :
    (barOpen devU 0x40000 = true) ∧
    (nexts (exec (.pinFunctionSwitch 3 29 true) devU) fun u => decide ((gpio u 3).pend = none ∧ (gpio u 3).pull = 2 ∧ u.bar.ignored = 1 ∧ u.bar.ignoredAt = 0x4000C) = true) := by decide +kernel

/-- PinSwitchEnd: PinsMctpAndJtagAnswer. -/
theorem test_pin_switch_end :
    ((gpio at_pin_switch_end 3).pend = some 4) ∧
    (nexts (exec (.pinSwitchEnd 3) at_pin_switch_end) fun u => decide ((gpio u 3).func = 4 ∧ (gpio u 3).pend = none) = true) := by decide +kernel

/-- MctpSetEndpointId: PinsMctpAndJtagAnswer. -/
theorem test_mctp_set :
    (devU.boot.fw = true) ∧
    (nexts (exec (.mctpSetEndpointId 0x1FF) devU) fun u => decide (u.pins.eid = 0xFF ∧ u.pins.reply = 0) = true) := by decide +kernel

theorem test_mctp_without_firmware :
    (at_configuration_retry.boot.fw = false) := by decide +kernel

/-- MctpGetEndpointId: PinsMctpAndJtagAnswer. -/
theorem test_mctp_get :
    (at_mctp_get.boot.fw = true) ∧
    (nexts (exec .mctpGetEndpointId at_mctp_get) fun u => decide (u.pins.reply = 9) = true) := by decide +kernel

/-- MctpOtherMessage: PinsMctpAndJtagAnswer. -/
theorem test_mctp_other_early :
    (at_configuration_ready.boot.fw = true ∧ at_configuration_ready.boot.st = .bringup) ∧
    (nexts (exec .mctpOtherMessage at_configuration_ready) fun u => decide (u.pins.reply = 4) = true) := by decide +kernel

theorem test_mctp_other :
    (devU.boot.fw = true ∧ devU.boot.st ≠ .bringup) ∧
    (nexts (exec .mctpOtherMessage devU) = true) := by decide +kernel

/-- JtagIdcode: PinsMctpAndJtagAnswer. -/
theorem test_jtagIdcode :
    (at_jtagIdcode.flash.lc ≠ 5) ∧
    (nexts (exec .jtagIdcode at_jtagIdcode) = true) := by decide +kernel

/-- JtagSamplePreload: PinsMctpAndJtagAnswer. -/
theorem test_jtagSamplePreload :
    (at_jtagIdcode.flash.lc ≠ 5) ∧
    (nexts (exec .jtagSamplePreload at_jtagIdcode) = true) := by decide +kernel

theorem test_jtag_scrapped :
    (at_jtag_scrapped.flash.lc = 5) := by decide +kernel

/-- JtagBypass: PinsMctpAndJtagAnswer. -/
theorem test_jtagBypass :
    (at_jtagIdcode.flash.lc ≠ 5) ∧
    (nexts (exec .jtagBypass at_jtagIdcode) = true) := by decide +kernel

/-- JtagOtherInstruction: PinsMctpAndJtagAnswer. -/
theorem test_jtag_other_deployed :
    (devU.flash.lc = 3) ∧
    (nexts (exec (.jtagOtherInstruction 5) devU) fun u => decide (u = devU) = true) := by decide +kernel

/-- CounterSelect: CountersAreSelectedAndSnapped. -/
theorem test_counter_select :
    (barOpen at_counter_select 0x600000 = true) ∧
    (nexts (exec (.counterSelect 255 0xFFFFFFFF) at_counter_select) fun u => decide (tget Counter.reset u.cnt.cnt 255 = ⟨0x3FFFFFFF, 0, false, 4, false⟩) = true) := by decide +kernel

/-- Snap: CountersAreSelectedAndSnapped. -/
theorem test_snap :
    (barOpen at_counter_select 0x600000 = true) ∧
    (nexts (exec (.snap 0x201) at_counter_select) fun u => decide (tget Counter.reset u.cnt.cnt 255 = ⟨0x1FFFF000, 5, true, 5, true⟩ ∧ u.cnt.seq = 1 ∧ regBits u rSNAP 23 8 = 2) = true) := by decide +kernel

theorem test_snap_due :
    (barOpen { (setReg ({ devU with cnt := { devU.cnt with cnt := [(255, ⟨0x1FFFF000, 5, true, 4, false⟩)] } }) rSNAP 0x200) with now := 2000 } 0x600000 = true ∧ snapDue { (setReg ({ devU with cnt := { devU.cnt with cnt := [(255, ⟨0x1FFFF000, 5, true, 4, false⟩)] } }) rSNAP 0x200) with now := 2000 } = true) := by decide +kernel

/-- PeriodicSnapshot: CountersAreSelectedAndSnapped. -/
theorem test_periodic_snapshot_2000 :
    (regBits at_periodic_snapshot_2000 rSNAP 23 8 = 2 ∧ (at_periodic_snapshot_2000.cnt.last + 2000 ≤ max at_periodic_snapshot_2000.now 2000 ↔ 1 = 1)) ∧
    (nexts (exec (.periodicSnapshot 2000) at_periodic_snapshot_2000) fun u => decide (u.cnt.seq = 1) = true) := by decide +kernel

theorem test_periodic_snapshot_1999 :
    (regBits at_periodic_snapshot_2000 rSNAP 23 8 = 2 ∧ (at_periodic_snapshot_2000.cnt.last + 2000 ≤ max at_periodic_snapshot_2000.now 1999 ↔ 0 = 1)) ∧
    (nexts (exec (.periodicSnapshot 1999) at_periodic_snapshot_2000) fun u => decide (u.cnt.seq = 0) = true) := by decide +kernel

/-- RegisterWrite: RegistersAreWrittenAndReadOnce. -/
theorem test_register_write_takes :
    ((specNow devU (rEng 8)).map (·.flds.isEmpty) = some false ∧ barOpen devU (rEng 8) = true) ∧
    (∀ f ∈ (specEng 0 8).elim [] (·.flds), f.setup = false) ∧
    (nexts (exec (.registerWrite (rEng 8) 0x12345 9) devU) fun u => decide (reg u (rEng 8) = 0x12345 ∧ u.bar.ignored = 0 ∧ u.boot.setupDone = true) = true) := by decide +kernel

/-- register write past range, register write setup when ready, register write setup, register write nowhere, register write closed. -/
theorem test_registerWrite_clauses :
    (((specNow devU (rEng 8)).map (·.flds.isEmpty) = some false ∧ barOpen devU (rEng 8) = true) ∧
    (nexts (exec (.registerWrite (rEng 8) 999 9) devU) fun u => decide (reg u (rEng 8) = 10000 ∧ u.bar.ignored = 1 ∧ u.bar.ignoredAt = rEng 8) = true)) ∧
    ((specNow devU (rPs 0)).map (·.flds.isEmpty) = some false ∧ barOpen devU (rPs 0) = true) ∧
    ((specNow at_register_write_setup (rPs 0)).map (·.flds.isEmpty) = some false ∧ barOpen at_register_write_setup (rPs 0) = true) ∧
    (specNow devU 0x7FFFF0 = none) ∧
    (barOpen at_configuration_retry (rEng 8) = false) := by decide +kernel

/-- NtTimeLoRead: RegistersAreWrittenAndReadOnce. -/
theorem test_nt_time_lo :
    (barOpen devU 0x460000 = true) ∧
    (nexts (exec (.ntTimeLoRead 0x500000003) devU) fun u => decide (u.bar.lastRead = 3 ∧ u.bar.ntHi = 5) = true) := by decide +kernel

/-- NtStatusRead: RegistersAreWrittenAndReadOnce. -/
theorem test_nt_status :
    (barOpen at_nt_status 0x460000 = true) ∧
    (nexts (exec .ntStatusRead at_nt_status) fun u => decide (u.bar.lastRead = 6 ∧ u.nt.stepFlag = false) = true) := by decide +kernel

theorem test_closed_ntStatusRead :
    (at_configuration_retry.boot.fw = false ∧ at_configuration_retry.host.cfgReady = false) := by decide +kernel

/-- PsDeadBytesLoRead: RegistersAreWrittenAndReadOnce. -/
theorem test_dead_bytes :
    (barOpen at_dead_bytes 0x300000 = true) ∧
    (nexts (exec .psDeadBytesLoRead at_dead_bytes) fun u => decide (u.bar.lastRead = 3 ∧ u.bar.deadHi = 5) = true) := by decide +kernel

/-- MisalignedAccess: MisalignedAccessesAreDropped. -/
theorem test_misaligned_read :
    (nexts (exec (.misalignedAccess 2 4 false) devU) fun u => decide (u.bar.lastRead = 0xFFFFFFFF) = true) := by decide +kernel

theorem test_misaligned_write :
    (nexts (exec (.misalignedAccess 4 8 true) devU) fun u => decide (u = devU) = true) := by decide +kernel

/-- 09, the worked merge: the records of a shard with their sequences; the list after ranks 2, 1 and 0. -/
def ranked (rank : Nat) (l : List (Nat × Nat)) : List Elem :=
  l.zipIdx.map fun x => ⟨x.1.2, 1024 * rank + x.2, x.1.1, rank, 0⟩
def merged : List Elem :=
  [ranked 2 [(300, 0x3F4B851F), (7, 0x3F4A3D71), (41, 0x3F428F5C), (9, 0x3F3374BC)], ranked 1 [(44, 0x3F4FDF3B), (2, 0x3F4D0E56), (12, 0x3F4A3D71), (8, 0x3F266666)],
   ranked 0 [(17, 0x3F4FDF3B), (903, 0x3F4A3D71), (5, 0x3F3E76C9), (61, 0x3F333333)]].foldl (putElems 5) []
/-- 06, worked block: the group of 5 weights 6 and 2 weights 2 at scales 0x7F and w. -/
def workedBlock (w : Nat) : FV :=
  dec32 (accumulate [((List.replicate 32 2).zip ([7, 7, 7, 7, 7, 4, 4] ++ List.replicate 25 0) |>.map fun x =>
    (fpDecode fmtE2m1 x.1, fpDecode fmtE2m1 x.2), some 0x7F, some w)])
def outputs (v : FV) : List (Nat × Nat) := [narrowFp fmtBf16 v, narrowFp fmtE4m3 v, narrowFp fmtE5m2 v, narrowInt8 v]

/-- 02, worked example: P2 with SQ0 of 1,024 entries at count 7,000, a completion ring of 4,096 with n records unconsumed,
and m descriptors open. -/
def devX (head : Nat) (n m : Nat) : State :=
  modPart (ready [(rPart 2 0, 1), (rPart 2 0x204, 16), (rPart 2 (pSQ_CFG 0), 0x10A), (rPart 2 0x118, 12), (rPart 2 0x110, 0x10000)]) 2 fun P =>
    { P with
      st := .ready, rings := [(0, ⟨BitVec.ofNat 32 head, 7000, false, false⟩)], cqTail := BitVec.ofNat 32 (9000 + n), cqHead := 9000
      open_ := (List.range m).map fun k => ⟨0, 6000 + k, 0⟩ }
def doorX (cqHead : Nat) : HostRead := some (doorBlk (7008 :: List.replicate 15 0) cqHead 0)

/-- Commands that no one can send, one for each check of `Instr.wf`. -/
def illFormed : List Instr :=
  [.nop 12, .sqEnable 0 16 0x100 0 none, .sqEnable 0 0 0 0 none, .sqDisable 0 0 0x100, .doorbellRead 0 0 (some [0]) [],
   .doorbellRead 0 0 none [⟨16, 0, List.replicate 64 0⟩], .doorbellRead 0 0 none [⟨0, 2 ^ 32, List.replicate 64 0⟩],
   .doorbellRead 0 0 none [⟨0, 0, [0]⟩], .setProfile 0 (some [0]), .objectMemoryFree 0 0, .objectMemoryFree 11 0, .objectMemoryFree 1 65536,
   .partitionEnable 0 0 0, .partitionDisable 0 1, .completionRecordWritten (2 ^ 18), .abortMessage ⟨65536, 0, 0, 1⟩,
   .abortMessage ⟨0, 16, 0, 1⟩, .abortMessage ⟨0, 0, 2 ^ 18, 1⟩, .abortMessage ⟨0, 0, 0, 2 ^ 26⟩, .releaseReport h0 65536,
   .remoteWaypointSignal 0 0 0 0 65536 0 0, .remoteWaypointSignal 0 0 0 0 0 65536 0, .embedding 0 0 [2 ^ 32], .scrubAccess 4 0 0 .clean false,
   .unitCopy 4 0 0 true, .errorWindowBoundary 2 0, .portEnable 24 0 0, .ackSend 0 8 0, .ppsInEdge 8 0,
   .interfaceTraining [] [] [] [List.replicate 9 targetG] 0, .arrayAcceptance 0 [⟨0, 0, [], [[0]], [], []⟩], .arrayRampDown 0 12, .domainEnable 96, .sidebandUnsettled 4 0, .refclkLoss 3 true 0, .pinSwitchEnd 8,
   .counterSelect 256 0, .misalignedAccess 4 4 true, .misalignedAccess (2 ^ 26) 1 true, .registerWrite 2 0 0, .registerWrite (2 ^ 26) 0 0,
   .mctpSetEndpointId 256, .jtagOtherInstruction 4]
/-- Well-formed ones at the ends of their ranges. -/
def wellFormed : List Instr :=
  [.nop 11, .sqEnable 11 15 0x100 0 none, .objectMemoryFree 10 65535, .completionRecordWritten (2 ^ 18 - 1),
   .abortMessage ⟨65535, 15, 2 ^ 18 - 1, 2 ^ 26 - 1⟩, .errorWindowBoundary 24 0, .portEnable 23 0 0, .ackSend 65535 7 0, .domainEnable 95,
   .counterSelect 255 0, .misalignedAccess 4 8 true, .registerWrite (2 ^ 26 - 4) 0 0]

theorem test_worked_merge : merged.map (fun e => (e.item, e.rank, e.seq)) = [(17, 0, 0), (44, 1, 1024), (2, 1, 1025), (300, 2, 2048), (903, 0, 1)] := by decide +kernel

theorem test_worked_block : round32 (workedBlock 0x7E) = 0x41880000 ∧ (outputs (workedBlock 0x7E)).map (·.1) = [0x4188, 0x58, 0x4C, 0x11] := by decide +kernel

theorem test_worked_block_saturates : (outputs (workedBlock 0x86)).map (·.1) = [0x4588, 0x7E, 0x6C, 0x7F] := by decide +kernel

theorem test_worked_register : rPart 3 (pSQ_LO 2) = 0x00130030 := by decide +kernel

theorem test_worked_crc : crc32c ([0x31, 0x32, 0x33, 0x34, 0x35, 0x36, 0x37, 0x38, 0x39] : List Byte) = 0xE3069283 := by decide +kernel

theorem test_worked_ring : cqSize (devX 7000 4090 5) 2 = 4096 ∧ nexts (exec (.doorbellRead 2 9 (doorX 9000) []) (devX 7000 4090 5)) (fun u => (ring u 2 0).head == 7001 && (part u 2).nextPoll == 209) = true := by decide +kernel

theorem test_worked_ring_then : nexts (exec (.doorbellRead 2 9 (doorX 9100) []) (devX 7001 4090 6)) (fun u => (ring u 2 0).head == 7008) = true := by decide +kernel

theorem test_no_word_spells_a_command : (∀ n ∈ List.range 65, decodeTableWord n (2 ^ n - 1) = none) ∧ State.reset.withFetchWord 32 5 = State.reset := by decide +kernel

theorem test_empty_queue_idles : (match step State.reset with | .next u => decide (u = State.reset) | _ => false) = true := by decide +kernel

theorem test_ill_formed_refused : illFormed.all (fun c => !c.wf) = true := by decide +kernel

theorem test_well_formed_passes : wellFormed.all (·.wf) = true := by decide +kernel

end Sys2Proof.Tests
end

section
/-! Accesses that are not naturally aligned 32-bit accesses (R10). -/

namespace Sys2Proof.Machine

/-! ### What a read returns to the host -/

@[simp] theorem answer_bar (s : State) (v : Nat) :
    (answer s v).bar = { s.bar with lastRead := BitVec.ofNat 32 v } := rfl

theorem answer_only (s : State) (v : Nat) : Only [.bar] s (answer s v) := by
  intro f hf
  cases f
  case bar => simp at hf
  all_goals rfl

/-! ### Misaligned accesses (R10) -/

theorem exec_misalignedAccess (offset size : Nat) (write : Bool) (s : State) :
    exec (.misalignedAccess offset size write) s = execMisalignedAccess offset size write s := rfl

/-- The two ways a dropped access goes: a write answers the state, a read answers all ones. -/
theorem exec_misalignedAccess_dropped {offset size : Nat} (h : offset % 4 ≠ 0 ∨ size ≠ 4) (write : Bool) (s : State) :
    exec (.misalignedAccess offset size write) s = .next (if write then s else answer s 0xFFFFFFFF) := by
  have hmis : ¬ (offset % 4 = 0 ∧ size = 4) := Decidable.not_and_iff_not_or_not.mpr h
  rw [exec_misalignedAccess, execMisalignedAccess, if_neg hmis]
  cases write
  case false => rfl
  case true => rfl

/-- Settles O59: a read leaves only the answer 0xFFFF_FFFF behind, a write leaves nothing. -/
theorem misalignedAccessesAreDropped : Obligations.MisalignedAccessesAreDropped := by
  unfold Obligations.MisalignedAccessesAreDropped
  intro s offset size h
  have hread := exec_misalignedAccess_dropped h false s
  have hwrite := exec_misalignedAccess_dropped h true s
  exact ⟨⟨answer s 0xFFFFFFFF, hread, answer_bar s _, answer_only s _⟩, hwrite⟩

end Sys2Proof.Machine
end

section
/-! What the fault and array units' retirements do (R101, R121, R122, R301, R302, R308, R384, R386): the end shared by
every retirement, then one lemma for each command. -/

namespace Sys2Proof.Machine

/-! ### Frames of the update of one unit -/

theorem setArray_only (s : State) (x : Meridian) : Only [.array] s { s with array := x } := by
  intro f hf
  cases f
  case array => simp at hf
  all_goals rfl

theorem setTiers_only (s : State) (x : Tiers) : Only [.tiers] s { s with tiers := x } := by
  intro f hf
  cases f
  case tiers => simp at hf
  all_goals rfl

/-- A change within some of the fields of a frame, then one within the frame. -/
theorem Only.andThen {fs gs : List StateField} {a b c : State} (h : Only fs a b) (h' : Only gs b c)
    (hs : ∀ f ∈ fs, f ∈ gs := by decide) : Only gs a c := (h.mono hs).trans h'

/-! ### The end of a retirement (R386) -/

/-- A retirement leaves the declared list and joins the grown defect log. -/
def retireLogged (s : State) (cls idx : Nat) : State :=
  { s with
    faults := { s.faults with queue := s.faults.queue.erase (cls, idx) }
    flash := { s.flash with grown := s.flash.grown ++ [(cls, idx)] } }

theorem retireLogged_only (s : State) (cls idx : Nat) : Only [.faults, .flash] s (retireLogged s cls idx) := by
  intro f hf
  cases f
  case faults | flash => simp at hf
  all_goals rfl

/-- After the log, its event (R51). -/
theorem retireDone_only_logged (s : State) (cls idx detail : Nat) :
    Only [.host, .parts, .free, .cnt] (drawn (retireLogged s cls idx)) (retireDone s cls idx detail) :=
  (eventAll_calm ..).1

theorem retireDone_faults (s : State) (cls idx detail : Nat) :
    (retireDone s cls idx detail).faults = { s.faults with queue := s.faults.queue.erase (cls, idx) } :=
  retireDone_only_logged _ _ _ _ .faults (by decide)

theorem retireDone_flash (s : State) (cls idx detail : Nat) :
    (retireDone s cls idx detail).flash = { s.flash with grown := s.flash.grown ++ [(cls, idx)] } :=
  retireDone_only_logged _ _ _ _ .flash (by decide)

theorem retireDone_only (s : State) (cls idx detail : Nat) :
    Only [.faults, .flash, .host, .parts, .free, .cnt] s (retireDone s cls idx detail) :=
  (retireLogged_only s cls idx).andThen ((drawn_only _).andThen ((retireDone_only_logged s cls idx detail).mono (by simp)))

theorem retireFree_faults (s : State) (cls idx : Nat) :
    (retireFree s cls idx).faults = { s.faults with queue := s.faults.queue.erase (cls, idx) } := retireDone_faults ..

theorem retireFree_flash (s : State) (cls idx : Nat) :
    (retireFree s cls idx).flash = { s.flash with grown := s.flash.grown ++ [(cls, idx)] } := retireDone_flash ..

theorem retireFree_only (s : State) (cls idx : Nat) :
    Only [.faults, .flash, .host, .parts, .free, .cnt] s (retireFree s cls idx) :=
  (drawn_only s).andThen (retireDone_only _ _ _ _)

/-! ### BLOCK_LINE_RETIREMENT (R101, R384) -/

/-- The feeders take the new map: a row (lines 0 to 65, assumption log 57) or a column has its spare, and issue stays
stopped for the lines still declared. -/
def lineSpared (s : State) (l : Nat) (rest : List Nat) : State :=
  { s with
    array := if l < 66 then { s.array with rowSpare := some l } else { s.array with colSpare := some l }
    helm := { s.helm with stopped := !rest.isEmpty } }

theorem lineSpared_only (s : State) (l : Nat) (rest : List Nat) : Only [.array, .helm] s (lineSpared s l rest) := by
  intro f hf
  cases f
  case array | helm => simp at hf
  all_goals rfl

theorem exec_blockLineRetirement {s : State} {l : Nat} {rest : List Nat} (t : Nat) (hd : declared s clsLine = l :: rest)
    (hstop : s.helm.stopped = true) (hiss : s.helm.issued = []) (hre : s.helm.rerun = []) :
    exec (.blockLineRetirement t) s = .next (retireFree (lineSpared (tick s t) l rest) clsLine l) := by
  have hd' : declared (tick s t) clsLine = l :: rest := hd
  have hgo : (!s.helm.stopped || !s.helm.issued.isEmpty || !s.helm.rerun.isEmpty) = false := by
    simp [hstop, hiss, hre]
  simp only [exec, execBlockLineRetirement, hd']
  exact if_neg (ne_true_of_eq_false hgo)

theorem blockLineRetirement_takesSpare (s : State) (t l : Nat) (rest : List Nat) (hd : declared s clsLine = l :: rest)
    (hstop : s.helm.stopped = true) (hiss : s.helm.issued = []) (hre : s.helm.rerun = []) :
    ∃ u, exec (.blockLineRetirement t) s = .next u ∧
      u.array = (if l < 66 then { s.array with rowSpare := some l } else { s.array with colSpare := some l }) ∧
      u.helm = { s.helm with stopped := !rest.isEmpty } ∧ u.flash.grown = s.flash.grown ++ [(clsLine, l)] ∧
      u.faults.queue = s.faults.queue.erase (clsLine, l) ∧
      Only [.now, .array, .helm, .faults, .flash, .host, .parts, .free, .cnt] s u := by
  refine ⟨_, exec_blockLineRetirement t hd hstop hiss hre, ?_⟩
  have hend := retireFree_only (lineSpared (tick s t) l rest) clsLine l
  refine ⟨hend .array (by decide), hend .helm (by decide), ?_, ?_, ?_⟩
  · rw [retireFree_flash]; rfl
  · rw [retireFree_faults]; rfl
  · exact (tick_only s t).andThen ((lineSpared_only _ l rest).andThen (hend.mono (by simp)))

/-! ### BANK_RETIREMENT (R302, R308) -/

/-- The eight units of each word of a logical bank that could not be read. -/
def badWords (l : Nat) (bad : List Nat) : List (Nat × Nat) :=
  bad.flatMap fun w => (List.range 8).map fun i => (bankAddr l (w % 1024) + 8 * i, 8)

theorem mem_badWords {l w i : Nat} {bad : List Nat} (hw : w ∈ bad) (hi : i < 8) :
    (bankAddr l (w % 1024) + 8 * i, 8) ∈ badWords l bad :=
  List.mem_flatMap.mpr ⟨w, hw, List.mem_map.mpr ⟨i, List.mem_range.mpr hi, rfl⟩⟩

theorem mem_poisonUnits {s : State} {l : List (Nat × Nat)} {u : Nat × Nat} (h : u ∈ l) :
    u ∈ (poisonUnits s l).tiers.poison := List.mem_append_left _ h

theorem poisonUnits_nil_poison (s : State) : (poisonUnits s []).tiers.poison = s.tiers.poison := by
  simp [poisonUnits]

theorem poisonUnits_only (s : State) (l : List (Nat × Nat)) : Only [.tiers] s (poisonUnits s l) := setTiers_only s _

/-- The copy of a bank has ended: the words of it that could not be read are poisoned under the logical bank it served. -/
def bankCopied (s : State) (bank : Nat) (bad : List Nat) : State :=
  match logicalBank s bank with
  | some l => countEv (poisonUnits s (badWords l bad)) 8 2 (memInst 2 bank) none (8 * bad.length)
  | none => s

theorem bankCopied_some {s : State} {bank l : Nat} (h : logicalBank s bank = some l) (bad : List Nat) :
    bankCopied s bank bad = countEv (poisonUnits s (badWords l bad)) 8 2 (memInst 2 bank) none (8 * bad.length) := by
  rw [bankCopied, h]

theorem bankCopied_none {s : State} {bank : Nat} (h : logicalBank s bank = none) (bad : List Nat) :
    bankCopied s bank bad = s := by
  rw [bankCopied, h]

theorem bankCopied_tiers (s : State) (bank : Nat) (bad : List Nat) :
    (bankCopied s bank bad).tiers = { s.tiers with poison := (bankCopied s bank bad).tiers.poison } := by
  cases h : logicalBank s bank with
  | none => rw [bankCopied_none h]
  | some l => rw [bankCopied_some h]; rfl

theorem bankCopied_only (s : State) (bank : Nat) (bad : List Nat) : Only [.tiers, .cnt] s (bankCopied s bank bad) := by
  cases h : logicalBank s bank with
  | none => rw [bankCopied_none h]; exact Only.refl _ _
  | some l =>
    rw [bankCopied_some h]
    exact (poisonUnits_only _ _).andThen ((countEv_only _ _ _ _ _ _).mono (by simp))

theorem bankCopied_nil_poison (s : State) (bank : Nat) : (bankCopied s bank []).tiers.poison = s.tiers.poison := by
  cases h : logicalBank s bank with
  | none => rw [bankCopied_none h]
  | some l => rw [bankCopied_some h]; exact poisonUnits_nil_poison s

/-- Which logical bank a physical one serves is read from the bank map alone. -/
theorem logicalBank_congr {s u : State} (h : u.tiers.bankMap = s.tiers.bankMap) (b : Nat) :
    logicalBank u b = logicalBank s b := by
  unfold logicalBank
  rw [h]

theorem logicalBank_of_head {s : State} {l p : Nat} {m : List (Nat × Nat)} (h : s.tiers.bankMap = (l, p) :: m) :
    logicalBank s p = some l := by
  simp [logicalBank, h]

theorem spareBank_congr {s u : State} (hb : u.tiers.banks = s.tiers.banks) (hm : u.tiers.bankMap = s.tiers.bankMap) :
    spareBank u = spareBank s := by
  unfold spareBank
  rw [hb, hm]

theorem retireBank_bankMap_some {s : State} {b l p : Nat} (hl : logicalBank s b = some l)
    (hp : spareBank { s with tiers := { s.tiers with banks := s.tiers.banks ++ [b] } } = some p) :
    (retireBank s b).tiers.bankMap = (l, p) :: s.tiers.bankMap.filter (·.1 != l) := by
  simp only [retireBank, hl, hp]

theorem retireBank_bankMap_none {s : State} {b : Nat} (hl : logicalBank s b = none) :
    (retireBank s b).tiers.bankMap = s.tiers.bankMap := by
  simp only [retireBank, hl]

theorem exec_bankRetirement {s : State} {bank : Nat} (t : Nat) (bad : List Nat)
    (h : (declared s clsBank).head? = some bank) :
    exec (.bankRetirement bank t bad) s =
      .next (retireFree (retireBank (bankCopied (tick s t) bank bad) bank) clsBank bank) := by
  have h' : (declared (tick s t) clsBank).head? = some bank := h
  simp only [exec, execBankRetirement, if_pos h']
  rfl

theorem bankRetirement_takesSpare (s : State) (bank t : Nat) (bad : List Nat)
    (h : (declared s clsBank).head? = some bank) :
    ∃ u, exec (.bankRetirement bank t bad) s = .next u ∧
      u.tiers = { s.tiers with banks := s.tiers.banks ++ [bank], bankMap := u.tiers.bankMap, poison := u.tiers.poison } ∧
      (∀ l p, logicalBank s bank = some l →
        spareBank { s with tiers := { s.tiers with banks := s.tiers.banks ++ [bank] } } = some p →
        logicalBank u p = some l ∧ u.tiers.bankMap = (l, p) :: s.tiers.bankMap.filter (·.1 != l)) ∧
      (logicalBank s bank = none → u.tiers.bankMap = s.tiers.bankMap ∧ u.tiers.poison = s.tiers.poison) ∧
      (∀ l, logicalBank s bank = some l → ∀ w ∈ bad, ∀ i, i < 8 → (bankAddr l (w % 1024) + 8 * i, 8) ∈ u.tiers.poison) ∧
      (bad = [] → u.tiers.poison = s.tiers.poison) ∧
      u.flash.grown = s.flash.grown ++ [(clsBank, bank)] ∧ u.faults.queue = s.faults.queue.erase (clsBank, bank) ∧
      Only [.now, .tiers, .faults, .flash, .host, .parts, .free, .cnt] s u := by
  refine ⟨_, exec_bankRetirement t bad h, ?_⟩
  generalize hc : bankCopied (tick s t) bank bad = c
  have hcopy : Only [.tiers, .cnt] (tick s t) c := hc ▸ bankCopied_only _ _ _
  have hct : c.tiers = { s.tiers with poison := c.tiers.poison } := by
    have := bankCopied_tiers (tick s t) bank bad
    rwa [hc] at this
  have hmap : c.tiers.bankMap = s.tiers.bankMap := by rw [hct]
  have hbanks : c.tiers.banks = s.tiers.banks := by rw [hct]
  have hserved : logicalBank c bank = logicalBank s bank := logicalBank_congr hmap bank
  have hend := retireFree_only (retireBank c bank) clsBank bank
  have htiers : (retireFree (retireBank c bank) clsBank bank).tiers = (retireBank c bank).tiers := hend .tiers (by decide)
  have hpoison : (retireBank c bank).tiers.poison = c.tiers.poison := rfl
  rw [htiers, hpoison]
  refine ⟨?_, ?_, ?_, ?_, ?_, ?_, ?_, ?_⟩
  · exact congrArg (fun x : Tiers =>
      { x with banks := x.banks ++ [bank], bankMap := (retireBank c bank).tiers.bankMap }) hct
  · intro l p hl hp
    have hspare : spareBank { c with tiers := { c.tiers with banks := c.tiers.banks ++ [bank] } } = some p := by
      rw [← hp]
      exact spareBank_congr (congrArg (· ++ [bank]) hbanks) hmap
    have hnew := retireBank_bankMap_some (hserved.trans hl) hspare
    rw [hmap] at hnew
    exact ⟨logicalBank_of_head ((congrArg Tiers.bankMap htiers).trans hnew), hnew⟩
  · intro hl
    exact ⟨(retireBank_bankMap_none (hserved.trans hl)).trans hmap, by
      rw [← hc, bankCopied_none (s := tick s t) hl, tick_tiers]⟩
  · intro l hl w hw i hi
    rw [← hc, bankCopied_some (s := tick s t) hl]
    exact mem_poisonUnits (mem_badWords hw hi)
  · rintro rfl
    rw [← hc]
    exact bankCopied_nil_poison _ _
  · rw [retireFree_flash]
    exact congrArg (fun f => f.grown ++ [(clsBank, bank)]) (hcopy .flash (by decide) : c.flash = s.flash)
  · rw [retireFree_faults]
    exact congrArg (fun f => f.queue.erase (clsBank, bank)) (hcopy .faults (by decide) : c.faults = s.faults)
  · exact (tick_only s t).andThen (hcopy.andThen ((setTiers_only _ _).andThen (hend.mono (by simp))))

/-! ### UNIT_COPY (R301, R302) -/

/-- The eight 32-byte units of the 256-byte unit at an address. -/
def unitParts (a : Nat) : List (Nat × Nat) := (List.range 8).map fun i => (a + 32 * i, 32)

/-- A unit's copy has ended: poisoned in its new place when it could not be read. -/
def unitMoved (s : State) (tier ch k : Nat) (good : Bool) : State :=
  if good then s else countEv (poisonUnits s (unitParts (heldUnit s tier ch k))) 8 2 (memInst tier ch) none 1

theorem unitMoved_tiers (s : State) (tier ch k : Nat) (good : Bool) :
    (unitMoved s tier ch k good).tiers = { s.tiers with poison := (unitMoved s tier ch k good).tiers.poison } := by
  cases good
  case false => rfl
  case true => rfl

theorem unitMoved_only (s : State) (tier ch k : Nat) (good : Bool) :
    Only [.tiers, .cnt] s (unitMoved s tier ch k good) := by
  cases good
  case false => exact (poisonUnits_only _ _).andThen ((countEv_only _ _ _ _ _ _).mono (by simp))
  case true => exact Only.refl _ _

/-- A move with its next unit copied. -/
def Move.copied (m : Move) (good : Bool) : Move :=
  { m with next := m.next + 1, poisoned := m.poisoned + if good then 0 else 1 }

theorem exec_unitCopy_next {s : State} {tier : Nat} {m : Move} (t : Nat) (good : Bool)
    (hm : s.tiers.moves.find? (·.tier == tier) = some m) (hmore : m.next + 1 < m.total) :
    exec (.unitCopy tier m.ch t good) s = .next { unitMoved (tick s t) tier m.ch m.next good with
      tiers := { (unitMoved (tick s t) tier m.ch m.next good).tiers with
        moves := (unitMoved (tick s t) tier m.ch m.next good).tiers.moves.map fun x =>
          if x.tier = tier ∧ x.ch = m.ch then m.copied good else x } } := by
  have hlast : ¬ m.total ≤ (m.copied good).next := Nat.not_le.mpr hmore
  simp only [exec, execUnitCopy, tick_tiers, hm, ne_eq, not_true_eq_false, if_false]
  exact if_neg hlast

theorem exec_unitCopy_last {s : State} {tier : Nat} {m : Move} (t : Nat) (good : Bool)
    (hm : s.tiers.moves.find? (·.tier == tier) = some m) (hlast : m.total ≤ m.next + 1) :
    exec (.unitCopy tier m.ch t good) s =
      .next (endMove (unitMoved (tick s t) tier m.ch m.next good) (m.copied good)) := by
  have hlast' : m.total ≤ (m.copied good).next := hlast
  simp only [exec, execUnitCopy, tick_tiers, hm, ne_eq, not_true_eq_false, if_false]
  exact if_pos hlast'

theorem unitCopy_movesOn (s : State) (tier ch t : Nat) (good : Bool) (m : Move)
    (hm : s.tiers.moves.find? (·.tier == tier) = some m) (hch : m.ch = ch) (hmore : m.next + 1 < m.total) :
    ∃ u, exec (.unitCopy tier ch t good) s = .next u ∧
      u.tiers = { s.tiers with poison := u.tiers.poison, moves := s.tiers.moves.map fun x => if x.tier = tier ∧ x.ch = ch
        then { m with next := m.next + 1, poisoned := m.poisoned + if good then 0 else 1 } else x } ∧
      (good = true → u.tiers.poison = s.tiers.poison) ∧
      (good = false → ∀ i, i < 8 → (heldUnit s tier ch m.next + 32 * i, 32) ∈ u.tiers.poison) ∧
      Only [.now, .tiers, .cnt] s u := by
  subst hch
  refine ⟨_, exec_unitCopy_next t good hm hmore, ?_, ?_, ?_, ?_⟩
  · rw [unitMoved_tiers]
    rfl
  · rintro rfl
    rfl
  · rintro rfl i hi
    exact mem_poisonUnits (List.mem_map.mpr ⟨i, List.mem_range.mpr hi, rfl⟩)
  · exact (tick_only s t).andThen ((unitMoved_only _ _ _ _ _).andThen ((setTiers_only _ _).mono (by simp)))

theorem endMove_tiers (s : State) (m : Move) :
    (endMove s m).tiers = { s.tiers with
      moves := s.tiers.moves.filter fun x => !(x.tier == m.tier && x.ch == m.ch)
      retired := s.tiers.retired ++ [(m.tier, m.ch)] } := retireDone_only _ _ _ _ .tiers (by decide)

theorem endMove_only (s : State) (m : Move) :
    Only [.tiers, .faults, .flash, .host, .parts, .free, .cnt] s (endMove s m) :=
  (setTiers_only s _).andThen ((retireDone_only _ _ _ _).mono (by simp))

theorem unitCopy_endsMove (s : State) (tier ch t : Nat) (good : Bool) (m : Move)
    (hm : s.tiers.moves.find? (·.tier == tier) = some m) (hch : m.ch = ch) (hlast : m.total ≤ m.next + 1) :
    ∃ u, exec (.unitCopy tier ch t good) s = .next u ∧ (tier, ch) ∈ u.tiers.retired ∧
      (∀ x ∈ u.tiers.moves, ¬ (x.tier = tier ∧ x.ch = ch)) ∧ u.flash.grown = s.flash.grown ++ [(memCls tier, ch)] ∧
      u.faults.queue = s.faults.queue.erase (memCls tier, ch) ∧
      Only [.now, .tiers, .cnt, .faults, .flash, .host, .parts, .free] s u := by
  subst hch
  have htier : (m.copied good).tier = tier := by
    simpa [Move.copied] using List.find?_some hm
  have hch : (m.copied good).ch = m.ch := rfl
  have hmoved : Only [.tiers, .cnt] (tick s t) (unitMoved (tick s t) tier m.ch m.next good) := unitMoved_only _ _ _ _ _
  refine ⟨_, exec_unitCopy_last t good hm hlast, ?_, ?_, ?_, ?_, ?_⟩
  · simp [endMove_tiers, htier, hch]
  · rw [endMove_tiers, htier, hch]
    rintro x hx ⟨h1, h2⟩
    simp [h1, h2] at hx
  · rw [endMove, retireDone_flash, htier, hch]
    exact congrArg (fun f => f.grown ++ [(memCls tier, m.ch)]) (hmoved .flash (by decide))
  · rw [endMove, retireDone_faults, htier, hch]
    exact congrArg (fun f => f.queue.erase (memCls tier, m.ch)) (hmoved .faults (by decide))
  · exact (tick_only s t).andThen (hmoved.andThen ((endMove_only _ _).mono (by simp)))

/-! ### ARRAY_RAMP_DOWN (R121, R122) -/

theorem arrayRampDown_gates (s : State) (t gated : Nat) (hrun : (s.helm.issued.any fun o => o.run.isSome) = false)
    (hon : s.array.groups ≠ 0) (hidle : s.array.lastAt + arrNs s 512 ≤ max s.now t) :
    ∃ u, exec (.arrayRampDown t gated) s = .next u ∧
      u.array = { s.array with groups := min s.array.groups (11 - gated), fill := false } ∧
      Only [.now, .array, .cnt] s u := by
  have hidle' : ¬ (tick s t).now < s.array.lastAt + arrNs (tick s t) 512 := Nat.not_lt.mpr hidle
  have hgo : ((s.helm.issued.any fun o => o.run.isSome) || s.array.groups == 0
      || decide ((tick s t).now < s.array.lastAt + arrNs (tick s t) 512)) = false := by
    rw [hrun, beq_eq_false_iff_ne.mpr hon, decide_eq_false hidle']
    rfl
  refine ⟨countEv { tick s t with
    array := { s.array with groups := min s.array.groups (11 - gated), fill := false } } 0 8 0 none 1, ?_, rfl, ?_⟩
  · exact if_neg (ne_true_of_eq_false hgo)
  · exact (tick_only s t).andThen ((setArray_only _ _).andThen ((countEv_only _ _ _ _ _ _).mono (by simp)))

/-- Settles O26: a retirement's own change, and the end all retirements share. -/
theorem retirementsTakeTheirSpares : Obligations.RetirementsTakeTheirSpares := by
  unfold Obligations.RetirementsTakeTheirSpares
  refine ⟨blockLineRetirement_takesSpare, bankRetirement_takesSpare, ?_, arrayRampDown_gates⟩
  intro s tier ch t good m hm hch
  exact ⟨unitCopy_movesOn s tier ch t good m hm hch, unitCopy_endsMove s tier ch t good m hm hch⟩

end Sys2Proof.Machine
end

section
/-! How streams run on and end when no request ends with them (R41, R96, R97, R105): a stream that ends, one that starts,
a step that completes, a stream that fails, and the waits that a signal satisfies. -/

namespace Sys2Proof.Machine

/-! ### Streams by their numbers -/

theorem stream_dropStream (s : State) (sid k : Nat) :
    stream (dropStream s sid) k = if k = sid then none else stream s k := by
  by_cases h : k = sid
  · rw [if_pos h, h]
    exact tget_tset_self none s.streams sid none
  · rw [if_neg h]
    exact tget_tset_other none s.streams none h

theorem stream_modStream_self (s : State) (sid : Nat) (f : Stream → Stream) :
    stream (modStream s sid f) sid = (stream s sid).map f := tget_tmod_self ..

theorem stream_modStream_other (s : State) {sid k : Nat} (f : Stream → Stream) (h : k ≠ sid) :
    stream (modStream s sid f) k = stream s k := tget_tmod_other _ _ _ h

theorem modStream_only (s : State) (sid : Nat) (f : Stream → Stream) : Only [.streams] s (modStream s sid f) := by
  intro g hg
  cases g
  case streams => simp at hg
  all_goals rfl

theorem dropStream_only (s : State) (sid : Nat) : Only [.streams, .wp] s (dropStream s sid) := by
  intro g hg
  cases g
  case streams | wp => simp at hg
  all_goals rfl

/-! ### Runs of streams -/

/-- From s to u streams run on within a frame: a stream there serves the requests it served and has every step complete
that it had, or is a descriptor's that started since; no wait is added. -/
structure StreamsRun (fs : List StateField) (s u : State) : Prop where
  frame : Only fs s u
  nextSid_le : s.nextSid ≤ u.nextSid
  waits_sub : ∀ w ∈ u.wp.waits, w ∈ s.wp.waits
  streams : ∀ k y', stream u k = some y' →
    (∃ y, stream s k = some y ∧ y'.req = y.req ∧ y.done ⊆ y'.done) ∨ (y'.req = none ∧ s.nextSid ≤ k)

theorem StreamsRun.of_only {fs : List StateField} {s u : State} (h : Only fs s u)
    (hs : StateField.streams ∉ fs := by decide) (hn : StateField.nextSid ∉ fs := by decide)
    (hw : ∀ w ∈ u.wp.waits, w ∈ s.wp.waits) : StreamsRun fs s u where
  frame := h
  nextSid_le := Nat.le_of_eq (h .nextSid hn).symm
  waits_sub := hw
  streams := fun k y' hy => .inl ⟨y', by
    have hstreams : u.streams = s.streams := h .streams hs
    rwa [stream, ← hstreams], rfl, List.Subset.refl _⟩

theorem StreamsRun.refl (fs : List StateField) (s : State) : StreamsRun fs s s where
  frame := Only.refl fs s
  nextSid_le := Nat.le_refl _
  waits_sub := fun _ h => h
  streams := fun _ y hy => .inl ⟨y, hy, rfl, List.Subset.refl _⟩

theorem StreamsRun.trans {fs : List StateField} {a b c : State} (h : StreamsRun fs a b) (h' : StreamsRun fs b c) :
    StreamsRun fs a c where
  frame := h.frame.trans h'.frame
  nextSid_le := Nat.le_trans h.nextSid_le h'.nextSid_le
  waits_sub := fun w hw => h.waits_sub w (h'.waits_sub w hw)
  streams := by
    intro k y'' hy''
    obtain ⟨y', hy', hreq', hdone'⟩ | ⟨hnone, hle⟩ := h'.streams k y'' hy''
    · obtain ⟨y, hy, hreq, hdone⟩ | ⟨hnone, hle⟩ := h.streams k y' hy'
      · exact .inl ⟨y, hy, hreq'.trans hreq, List.Subset.trans hdone hdone'⟩
      · exact .inr ⟨hreq'.trans hnone, hle⟩
    · exact .inr ⟨hnone, Nat.le_trans h.nextSid_le hle⟩

theorem StreamsRun.mono {fs gs : List StateField} {a b : State} (h : StreamsRun fs a b)
    (hs : ∀ f ∈ fs, f ∈ gs := by decide) : StreamsRun gs a b :=
  { h with frame := h.frame.mono hs }

/-- A step that a stream has complete stays complete while the stream is there. -/
theorem StreamsRun.done_of_done {fs : List StateField} {s u : State} {sid i : Nat} (h : StreamsRun fs s u)
    (hlt : sid < s.nextSid) (hd : ∀ y, stream s sid = some y → i ∈ y.done) :
    ∀ y, stream u sid = some y → i ∈ y.done := by
  intro y' hy'
  obtain ⟨y, hy, -, hdone⟩ | ⟨-, hle⟩ := h.streams sid y' hy'
  · exact hdone (hd y hy)
  · omega

theorem dropStream_runs (s : State) (sid : Nat) : StreamsRun [.streams, .wp] s (dropStream s sid) where
  frame := dropStream_only s sid
  nextSid_le := Nat.le_refl _
  waits_sub := fun _ hw => (List.mem_filter.mp hw).1
  streams := by
    intro k y hy
    rw [stream_dropStream] at hy
    split at hy
    · cases hy
    · exact .inl ⟨y, hy, rfl, List.Subset.refl _⟩

/-- A change to one stream that keeps whom it serves and what it has complete. -/
theorem modStream_runs (s : State) (sid : Nat) (f : Stream → Stream) (hreq : ∀ x, (f x).req = x.req)
    (hdone : ∀ x, x.done ⊆ (f x).done) : StreamsRun [.streams] s (modStream s sid f) where
  frame := modStream_only s sid f
  nextSid_le := Nat.le_refl _
  waits_sub := fun _ hw => hw
  streams := by
    intro k y' hy'
    by_cases h : k = sid
    · subst h
      rw [stream_modStream_self] at hy'
      obtain ⟨y, hy, rfl⟩ := Option.map_eq_some_iff.mp hy'
      exact .inl ⟨y, hy, hreq y, hdone y⟩
    · rw [stream_modStream_other s f h] at hy'
      exact .inl ⟨y', hy', rfl, List.Subset.refl _⟩

/-! ### Waits (R96) -/

theorem noWaitMet_of_fewer {s u : State} (h : NoWaitMet s) (hc : u.wp.count = s.wp.count)
    (hw : ∀ w ∈ u.wp.waits, w ∈ s.wp.waits) : NoWaitMet u := by
  intro w hwu
  have hmet := h w (hw w hwu)
  unfold wpMet wpVal at hmet ⊢
  rwa [hc]

theorem settle_of_noWaitMet {s : State} (h : NoWaitMet s) (n : Nat) : settle s n = s := by
  cases n with
  | zero => rfl
  | succ n =>
    have hnone : (s.wp.waits.find? fun w => wpMet s w.wp w.value) = none :=
      List.find?_eq_none.mpr fun w hw => by simp [h w hw]
    rw [settle, hnone]

theorem settled_of_noWaitMet {s : State} (h : NoWaitMet s) : settled s = s := settle_of_noWaitMet h _

/-- Every step that waits on a waypoint is of a descriptor's stream. -/
def WaitsServeNoRequest (s : State) : Prop :=
  ∀ w ∈ s.wp.waits, ∀ sid i y, w.who = .step sid i → stream s sid = some y → y.req = none

theorem WaitsServeNoRequest.of_runs {fs : List StateField} {s u : State} (h : WaitsServeNoRequest s)
    (hr : StreamsRun fs s u) : WaitsServeNoRequest u := by
  intro w hw sid i y' hwho hy'
  obtain ⟨y, hy, hreq, -⟩ | ⟨hnone, -⟩ := hr.streams sid y' hy'
  · exact hreq.trans (h w (hr.waits_sub w hw) sid i y hwho hy)
  · exact hnone

/-! ### The end of a stream (R37, R41, R105) -/

/-- A descriptor's stream that ends with success signals its waypoint. -/
def signalOut (s : State) (x : Stream) (st : Status) : State :=
  match x.signal with
  | some (w, inc) => if st.isSuccess then wpAdd s w inc else s
  | none => s

theorem signalOut_silent (s : State) {x : Stream} {st : Status} (h : x.signal = none ∨ st.isSuccess = false) :
    signalOut s x st = s := by
  unfold signalOut
  obtain h | h := h
  · rw [h]
  · rw [h]
    split <;> rfl

theorem signalOut_waits (s : State) (x : Stream) (st : Status) : (signalOut s x st).wp.waits = s.wp.waits := by
  unfold signalOut
  split
  · split <;> rfl
  · rfl

theorem wpAdd_only (s : State) (w inc : Nat) : Only [.wp] s (wpAdd s w inc) := by
  intro f hf
  cases f
  case wp => simp at hf
  all_goals rfl

theorem signalOut_only (s : State) (x : Stream) (st : Status) : Only [.wp] s (signalOut s x st) := by
  unfold signalOut
  split
  · split
    · exact wpAdd_only _ _ _
    · exact Only.refl _ _
  · exact Only.refl _ _

theorem endStream_of_descriptor (s : State) (sid : Nat) {x : Stream} (h : x.req = none) (st : Status) :
    endStream s sid x st = signalOut (completeDesc (dropStream s sid) x.part x.sq x.count x.tag 0 st) x st := by
  unfold endStream
  rw [h]
  rfl

theorem endStream_of_success (s : State) (sid : Nat) {x : Stream} {r : ReqRun} (h : x.req = some r) {st : Status}
    (hst : st.isSuccess = true) : endStream s sid x st = dropStream s sid := by
  unfold endStream
  rw [h]
  exact if_pos hst

theorem completeDesc_runs (s : State) (p sq count tag stage : Nat) (st : Status) :
    StreamsRun [.host, .parts] s (completeDesc s p sq count tag stage st) := by
  have hcalm := (completeDesc_calm s p sq count tag stage st).1
  have hwp : (completeDesc s p sq count tag stage st).wp = s.wp := hcalm .wp (by decide)
  exact .of_only hcalm (hw := fun w hw => hwp ▸ hw)

theorem signalOut_runs (s : State) (x : Stream) (st : Status) : StreamsRun [.wp] s (signalOut s x st) :=
  .of_only (signalOut_only s x st) (hw := fun _ hw => signalOut_waits s x st ▸ hw)

/-- What a stream's end may change where no request ends. -/
abbrev streamEndFields : List StateField := [.streams, .wp, .host, .parts]

theorem endStream_runs (s : State) (sid : Nat) {x : Stream} {st : Status} (h : x.req = none ∨ st.isSuccess = true) :
    StreamsRun streamEndFields s (endStream s sid x st) := by
  cases hreq : x.req with
  | none =>
    rw [endStream_of_descriptor s sid hreq]
    exact (dropStream_runs s sid).mono.trans ((completeDesc_runs ..).mono.trans (signalOut_runs ..).mono)
  | some r =>
    have hst : st.isSuccess = true := h.resolve_left (by simp [hreq])
    rw [endStream_of_success s sid hreq hst]
    exact (dropStream_runs s sid).mono

theorem endStream_stream_self (s : State) (sid : Nat) {x : Stream} {st : Status}
    (h : x.req = none ∨ st.isSuccess = true) : stream (endStream s sid x st) sid = none := by
  have hdrop : stream (dropStream s sid) sid = none := by rw [stream_dropStream, if_pos rfl]
  cases hreq : x.req with
  | none =>
    rw [endStream_of_descriptor s sid hreq]
    have hstreams : (signalOut (completeDesc (dropStream s sid) x.part x.sq x.count x.tag 0 st) x st).streams =
        (dropStream s sid).streams :=
      (signalOut_only _ x st .streams (by decide)).trans ((completeDesc_calm ..).1 .streams (by decide))
    rw [stream, hstreams]
    exact hdrop
  | some r =>
    rw [endStream_of_success s sid hreq (h.resolve_left (by simp [hreq]))]
    exact hdrop

theorem endStream_count (s : State) (sid : Nat) {x : Stream} {st : Status} (h : x.req = none ∨ st.isSuccess = true)
    (hsig : x.signal = none ∨ st.isSuccess = false) : (endStream s sid x st).wp.count = s.wp.count := by
  cases hreq : x.req with
  | none =>
    rw [endStream_of_descriptor s sid hreq, signalOut_silent _ hsig]
    have hwp : (completeDesc (dropStream s sid) x.part x.sq x.count x.tag 0 st).wp = (dropStream s sid).wp :=
      (completeDesc_calm ..).1 .wp (by decide)
    rw [hwp]
    rfl
  | some r =>
    rw [endStream_of_success s sid hreq (h.resolve_left (by simp [hreq]))]
    rfl

/-- What `tryEnd` does: nothing, or the stream ends, with the code it failed with, with OK, or because a step of no known
kind stands at its head. -/
theorem tryEnd_cases (s : State) (sid : Nat) :
    tryEnd s sid = s ∨ ∃ x st, stream s sid = some x ∧ tryEnd s sid = endStream s sid x st ∧
      (x.ended = some st ∨ x.ended = none ∧
        (st = .ok ∨ x.next ≠ x.steps.length ∧ kindOk (x.steps.getD x.next []) = false)) := by
  cases hx : stream s sid with
  | none => exact .inl (by simp only [tryEnd, hx])
  | some x =>
    by_cases hin : inArray s sid = true
    · exact .inl (by simp only [tryEnd, hx, hin, if_true])
    · cases hend : x.ended with
      | some st => exact .inr ⟨x, st, rfl, by simp only [tryEnd, hx, hend, if_neg hin], .inl hend⟩
      | none =>
        by_cases hnext : x.next = x.steps.length
        · by_cases hdone : x.done.length = x.steps.length
          · exact .inr ⟨x, .ok, rfl, by simp only [tryEnd, hx, hend, if_neg hin, if_pos hnext, if_pos hdone],
              .inr ⟨hend, .inl rfl⟩⟩
          · exact .inl (by simp only [tryEnd, hx, hend, if_neg hin, if_pos hnext, if_neg hdone])
        · by_cases hkind : kindOk (x.steps.getD x.next []) = true
          · exact .inl (by simp only [tryEnd, hx, hend, if_neg hin, if_neg hnext, if_pos hkind])
          · exact .inr ⟨x, .badDescriptor, rfl, by simp only [tryEnd, hx, hend, if_neg hin, if_neg hnext, if_neg hkind],
              .inr ⟨hend, .inr ⟨hnext, by simpa using hkind⟩⟩⟩

/-- Where no request ends at its head, a stream stays or ends without failing a request. -/
theorem tryEnd_quiet (s : State) (sid : Nat) (h : ∀ y, stream s sid = some y → NoRequestEnds y y.next) :
    tryEnd s sid = s ∨ ∃ x st, stream s sid = some x ∧ tryEnd s sid = endStream s sid x st ∧
      (x.req = none ∨ st.isSuccess = true) ∧ ∀ st', x.ended = some st' → st = st' := by
  obtain heq | ⟨x, st, hx, heq, hwhy⟩ := tryEnd_cases s sid
  · exact .inl heq
  · refine .inr ⟨x, st, hx, heq, ?_, ?_⟩
    · obtain hreq | ⟨hnone, hhead⟩ := h x hx
      · exact .inl hreq
      · obtain hended | ⟨-, rfl | ⟨hlen, hkind⟩⟩ := hwhy
        · exact absurd (hnone.symm.trans hended) (by simp)
        · exact .inr rfl
        · obtain hlen' | hkind' := hhead
          · exact absurd hlen'.symm hlen
          · exact absurd (hkind'.symm.trans hkind) (by simp)
    · intro st' hst'
      obtain hended | ⟨hnone, -⟩ := hwhy
      · exact Option.some.inj (hended.symm.trans hst')
      · exact absurd (hnone.symm.trans hst') (by simp)

theorem tryEnd_runs {s : State} {sid : Nat} (h : ∀ y, stream s sid = some y → NoRequestEnds y y.next) :
    StreamsRun streamEndFields s (tryEnd s sid) := by
  obtain heq | ⟨x, st, -, heq, hquiet, -⟩ := tryEnd_quiet s sid h
  · rw [heq]; exact .refl _ _
  · rw [heq]; exact endStream_runs s sid hquiet

theorem tryEnd_stream_self {s : State} {sid : Nat} (h : ∀ y, stream s sid = some y → NoRequestEnds y y.next)
    {y : Stream} (hy : stream (tryEnd s sid) sid = some y) : stream s sid = some y := by
  obtain heq | ⟨x, st, -, heq, hquiet, -⟩ := tryEnd_quiet s sid h
  · rwa [heq] at hy
  · rw [heq, endStream_stream_self s sid hquiet] at hy
    cases hy

/-- A stream that signals nothing, or that has failed, ends with every waypoint as it was. -/
theorem tryEnd_count {s : State} {sid : Nat} (h : ∀ y, stream s sid = some y → NoRequestEnds y y.next)
    (hsig : ∀ y, stream s sid = some y → y.signal = none ∨ ∃ st, y.ended = some st ∧ st.isSuccess = false) :
    (tryEnd s sid).wp.count = s.wp.count := by
  obtain heq | ⟨x, st, hx, heq, hquiet, hcode⟩ := tryEnd_quiet s sid h
  · rw [heq]
  · rw [heq]
    refine endStream_count s sid hquiet ?_
    obtain hnone | ⟨st', hended, hfail⟩ := hsig x hx
    · exact .inl hnone
    · exact .inr (hcode st' hended ▸ hfail)

/-! ### A step completes (R105, R109) -/

theorem mem_insertNat_self (i : Nat) (l : List Nat) : i ∈ insertNat i l := by
  induction l with
  | nil => simp [insertNat]
  | cons k l ih =>
    unfold insertNat
    split
    · simp
    · split
      · simp [*]
      · exact List.mem_cons_of_mem _ ih

theorem subset_insertNat (i : Nat) (l : List Nat) : l ⊆ insertNat i l := by
  induction l with
  | nil => simp
  | cons k l ih =>
    unfold insertNat
    split
    · simp
    · split
      · simp
      · exact List.cons_subset_cons k ih

/-- The stream with a step complete. -/
def withDone (i : Nat) (x : Stream) : Stream := { x with done := insertNat i x.done }

/-- The stream with a step complete is at its head as before. -/
theorem noRequestEnds_done {s : State} {sid : Nat} (i : Nat)
    (h : ∀ y, stream s sid = some y → NoRequestEnds y y.next) :
    ∀ y, stream (modStream s sid (withDone i)) sid = some y → NoRequestEnds y y.next := by
  intro y' hy'
  rw [stream_modStream_self] at hy'
  obtain ⟨y, hy, rfl⟩ := Option.map_eq_some_iff.mp hy'
  exact h y hy

theorem stepDone_runs {s : State} {sid : Nat} (i : Nat) (h : ∀ y, stream s sid = some y → NoRequestEnds y y.next) :
    StreamsRun streamEndFields s (stepDone s sid i) :=
  (modStream_runs s sid (withDone i) (fun _ => rfl) fun x => subset_insertNat i x.done).mono.trans
    (tryEnd_runs (noRequestEnds_done i h))

theorem stepDone_done {s : State} {sid i : Nat} (h : ∀ y, stream s sid = some y → NoRequestEnds y y.next) :
    ∀ y, stream (stepDone s sid i) sid = some y → i ∈ y.done := by
  intro y' hy'
  have hmod := tryEnd_stream_self (noRequestEnds_done i h) hy'
  rw [stream_modStream_self] at hmod
  obtain ⟨y, -, rfl⟩ := Option.map_eq_some_iff.mp hmod
  exact mem_insertNat_self i y.done

theorem stepDone_count {s : State} {sid : Nat} (i : Nat) (h : ∀ y, stream s sid = some y → NoRequestEnds y y.next)
    (hsig : ∀ y, stream s sid = some y → y.signal = none) : (stepDone s sid i).wp.count = s.wp.count := by
  refine (tryEnd_count (noRequestEnds_done i h) ?_).trans rfl
  intro y' hy'
  rw [stream_modStream_self] at hy'
  obtain ⟨y, hy, rfl⟩ := Option.map_eq_some_iff.mp hy'
  exact .inl (hsig y hy)

/-! ### A descriptor's stream fails (R105, R297) -/

/-- The stream with the code it ends with, which the first failure gives. -/
def failed (st : Status) (x : Stream) : Stream := { x with ended := some (x.ended.getD st) }

theorem failStream_of_descriptor {s : State} {sid : Nat} (h : ∀ y, stream s sid = some y → y.req = none) (st : Status) :
    failStream s sid st = tryEnd (modStream s sid (failed st)) sid := by
  have hreq : (stream (modStream s sid (failed st)) sid).bind (·.req) = none := by
    rw [stream_modStream_self]
    cases hx : stream s sid with
    | none => rfl
    | some x => exact h x hx
  have hunfold : failStream s sid st = match (stream (modStream s sid (failed st)) sid).bind (·.req) with
      | some r => tryEnd (forEach (modStream s sid (failed st)) r.hs fun s h => failHandle s h.1 st) sid
      | none => tryEnd (modStream s sid (failed st)) sid := rfl
  rw [hunfold, hreq]

theorem stream_failed {s : State} {sid : Nat} {st : Status} {y' : Stream}
    (hy' : stream (modStream s sid (failed st)) sid = some y') : ∃ y, stream s sid = some y ∧ y' = failed st y := by
  rw [stream_modStream_self] at hy'
  obtain ⟨y, hy, rfl⟩ := Option.map_eq_some_iff.mp hy'
  exact ⟨y, hy, rfl⟩

theorem noRequestEnds_failed {s : State} {sid : Nat} (h : ∀ y, stream s sid = some y → y.req = none) (st : Status) :
    ∀ y, stream (modStream s sid (failed st)) sid = some y → NoRequestEnds y y.next := by
  intro y' hy'
  obtain ⟨y, hy, rfl⟩ := stream_failed hy'
  exact .inl (h y hy)

theorem failStream_runs {s : State} {sid : Nat} (h : ∀ y, stream s sid = some y → y.req = none) (st : Status) :
    StreamsRun streamEndFields s (failStream s sid st) := by
  rw [failStream_of_descriptor h]
  exact (modStream_runs s sid (failed st) (fun _ => rfl) fun _ => List.Subset.refl _).mono.trans
    (tryEnd_runs (noRequestEnds_failed h st))

theorem failStream_ended {s : State} {sid : Nat} {x : Stream} (hx : stream s sid = some x) (hreq : x.req = none)
    (hended : x.ended = none) (st : Status) : ∀ y, stream (failStream s sid st) sid = some y → y.ended = some st := by
  have h : ∀ y, stream s sid = some y → y.req = none := fun y hy => by cases hx.symm.trans hy; exact hreq
  intro y' hy'
  rw [failStream_of_descriptor h] at hy'
  obtain ⟨y, hy, rfl⟩ := stream_failed (tryEnd_stream_self (noRequestEnds_failed h st) hy')
  cases hx.symm.trans hy
  simp [failed, hended]

theorem failStream_count {s : State} {sid : Nat} {x : Stream} (hx : stream s sid = some x) (hreq : x.req = none)
    (hended : x.ended = none) {st : Status} (hst : st.isSuccess = false) :
    (failStream s sid st).wp.count = s.wp.count := by
  have h : ∀ y, stream s sid = some y → y.req = none := fun y hy => by cases hx.symm.trans hy; exact hreq
  rw [failStream_of_descriptor h]
  refine (tryEnd_count (noRequestEnds_failed h st) ?_).trans rfl
  intro y' hy'
  obtain ⟨y, hy, rfl⟩ := stream_failed hy'
  cases hx.symm.trans hy
  exact .inr ⟨st, by simp [failed, hended], hst⟩

/-- A descriptor's stream that fails while no wait is satisfied: nothing else starts or ends, and while something of it is
in the array it stands with its code. -/
theorem settled_failStream {s : State} {sid : Nat} {x : Stream} {st : Status} (hx : stream s sid = some x)
    (hreq : x.req = none) (hended : x.ended = none) (hst : st.isSuccess = false) (hw : NoWaitMet s) :
    StreamsRun streamEndFields s (settled (failStream s sid st)) ∧
      ∀ y, stream (settled (failStream s sid st)) sid = some y → y.ended = some st := by
  have hruns : StreamsRun streamEndFields s (failStream s sid st) :=
    failStream_runs (fun y hy => by cases hx.symm.trans hy; exact hreq) st
  have hw' : NoWaitMet (failStream s sid st) :=
    noWaitMet_of_fewer hw (failStream_count hx hreq hended hst) hruns.waits_sub
  rw [settled_of_noWaitMet hw']
  exact ⟨hruns, failStream_ended hx hreq hended st⟩

/-! ### What a signal starts (R41, R96, R97) -/

/-- A stream takes the next number. -/
def addStream (s : State) (x : Stream) : State :=
  { s with nextSid := s.nextSid + 1, streams := tset none s.streams s.nextSid (some x) }

/-- What the satisfied waits may change where no request ends. -/
abbrev settleFields : List StateField := [.streams, .nextSid, .wp, .host, .parts]

theorem stream_addStream_self (s : State) (x : Stream) : stream (addStream s x) s.nextSid = some x :=
  tget_tset_self none s.streams s.nextSid (some x)

theorem addStream_runs (s : State) {x : Stream} (h : x.req = none) : StreamsRun settleFields s (addStream s x) where
  frame := by
    intro f hf
    cases f
    case streams | nextSid => simp at hf
    all_goals rfl
  nextSid_le := Nat.le_succ _
  waits_sub := fun _ hw => hw
  streams := by
    intro k y hy
    by_cases hk : k = s.nextSid
    · subst hk
      rw [stream_addStream_self] at hy
      cases hy
      exact .inr ⟨h, Nat.le_refl _⟩
    · have hsame : stream (addStream s x) k = stream s k := tget_tset_other none s.streams (some x) hk
      exact .inl ⟨y, hsame ▸ hy, rfl, List.Subset.refl _⟩

/-- The stream of an operation descriptor. -/
def descriptorStream (s : State) (p sq count tag : Nat) (d arg : List Byte) (rank : Rank) : Stream :=
  { req := none, part := p, sq := sq, count := count, tag := tag, rank := rank,
    signal := if oSignalEn d then some (oSignalWp d, oSignalInc d) else none,
    steps := chunks 64 (oLen d / 64) (s.mem.read (oAddr d) (oLen d)), next := 0, done := [], ended := none, arg := arg }

/-- A descriptor's stream starts: it fails if its steps cannot be read, and may end at once. -/
theorem startStream_cases (s : State) (p sq count tag : Nat) (d arg : List Byte) (rank : Rank) :
    let s' := addStream s (descriptorStream s p sq count tag d arg rank)
    startStream s p sq count tag d arg rank = failStream s' s.nextSid .dataError ∨
      startStream s p sq count tag d arg rank = tryEnd s' s.nextSid := by
  intro s'
  have hif : startStream s p sq count tag d arg rank =
      if poisoned s' (oAddr d) (oLen d) then failStream s' s.nextSid .dataError else tryEnd s' s.nextSid := rfl
  rw [hif]
  split
  · exact .inl rfl
  · exact .inr rfl

theorem startStream_runs (s : State) (p sq count tag : Nat) (d arg : List Byte) (rank : Rank) :
    StreamsRun settleFields s (startStream s p sq count tag d arg rank) := by
  have hnew : ∀ y, stream (addStream s (descriptorStream s p sq count tag d arg rank)) s.nextSid = some y →
      y.req = none := fun y hy => by
    cases (stream_addStream_self s _).symm.trans hy
    rfl
  refine (addStream_runs s (x := descriptorStream s p sq count tag d arg rank) rfl).trans ?_
  obtain heq | heq := startStream_cases s p sq count tag d arg rank
  · rw [heq]
    exact (failStream_runs hnew _).mono
  · rw [heq]
    exact (tryEnd_runs fun y hy => .inl (hnew y hy)).mono

/-- A wait is over. -/
def waitOver (s : State) (w : Wait) : State := { s with wp := { s.wp with waits := s.wp.waits.erase w } }

theorem waitOver_runs (s : State) (w : Wait) : StreamsRun [.wp] s (waitOver s w) := by
  refine .of_only ?_ (hw := fun _ hv => List.mem_of_mem_erase hv)
  intro f hf
  cases f
  case wp => simp at hf
  all_goals rfl

theorem releaseWait_runs {s : State} {w : Wait} (h : WaitsServeNoRequest s) (hw : w ∈ s.wp.waits) :
    StreamsRun settleFields s (releaseWait s w) := by
  refine (waitOver_runs s w).mono.trans ?_
  cases hwho : w.who with
  | desc sq count tag d arg rank =>
    have heq : releaseWait s w = startStream (waitOver s w) w.part sq count tag d arg rank := by
      unfold releaseWait
      rw [hwho]
      rfl
    rw [heq]
    exact startStream_runs ..
  | step sid i =>
    have heq : releaseWait s w = stepDone (waitOver s w) sid i := by
      unfold releaseWait
      rw [hwho]
      rfl
    rw [heq]
    have hquiet : ∀ y, stream (waitOver s w) sid = some y → NoRequestEnds y y.next := fun y hy =>
      .inl (h w hw sid i y hwho hy)
    exact (stepDone_runs i hquiet).mono

theorem settle_runs {s : State} (h : WaitsServeNoRequest s) (n : Nat) : StreamsRun settleFields s (settle s n) := by
  induction n generalizing s with
  | zero => exact .refl _ _
  | succ n ih =>
    cases hfind : s.wp.waits.find? fun w => wpMet s w.wp w.value with
    | none =>
      rw [settle, hfind]
      exact .refl _ _
    | some w =>
      have hrel := releaseWait_runs h (List.mem_of_find?_eq_some hfind)
      rw [settle, hfind]
      exact hrel.trans (ih (h.of_runs hrel))

/-- A step completes, and whatever that lets start runs, without a request ending: the step stays complete. -/
theorem settled_stepDone {s : State} {sid : Nat} (i : Nat) {x : Stream} (hx : stream s sid = some x)
    (hlt : sid < s.nextSid) (h : EndsNoRequest s x x.next) :
    StreamsRun settleFields s (settled (stepDone s sid i)) ∧
      ∀ y, stream (settled (stepDone s sid i)) sid = some y → i ∈ y.done := by
  obtain ⟨hhead, hwaits⟩ := h
  have hquiet : ∀ y, stream s sid = some y → NoRequestEnds y y.next := fun y hy => by
    cases hx.symm.trans hy
    exact hhead
  have hdone := (stepDone_runs i hquiet).mono (gs := settleFields)
  have hsettle : StreamsRun settleFields (stepDone s sid i) (settled (stepDone s sid i)) := by
    obtain ⟨hnowait, hsig⟩ | hserve := hwaits
    · have hcount := stepDone_count i hquiet fun y hy => by
        cases hx.symm.trans hy
        exact hsig
      rw [settled_of_noWaitMet (noWaitMet_of_fewer hnowait hcount hdone.waits_sub)]
      exact .refl _ _
    · exact settle_runs (WaitsServeNoRequest.of_runs hserve hdone) _
  exact ⟨hdone.trans hsettle,
    hsettle.done_of_done (Nat.lt_of_lt_of_le hlt hdone.nextSid_le) (stepDone_done hquiet)⟩

end Sys2Proof.Machine
end

section
/-! What the end of an array operation does before its verdict (R104, R108, R110, R111, R122, R173): the run's empty slots,
the result written, and the operation issued last that may enter. -/

namespace Sys2Proof.Machine

/-! ### Helm's operations -/

/-- The operations in Helm's hands are the same: issued, to re-execute, and the one a swap is for. -/
structure SameOps (s u : State) : Prop where
  issued : u.helm.issued = s.helm.issued
  rerun : u.helm.rerun = s.helm.rerun
  swap : u.helm.swap = s.helm.swap

theorem SameOps.of_helm {s u : State} (h : u.helm = s.helm) : SameOps s u := ⟨by rw [h], by rw [h], by rw [h]⟩

theorem SameOps.refl (s : State) : SameOps s s := ⟨rfl, rfl, rfl⟩

theorem SameOps.trans {a b c : State} (h : SameOps a b) (h' : SameOps b c) : SameOps a c :=
  ⟨h'.issued.trans h.issued, h'.rerun.trans h.rerun, h'.swap.trans h.swap⟩

theorem setHelm_only (s : State) (x : Helm) : Only [.helm] s { s with helm := x } := by
  intro f hf
  cases f
  case helm => simp at hf
  all_goals rfl

theorem setBearing_only (s : State) (x : Bearing) : Only [.bearing] s { s with bearing := x } := by
  intro f hf
  cases f
  case bearing => simp at hf
  all_goals rfl

theorem devWrite_sameOps (s : State) (a : Nat) (b : List Byte) : SameOps s (devWrite s a b) := by
  unfold devWrite
  dsimp only
  split
  · exact ⟨rfl, rfl, rfl⟩
  · exact ⟨rfl, rfl, rfl⟩

theorem devWrite_only (s : State) (a : Nat) (b : List Byte) : Only [.mem, .tiers, .helm] s (devWrite s a b) :=
  (devWrite_calm s a b).1

/-- A fold of writes changes memory, what writes change beside it, and none of Helm's operations. -/
theorem foldl_writes {α : Type} {f : State → α → State}
    (h : ∀ s x, Only [.mem, .tiers, .helm] s (f s x) ∧ SameOps s (f s x)) (l : List α) (s : State) :
    Only [.mem, .tiers, .helm] s (l.foldl f s) ∧ SameOps s (l.foldl f s) := by
  induction l generalizing s with
  | nil => exact ⟨Only.refl _ _, SameOps.refl s⟩
  | cons x l ih => exact ⟨(h s x).1.trans (ih _).1, (h s x).2.trans (ih _).2⟩

/-! ### Entry of the operation issued last (R107) -/

theorem rampUp_only (s : State) : Only [.array, .cnt] s (rampUp s) := by
  unfold rampUp
  dsimp only
  split
  · exact (countEv_only s 0 7 0 none 1).andThen ((setArray_only _ _).mono (by simp))
  · exact (setArray_only _ _).mono (by simp)

theorem rampUp_suspect (s : State) : (rampUp s).array.suspect = s.array.suspect := by
  unfold rampUp
  dsimp only
  split
  · rfl
  · rfl

/-- The saturations and NaN blocks of the weight feed are counted as an operation enters. -/
def entryCounted (s : State) (o : ArrayOp) (r : OpRun) : State :=
  countEv (countEv (rampUp s) 1 0 0 (o.shares.head?.map (·.part)) r.sat) 1 1 0 (o.shares.head?.map (·.part)) r.nanBlocks

theorem entryCounted_only (s : State) (o : ArrayOp) (r : OpRun) : Only [.array, .cnt] s (entryCounted s o r) :=
  (rampUp_only s).andThen ((countEv_only _ _ _ _ _ _).andThen ((countEv_only _ _ _ _ _ _).mono (by simp)))

/-- The operation issued last enters the array. -/
def entered (s : State) (o : ArrayOp) (sets : List Nat) (r : OpRun) : State :=
  let c := entryCounted s o r
  { c with
    helm := { c.helm with issued := c.helm.issued.dropLast ++ [{ o with run := some r }] }
    array := { c.array with ws := (c.array.ws + sets.length) % 8, fill := !o.curLong, lastAt := c.now } }

theorem entered_only (s : State) (o : ArrayOp) (sets : List Nat) (r : OpRun) :
    Only [.helm, .array, .cnt] s (entered s o sets r) := by
  refine (entryCounted_only s o r).andThen ?_
  intro f hf
  cases f
  case helm | array => simp at hf
  all_goals rfl

theorem entered_issued (s : State) (o : ArrayOp) (sets : List Nat) (r : OpRun) :
    (entered s o sets r).helm.issued = s.helm.issued.dropLast ++ [{ o with run := some r }] := by
  have hhelm : (entryCounted s o r).helm = s.helm := entryCounted_only s o r .helm (by decide)
  simp only [entered, hhelm]

/-- What `enterNext` does: nothing, or the operation issued last, which had not entered, enters. -/
theorem enterNext_cases (s : State) :
    enterNext s = s ∨ ∃ o sets r, s.helm.issued.getLast? = some o ∧ o.run = none ∧ enterNext s = entered s o sets r := by
  unfold enterNext
  split
  · exact .inl rfl
  · next o hlast =>
    dsimp only
    split
    · exact .inl rfl
    · next hgo =>
      have hrun : o.run.isSome = false := by
        simp only [Bool.or_eq_true, not_or, Bool.not_eq_true] at hgo
        exact hgo.1.1
      exact .inr ⟨o, _, _, hlast, by simpa using hrun, rfl⟩

theorem enterNext_only (s : State) : Only [.helm, .array, .cnt] s (enterNext s) := by
  obtain heq | ⟨o, sets, r, -, -, heq⟩ := enterNext_cases s
  · rw [heq]; exact Only.refl _ _
  · rw [heq]; exact entered_only _ _ _ _

/-- But for what the last of them has read, the issued operations stay. -/
theorem enterNext_issued_unrun (s : State) : (enterNext s).helm.issued.map unrun = s.helm.issued.map unrun := by
  obtain heq | ⟨o, sets, r, hlast, -, heq⟩ := enterNext_cases s
  · rw [heq]
  · obtain ⟨l, hl⟩ := List.getLast?_eq_some_iff.mp hlast
    rw [heq, entered_issued, hl]
    simp

theorem enterNext_of_all_entered {s : State} (h : ∀ o ∈ s.helm.issued, o.run.isSome = true) : enterNext s = s := by
  obtain heq | ⟨o, sets, r, hlast, hrun, -⟩ := enterNext_cases s
  · exact heq
  · have hsome := h o (List.mem_of_getLast? hlast)
    simp [hrun] at hsome

theorem enterNext_suspect (s : State) : (enterNext s).array.suspect = s.array.suspect := by
  obtain heq | ⟨o, sets, r, -, -, heq⟩ := enterNext_cases s
  · rw [heq]
  · rw [heq]; exact rampUp_suspect s

/-! ### Empty slots (R111, R122) -/

theorem chargeTime_only (s : State) (o : ArrayOp) (c : Nat) (seq : Option Nat) (back : List Nat) :
    Only [.parts] s (chargeTime s o c seq back) :=
  Only.forEach _ (fun _ _ => modPart_only _ _ _) _ _

/-- The slots that carry dummy vectors at the end of a run. -/
def dummySlots (o : ArrayOp) (empty gap : Nat) : Nat :=
  empty + (if o.curLong then 0 else min gap 512 / (if o.bf16 then 4 else 1))

/-- Empty slots are counted and charged. -/
def slotsCharged (s : State) (o : ArrayOp) (empty : Nat) : State :=
  let c := countEv s 0 5 0 (o.shares.head?.map (·.part)) empty
  if empty = 0 then c else chargeTime c o (arrNs c (empty * (opCycles o / (o.m + 2)))) none (sharesIn c o)

/-- Dummy vectors are counted and step their generator. -/
def dummiesFed (s : State) (n : Nat) : State :=
  let c := countEv s 0 6 0 none n
  if n = 0 then c else { drawn c with array := { c.array with dummy := draw c % 2 ^ 32 } }

theorem idleSlots_eq (s : State) (o : ArrayOp) (empty gap : Nat) :
    idleSlots s o empty gap = dummiesFed (slotsCharged s o empty) (dummySlots o empty gap) := rfl

theorem slotsCharged_only (s : State) (o : ArrayOp) (empty : Nat) : Only [.cnt, .parts] s (slotsCharged s o empty) := by
  refine (countEv_only s 0 5 0 (o.shares.head?.map (·.part)) empty).andThen ?_
  unfold slotsCharged
  dsimp only
  split
  · exact Only.refl _ _
  · exact (chargeTime_only _ _ _ _ _).mono (by simp)

theorem dummiesFed_only (s : State) (n : Nat) : Only [.cnt, .free, .array] s (dummiesFed s n) := by
  refine (countEv_only s 0 6 0 none n).andThen ?_
  unfold dummiesFed
  dsimp only
  split
  · exact Only.refl _ _
  · exact (drawn_only _).andThen ((setArray_only _ _).mono (by simp))

theorem dummiesFed_free (s : State) (n : Nat) : (dummiesFed s n).free = if n = 0 then s.free else s.free + 1 := by
  unfold dummiesFed
  dsimp only
  split
  · rfl
  · rfl

theorem dummiesFed_colSpare (s : State) (n : Nat) : (dummiesFed s n).array.colSpare = s.array.colSpare := by
  unfold dummiesFed
  dsimp only
  split
  · rfl
  · rfl

theorem idleSlots_only (s : State) (o : ArrayOp) (empty gap : Nat) :
    Only [.cnt, .parts, .free, .array] s (idleSlots s o empty gap) := by
  rw [idleSlots_eq]
  exact (slotsCharged_only s o empty).andThen ((dummiesFed_only _ _).mono (by simp))

/-- How many free values the dummies take does not depend on the rest of the state. -/
theorem idleSlots_free_congr {s u : State} (h : u.free = s.free) (o : ArrayOp) (empty gap : Nat) :
    (idleSlots u o empty gap).free = (idleSlots s o empty gap).free := by
  have hfree : ∀ v, (slotsCharged v o empty).free = v.free := fun v => slotsCharged_only v o empty .free (by decide)
  rw [idleSlots_eq, idleSlots_eq, dummiesFed_free, dummiesFed_free, hfree, hfree, h]

theorem idleSlots_colSpare (s : State) (o : ArrayOp) (empty gap : Nat) :
    (idleSlots s o empty gap).array.colSpare = s.array.colSpare := by
  have harray : (slotsCharged s o empty).array = s.array := slotsCharged_only s o empty .array (by decide)
  rw [idleSlots_eq, dummiesFed_colSpare, harray]

/-! ### What the output rows are read from (R140, R141) -/

theorem ctxOf_congr {s u : State} (h : u.obj = s.obj) (id : Nat) : ctxOf u id = ctxOf s id := by
  rw [ctxOf, ctxOf, h]

theorem resident_congr {s u : State} (h : u.obj = s.obj) (kind id : Nat) : resident u kind id = resident s kind id := by
  rw [resident, resident, h]

theorem arcFn_congr {s u : State} (h : u.obj = s.obj) (ctx f : Nat) : arcFn u ctx f = arcFn s ctx f := by
  simp only [arcFn, ctxTable, ctxProgram, ctxOf_congr h, resident_congr h]

theorem lutOf_congr {s u : State} (h : u.obj = s.obj) (ctx : Nat) : lutOf u ctx = lutOf s ctx := by
  funext f x
  simp only [lutOf, arcFn_congr h]

theorem finishRow_congr {s u : State} (h : u.obj = s.obj) (ctx : Nat) (f : ArcFn) (t : Elt) (scale : Nat) (us : List Nat) :
    finishRow u ctx f t scale us = finishRow s ctx f t scale us := by
  simp only [finishRow, applyFn, lutOf_congr h]

theorem epilogue_congr {s u : State} (h : u.obj = s.obj) (b : List Byte) (t : Elt) (us : List Nat) :
    epilogue u b t us = epilogue s b t us := by
  simp only [epilogue, arcFn_congr h, finishRow_congr h]

theorem arrayOut_congr {s u : State} (h : u.obj = s.obj) (b : List Byte) (r : OpRun) (ys : List (List Nat)) :
    arrayOut u b r ys = arrayOut s b r ys := by
  simp only [arrayOut, epilogue_congr h]

theorem batchHeader_congr {s u : State} (ho : u.obj = s.obj) (hb : u.bearing = s.bearing) (n : Nat) :
    batchHeader u n = batchHeader s n := by
  simp only [batchHeader, batchQueries, qHeader, qSection, heldObj, ho, hb]

/-! ### Output rows in memory (R104, R137) -/

/-- One output row and its block scales, which go to `base` on. -/
def rowWritten (base addr stride : Nat) (s : State) (r : OutRow × Nat) : State :=
  let c := devWrite s (addr + r.2 * stride) r.1.bytes
  if r.1.scales.isEmpty then c else devWrite c (base + r.2 * alignUp r.1.scales.length 64) r.1.scales

/-- The bytes of one output row and of its block scales. -/
def rowBytes (base addr stride : Nat) (m : Mem) (r : OutRow × Nat) : Mem :=
  let m := m.write (addr + r.2 * stride) r.1.bytes
  if r.1.scales.isEmpty then m else m.write (base + r.2 * alignUp r.1.scales.length 64) r.1.scales

theorem rowWritten_mem (base addr stride : Nat) (s : State) (r : OutRow × Nat) :
    (rowWritten base addr stride s r).mem = rowBytes base addr stride s.mem r := by
  unfold rowWritten rowBytes
  dsimp only
  split
  · exact devWrite_mem ..
  · rw [devWrite_mem, devWrite_mem]

theorem rowWritten_writes (base addr stride : Nat) (s : State) (r : OutRow × Nat) :
    Only [.mem, .tiers, .helm] s (rowWritten base addr stride s r) ∧ SameOps s (rowWritten base addr stride s r) := by
  unfold rowWritten
  dsimp only
  split
  · exact ⟨devWrite_only _ _ _, devWrite_sameOps ..⟩
  · exact ⟨(devWrite_only _ _ _).trans (devWrite_only _ _ _), (devWrite_sameOps ..).trans (devWrite_sameOps ..)⟩

/-- The place of the block scales is drawn when there are some. -/
def scalesDrawn (s : State) (t : Elt) : State := if t.isMx then drawn s else s

theorem scalesDrawn_only (s : State) (t : Elt) : Only [.free] s (scalesDrawn s t) := by
  unfold scalesDrawn
  split
  · exact drawn_only s
  · exact Only.refl _ _

theorem writeRows_eq (s : State) (t : Elt) (addr stride : Nat) (rows : List OutRow) :
    writeRows s t addr stride rows =
      rows.zipIdx.foldl (rowWritten (draw s % (tileBytes / 64) * 64) addr stride) (scalesDrawn s t) := rfl

theorem rowsMem_eq (s : State) (addr stride : Nat) (rows : List OutRow) :
    rowsMem s addr stride rows = rows.zipIdx.foldl (rowBytes (draw s % (tileBytes / 64) * 64) addr stride) s.mem := rfl

theorem writeRows_mem (s : State) (t : Elt) (addr stride : Nat) (rows : List OutRow) :
    (writeRows s t addr stride rows).mem = rowsMem s addr stride rows := by
  have hmem : (scalesDrawn s t).mem = s.mem := scalesDrawn_only s t .mem (by decide)
  rw [writeRows_eq, rowsMem_eq, ← hmem]
  exact (List.foldl_hom State.mem fun c r => (rowWritten_mem _ _ _ c r).symm).symm

theorem writeRows_only (s : State) (t : Elt) (addr stride : Nat) (rows : List OutRow) :
    Only [.free, .mem, .tiers, .helm] s (writeRows s t addr stride rows) := by
  rw [writeRows_eq]
  exact (scalesDrawn_only s t).andThen ((foldl_writes (rowWritten_writes _ _ _) _ _).1.mono (by simp))

theorem writeRows_sameOps (s : State) (t : Elt) (addr stride : Nat) (rows : List OutRow) :
    SameOps s (writeRows s t addr stride rows) := by
  rw [writeRows_eq]
  exact (SameOps.of_helm (scalesDrawn_only s t .helm (by decide))).trans (foldl_writes (rowWritten_writes _ _ _) _ _).2

/-- Where the rows go depends on memory and on the place drawn for the scales. -/
theorem rowsMem_congr {s u : State} (hf : u.free = s.free) (hm : u.mem = s.mem) (addr stride : Nat) (rows : List OutRow) :
    rowsMem u addr stride rows = rowsMem s addr stride rows := by
  have hdraw : draw u = draw s := congrArg Config.freeValue hf
  rw [rowsMem_eq, rowsMem_eq, hdraw, hm]

theorem byte_write_outside (m : Mem) {a x : Nat} {bs : List Byte} (h : x < a ∨ a + bs.length ≤ x) :
    (m.write a bs).byte x = m.byte x := by
  rw [Mem.byte_write, if_neg (by omega)]

theorem byte_rowBytes_outside {base addr stride a : Nat} (m : Mem) {r : OutRow × Nat}
    (hrow : a < addr + r.2 * stride ∨ addr + r.2 * stride + r.1.bytes.length ≤ a)
    (hscale : a < base + r.2 * alignUp r.1.scales.length 64 ∨
      base + r.2 * alignUp r.1.scales.length 64 + r.1.scales.length ≤ a) :
    (rowBytes base addr stride m r).byte a = m.byte a := by
  unfold rowBytes
  dsimp only
  split
  · exact byte_write_outside m hrow
  · exact (byte_write_outside _ hscale).trans (byte_write_outside m hrow)

theorem rowsMem_byte_outside {s : State} {addr stride a : Nat} {rows : List OutRow}
    (h : OutsideRows s addr stride rows a) : (rowsMem s addr stride rows).byte a = s.mem.byte a := by
  rw [rowsMem_eq]
  unfold OutsideRows at h
  generalize s.mem = m
  generalize rows.zipIdx = l at h ⊢
  induction l generalizing m with
  | nil => rfl
  | cons r l ih =>
    obtain ⟨hrow, hscale⟩ := h r List.mem_cons_self
    exact (ih _ fun x hx => h x (List.mem_cons_of_mem _ hx)).trans (byte_rowBytes_outside m hrow hscale)

/-! ### The result of an operation (R104, R173, R187) -/

theorem countRows_only (s : State) (p : Nat) (rows : List OutRow) : Only [.cnt] s (countRows s p rows) :=
  (countEv_only _ _ _ _ _ _).trans (countEv_only _ _ _ _ _ _)

/-- The partition that an operation's counts are charged to. -/
def firstPart (o : ArrayOp) : Nat := (o.shares.head?.map (·.part)).getD 0

theorem writeResult_step {o : ArrayOp} {sid i : Nat} (h : o.src = .step sid i) (s : State) (r : OpRun)
    (ys : List (List Nat)) : writeResult s o r ys =
      countRows (writeRows s ((gOut o.step).getD .fp32) (gY o.step) (gYStride o.step) (arrayOut s o.step r ys))
        (firstPart o) (arrayOut s o.step r ys) := by
  rw [writeResult, h]
  rfl

/-- The columns of a table build after YIN and bias. -/
def columnRows (r : OpRun) (ys : List (List Nat)) : List (List Nat) := ys.zipIdx.map fun y => arrayRow r y.2 y.1

/-- The columns of a table build go to the set's output buffer. -/
def buildWritten (s : State) (h : IndexHeader) (j n : Nat) (zs : List (List Nat)) : State :=
  zs.zipIdx.foldl (fun s y => devWrite s (buildOut h j n y.2) (f32Bytes y.1)) s

/-- A query of a batch takes its column of piece j. -/
def takeColumn (n j : Nat) (zs : List (List Nat)) (q : Query) : Query :=
  if q.st = .building ∧ q.batch = n then { q with built := tset [] q.built j (zs.map fun y => y.getD q.col 0) } else q

/-- The queries of a batch take their columns. -/
def columnsTaken (s : State) (n j : Nat) (zs : List (List Nat)) : State :=
  { s with bearing := { s.bearing with queries := s.bearing.queries.map (takeColumn n j zs) } }

theorem writeResult_build {s : State} {o : ArrayOp} {ix p n j : Nat} {q : Query} {h : IndexHeader}
    (hsrc : o.src = .build ix p n j) (hh : batchHeader s n = some (q, h)) (r : OpRun) (ys : List (List Nat)) :
    writeResult s o r ys = columnsTaken (buildWritten s h j o.n (columnRows r ys)) n j (columnRows r ys) := by
  simp only [writeResult, hsrc, hh]
  rfl

theorem writeResult_build_none {s : State} {o : ArrayOp} {ix p n j : Nat} (hsrc : o.src = .build ix p n j)
    (hh : batchHeader s n = none) (r : OpRun) (ys : List (List Nat)) : writeResult s o r ys = s := by
  simp only [writeResult, hsrc, hh]

theorem buildWritten_writes (s : State) (h : IndexHeader) (j n : Nat) (zs : List (List Nat)) :
    Only [.mem, .tiers, .helm] s (buildWritten s h j n zs) ∧ SameOps s (buildWritten s h j n zs) :=
  foldl_writes (fun _ _ => ⟨devWrite_only _ _ _, devWrite_sameOps ..⟩) _ _

theorem buildWritten_mem (s : State) (h : IndexHeader) (j n : Nat) (zs : List (List Nat)) :
    (buildWritten s h j n zs).mem =
      zs.zipIdx.foldl (fun m y => m.write (buildOut h j n y.2) (f32Bytes y.1)) s.mem :=
  (List.foldl_hom State.mem fun _ _ => (devWrite_mem ..).symm).symm

theorem writeResult_only_step {o : ArrayOp} (h : ofStep o = true) (s : State) (r : OpRun) (ys : List (List Nat)) :
    Only [.free, .mem, .tiers, .helm, .cnt] s (writeResult s o r ys) := by
  cases hsrc : o.src with
  | step sid i =>
    rw [writeResult_step hsrc]
    exact (writeRows_only _ _ _ _ _).andThen ((countRows_only _ _ _).mono (by simp))
  | build ix p n j => simp [ofStep, hsrc] at h

/-- What a written result may change. -/
theorem writeResult_only (s : State) (o : ArrayOp) (r : OpRun) (ys : List (List Nat)) :
    Only [.bearing, .free, .mem, .tiers, .helm, .cnt] s (writeResult s o r ys) := by
  cases hsrc : o.src with
  | step sid i => exact (writeResult_only_step (by simp [ofStep, hsrc]) s r ys).mono (by simp)
  | build ix p n j =>
    cases hh : batchHeader s n with
    | none => rw [writeResult_build_none hsrc hh]; exact Only.refl _ _
    | some qh =>
      rw [writeResult_build hsrc hh]
      exact (buildWritten_writes ..).1.andThen ((setBearing_only _ _).mono (by simp))

theorem writeResult_sameOps (s : State) (o : ArrayOp) (r : OpRun) (ys : List (List Nat)) :
    SameOps s (writeResult s o r ys) := by
  cases hsrc : o.src with
  | step sid i =>
    rw [writeResult_step hsrc]
    exact (writeRows_sameOps ..).trans (.of_helm (countRows_only _ _ _ .helm (by decide)))
  | build ix p n j =>
    cases hh : batchHeader s n with
    | none => rw [writeResult_build_none hsrc hh]; exact SameOps.refl s
    | some qh =>
      rw [writeResult_build hsrc hh]
      exact (buildWritten_writes ..).2.trans (.of_helm rfl)

/-- The result is written unless the operation's input was poisoned (R297). -/
def resultKept (s : State) (o : ArrayOp) (r : OpRun) (ys : List (List Nat)) : State :=
  if r.bad then s else writeResult s o r ys

theorem resultKept_only (s : State) (o : ArrayOp) (r : OpRun) (ys : List (List Nat)) :
    Only [.bearing, .free, .mem, .tiers, .helm, .cnt] s (resultKept s o r ys) := by
  unfold resultKept
  split
  · exact Only.refl _ _
  · exact writeResult_only _ _ _ _

theorem resultKept_only_step {o : ArrayOp} (h : ofStep o = true) (s : State) (r : OpRun) (ys : List (List Nat)) :
    Only [.free, .mem, .tiers, .helm, .cnt] s (resultKept s o r ys) := by
  unfold resultKept
  split
  · exact Only.refl _ _
  · exact writeResult_only_step h _ _ _

theorem resultKept_sameOps (s : State) (o : ArrayOp) (r : OpRun) (ys : List (List Nat)) :
    SameOps s (resultKept s o r ys) := by
  unfold resultKept
  split
  · exact SameOps.refl s
  · exact writeResult_sameOps ..

/-- From a state c that reads memory, the queries and the objects as s does and draws as s2 does, the result is written as
it should be. -/
theorem resultWritten_resultKept {s s2 c : State} (hm : c.mem = s.mem) (hm2 : s2.mem = s.mem) (hf : c.free = s2.free)
    (hb : c.bearing = s.bearing) (ho : c.obj = s.obj) (o : ArrayOp) (r : OpRun) (ys : List (List Nat)) :
    ResultWritten s s2 (resultKept c o r ys) o r ys := by
  refine ⟨?_, ?_, ?_⟩
  · intro hbad
    rw [resultKept, if_pos hbad]
    exact ⟨hm, by rw [hb]⟩
  · intro hbad hstep
    rw [resultKept, if_neg (by simp [hbad])]
    have hmem : (writeResult c o r ys).mem = rowsMem s2 (gY o.step) (gYStride o.step) (arrayOut s o.step r ys) := by
      cases hsrc : o.src with
      | build ix p n j => simp [ofStep, hsrc] at hstep
      | step sid i =>
        have hcount := countRows_only (writeRows c ((gOut o.step).getD .fp32) (gY o.step) (gYStride o.step)
          (arrayOut c o.step r ys)) (firstPart o) (arrayOut c o.step r ys) .mem (by decide)
        rw [writeResult_step hsrc, ← rowsMem_congr hf (hm.trans hm2.symm), ← arrayOut_congr ho]
        exact hcount.trans (writeRows_mem ..)
    refine ⟨hmem, (writeResult_only_step hstep c r ys .bearing (by decide)).trans hb, ?_⟩
    intro a ha
    rw [hmem, rowsMem_byte_outside ha, hm2]
  · intro ix p n j q h hbad hsrc hh zs
    have hkept : resultKept c o r ys = columnsTaken (buildWritten c h j o.n zs) n j zs := by
      rw [resultKept, if_neg (by simp [hbad])]
      exact writeResult_build hsrc ((batchHeader_congr ho hb n).trans hh) r ys
    have hqueries : (buildWritten c h j o.n zs).bearing = s.bearing :=
      ((buildWritten_writes ..).1 .bearing (by decide)).trans hb
    rw [hkept]
    refine ⟨?_, ?_⟩
    · rw [← hm]
      exact buildWritten_mem c h j o.n zs
    · rw [columnsTaken, hqueries]
      rfl

/-- What holds of the written result holds where memory and the queries stay. -/
theorem resultWritten_congr {s s2 w u : State} {o : ArrayOp} {r : OpRun} {ys : List (List Nat)}
    (h : ResultWritten s s2 w o r ys) (hm : u.mem = w.mem) (hb : u.bearing = w.bearing) :
    ResultWritten s s2 u o r ys := by
  unfold ResultWritten at h ⊢
  rwa [hm, hb]

end Sys2Proof.Machine
end

section
/-! OPERATION_COMPLETE (R108, R116-R119, R297): an operation that passed, one that is re-executed, and one that mismatched a
second time. -/

namespace Sys2Proof.Machine

/-! ### Partial sums of a split projection (R265) -/

theorem deliver_only (s : State) (dev pt : Nat) (m : Msg) : Only [.links] s (deliver s dev pt m) := by
  unfold deliver
  split
  · intro f hf
    cases f
    case links => simp at hf
    all_goals rfl
  · exact (sendMsg_calm ..).1

theorem sendPartials_only (s : State) (sid i : Nat) (b : List Byte) : Only [.links] s (sendPartials s sid i b) := by
  unfold sendPartials
  split
  · exact Only.refl _ _
  · split
    · exact Only.refl _ _
    · split
      · exact Only.refl _ _
      · refine Only.forEach _ (fun s m => ?_) _ _
        split
        · exact Only.refl _ _
        · exact Only.forEach _ (fun _ _ => deliver_only _ _ _ _) _ _

/-- A step that computes no partial sums sends nothing. -/
theorem sendPartials_none {s : State} {sid i : Nat} {x : Stream} (hx : stream s sid = some x)
    (h : ∀ q, x.req = some q → q.partials.lookup i = none) (b : List Byte) : sendPartials s sid i b = s := by
  cases hreq : x.req with
  | none => simp only [sendPartials, hx, Option.bind_some, hreq]
  | some q => simp only [sendPartials, hx, Option.bind_some, hreq, h q hreq]

/-! ### Block-lines charged with a mismatch (R117-R119, R383) -/

/-- What a block-line's error may change: a line declared permanent-faulty stops issue, and the device enters FAULTED where
its spare is taken. -/
abbrev lineFaultFields : List StateField :=
  [.cnt, .faults, .helm, .boot, .flash, .pins, .host, .parts, .links, .lb]

/-- A block-line declared permanent-faulty is known already, puts the device in FAULTED, or joins the declared list and
stops issue. -/
theorem declareBad_line_cases (s : State) (l : Nat) :
    declareBad s clsLine l = s ∨ declareBad s clsLine l = enterFaulted s clsLine l ∨
      declareBad s clsLine l = { s with
        faults := { s.faults with queue := s.faults.queue ++ [(clsLine, l)] }
        helm := { s.helm with stopped := true } } := by
  unfold declareBad
  dsimp only
  split
  · exact .inl rfl
  · split
    · exact .inr (.inl rfl)
    · exact .inr (.inr rfl)

theorem declareBad_line_only (s : State) (l : Nat) : Only lineFaultFields s (declareBad s clsLine l) := by
  obtain heq | heq | heq := declareBad_line_cases s l
  · rw [heq]; exact Only.refl _ _
  · rw [heq]; exact (enterFaulted_calm s clsLine l).1.mono (by decide)
  · rw [heq]
    intro f hf
    cases f
    case faults | helm => simp at hf
    all_goals rfl

theorem declareBad_line_sameOps (s : State) (l : Nat) : SameOps s (declareBad s clsLine l) := by
  obtain heq | heq | heq := declareBad_line_cases s l
  · rw [heq]; exact SameOps.refl s
  · rw [heq]; exact .of_helm ((enterFaulted_calm s clsLine l).1 .helm (by decide))
  · rw [heq]; exact ⟨rfl, rfl, rfl⟩

/-- A transient error of a line is counted before it may be declared permanent-faulty. -/
def lineErrorCounted (s : State) (l : Nat) : State :=
  { s with faults := { s.faults with transient := tmod 0 s.faults.transient (errKey clsLine l) (· + 1) } }

theorem lineErrorCounted_only (s : State) (l : Nat) : Only [.faults] s (lineErrorCounted s l) := by
  intro f hf
  cases f
  case faults => simp at hf
  all_goals rfl

theorem chargeTransient_line_cases (s : State) (l : Nat) :
    chargeTransient s clsLine l = lineErrorCounted s l ∨
      chargeTransient s clsLine l = declareBad (lineErrorCounted s l) clsLine l := by
  unfold chargeTransient
  dsimp only
  split
  · exact .inr rfl
  · exact .inl rfl

theorem chargeTransient_line_only (s : State) (l : Nat) : Only lineFaultFields s (chargeTransient s clsLine l) := by
  refine (lineErrorCounted_only s l).andThen ?_
  obtain heq | heq := chargeTransient_line_cases s l
  · rw [heq]; exact Only.refl _ _
  · rw [heq]; exact declareBad_line_only _ l

theorem chargeTransient_line_sameOps (s : State) (l : Nat) : SameOps s (chargeTransient s clsLine l) := by
  obtain heq | heq := chargeTransient_line_cases s l
  · rw [heq]; exact .of_helm rfl
  · rw [heq]
    exact (SameOps.of_helm (s := s) (u := lineErrorCounted s l) rfl).trans (declareBad_line_sameOps _ l)

/-- A first mismatch is counted for a block-line and charged to it. -/
def lineCharged (s : State) (o : ArrayOp) (l : Nat) : State :=
  chargeTransient (countEv s 0 1 l (o.shares.head?.map (·.part)) 1) clsLine l

theorem lineCharged_only (s : State) (o : ArrayOp) (l : Nat) : Only lineFaultFields s (lineCharged s o l) := by
  unfold lineCharged
  generalize o.shares.head?.map (·.part) = p
  exact (countEv_only s 0 1 l p 1).andThen (chargeTransient_line_only _ l)

theorem lineCharged_sameOps (s : State) (o : ArrayOp) (l : Nat) : SameOps s (lineCharged s o l) := by
  unfold lineCharged
  generalize o.shares.head?.map (·.part) = p
  exact (SameOps.of_helm (s := s) (u := countEv s 0 1 l p 1) rfl).trans (chargeTransient_line_sameOps _ l)

/-- A first mismatch is charged to its block-lines. -/
def linesCharged (s : State) (o : ArrayOp) (lines : List Nat) : State := forEach s lines fun s l => lineCharged s o l

theorem linesCharged_only (s : State) (o : ArrayOp) (lines : List Nat) :
    Only lineFaultFields s (linesCharged s o lines) :=
  Only.forEach _ (fun s l => lineCharged_only s o l) s lines

theorem linesCharged_sameOps (s : State) (o : ArrayOp) (lines : List Nat) : SameOps s (linesCharged s o lines) :=
  forEach_keeps (P := fun u => SameOps s u) _ (fun u l h => h.trans (lineCharged_sameOps u o l)) s lines (SameOps.refl s)

/-- A block-line that a second mismatch is charged to is suspect. -/
def lineSuspected (s : State) (o : ArrayOp) (l : Nat) : State :=
  { countEv s 0 2 l (o.shares.head?.map (·.part)) 1 with
    array := { s.array with suspect := insertNat l s.array.suspect } }

theorem lineSuspected_only (s : State) (o : ArrayOp) (l : Nat) : Only [.cnt, .array] s (lineSuspected s o l) := by
  intro f hf
  cases f
  case cnt | array => simp at hf
  all_goals rfl

/-- It is permanent-faulty, too. -/
def lineGivenUp (s : State) (o : ArrayOp) (l : Nat) : State := declareBad (lineSuspected s o l) clsLine l

theorem lineGivenUp_only (s : State) (o : ArrayOp) (l : Nat) :
    Only (.array :: lineFaultFields) s (lineGivenUp s o l) :=
  (lineSuspected_only s o l).andThen ((declareBad_line_only _ l).mono (by decide))

theorem lineGivenUp_sameOps (s : State) (o : ArrayOp) (l : Nat) : SameOps s (lineGivenUp s o l) :=
  (SameOps.of_helm (s := s) (u := lineSuspected s o l) rfl).trans (declareBad_line_sameOps _ l)

theorem lineGivenUp_suspect (s : State) (o : ArrayOp) (l : Nat) :
    (lineGivenUp s o l).array.suspect = insertNat l s.array.suspect :=
  congrArg Meridian.suspect (declareBad_line_only (lineSuspected s o l) l .array (by decide))

/-- A second mismatch gives up its block-lines. -/
def linesGivenUp (s : State) (o : ArrayOp) (lines : List Nat) : State := forEach s lines fun s l => lineGivenUp s o l

theorem linesGivenUp_only (s : State) (o : ArrayOp) (lines : List Nat) :
    Only (.array :: lineFaultFields) s (linesGivenUp s o lines) :=
  Only.forEach _ (fun s l => lineGivenUp_only s o l) s lines

theorem linesGivenUp_sameOps (s : State) (o : ArrayOp) (lines : List Nat) : SameOps s (linesGivenUp s o lines) :=
  forEach_keeps (P := fun u => SameOps s u) _ (fun u l h => h.trans (lineGivenUp_sameOps u o l)) s lines (SameOps.refl s)

theorem suspect_subset_linesGivenUp (s : State) (o : ArrayOp) (lines : List Nat) :
    s.array.suspect ⊆ (linesGivenUp s o lines).array.suspect :=
  forEach_keeps (P := fun u => s.array.suspect ⊆ u.array.suspect) _ (fun u l h => by
    rw [lineGivenUp_suspect]
    exact List.Subset.trans h (subset_insertNat l _)) s lines (List.Subset.refl _)

theorem mem_suspect_linesGivenUp (s : State) (o : ArrayOp) (lines : List Nat) :
    ∀ l ∈ lines, l ∈ (linesGivenUp s o lines).array.suspect := by
  induction lines generalizing s with
  | nil => simp
  | cons k lines ih =>
    have hstep : linesGivenUp s o (k :: lines) = linesGivenUp (lineGivenUp s o k) o lines := rfl
    intro l hl
    rw [hstep]
    obtain rfl | hl := List.mem_cons.mp hl
    · refine suspect_subset_linesGivenUp _ o lines ?_
      rw [lineGivenUp_suspect]
      exact mem_insertNat_self l _
    · exact ih _ l hl

/-! ### The state in which the verdict takes effect (R108) -/

/-- The oldest operation leaves the array. -/
def leftArray (s : State) (t : Nat) (rest : List ArrayOp) : State :=
  { tick s t with
    helm := { s.helm with issued := rest }
    array := { s.array with lastAt := max s.array.lastAt ((tick s t).now - completeNs (tick s t)) } }

theorem leftArray_only (s : State) (t : Nat) (rest : List ArrayOp) : Only [.now, .helm, .array] s (leftArray s t rest) := by
  intro f hf
  cases f
  case now | helm | array => simp at hf
  all_goals rfl

/-- Checks skipped and parity errors are counted. -/
def checksCounted (s : State) (ck : Checks) (skipped : Nat) : State :=
  forEach (countEv s 0 3 0 none skipped) ck.parity fun s l => countEv s 0 4 l none 1

theorem checksCounted_only (s : State) (ck : Checks) (skipped : Nat) : Only [.cnt] s (checksCounted s ck skipped) :=
  (countEv_only _ _ _ _ _ _).trans (Only.forEach _ (fun _ _ => countEv_only _ _ _ _ _ _) _ _)

/-- The operation has left, its slots and checks are counted; its result is not written yet. -/
def slotsDone (s : State) (t empty gap : Nat) (ck : Checks) (o : ArrayOp) (r : OpRun) (rest : List ArrayOp) : State :=
  checksCounted (idleSlots (leftArray s t rest) o empty gap) ck (verdict o r ck (drainRows r ck)).skipped

/-- The operation has left and its result, right or wrong, is written. -/
def resulted (s : State) (t empty gap : Nat) (ck : Checks) (o : ArrayOp) (r : OpRun) (rest : List ArrayOp) : State :=
  resultKept (slotsDone s t empty gap ck o r rest) o r (drainRows r ck)

/-- What an operation's verdict does. -/
def judged (s : State) (ck : Checks) (o : ArrayOp) (r : OpRun) : State :=
  if mismatch ck (verdict o r ck (drainRows r ck)) then mismatchOp s o ck (verdict o r ck (drainRows r ck))
  else passOp s o r

section Completion

variable {s : State} {t empty gap : Nat} {ck : Checks} {o : ArrayOp} {r : OpRun} {rest : List ArrayOp}

theorem slotsDone_only_left : Only [.cnt, .parts, .free, .array] (leftArray s t rest) (slotsDone s t empty gap ck o r rest) :=
  (idleSlots_only _ _ _ _).trans ((checksCounted_only _ _ _).mono (by simp))

theorem slotsDone_only : Only [.now, .helm, .array, .cnt, .parts, .free] s (slotsDone s t empty gap ck o r rest) :=
  (leftArray_only s t rest).andThen (slotsDone_only_left.mono (by simp))

theorem slotsDone_helm : (slotsDone s t empty gap ck o r rest).helm = { s.helm with issued := rest } :=
  slotsDone_only_left .helm (by decide)

theorem slotsDone_free : (slotsDone s t empty gap ck o r rest).free = (idleSlots s o empty gap).free :=
  (checksCounted_only _ _ _ .free (by decide)).trans (idleSlots_free_congr (s := s) (u := leftArray s t rest) rfl o empty gap)

theorem slotsDone_colSpare : (slotsDone s t empty gap ck o r rest).array.colSpare = s.array.colSpare :=
  (congrArg Meridian.colSpare (checksCounted_only _ _ _ .array (by decide))).trans
    (idleSlots_colSpare (leftArray s t rest) o empty gap)

/-- What may have changed as the verdict takes effect. -/
abbrev resultFields : List StateField := [.now, .mem, .tiers, .helm, .array, .free, .cnt, .parts]

/-- The state w in which the verdict on s's oldest operation takes effect: the operation has left, those after it stand as
they did, and its result is written. -/
structure ResultStands (s s2 w : State) (ck : Checks) (o : ArrayOp) (r : OpRun) (rest : List ArrayOp) : Prop where
  frame : Only (.bearing :: resultFields) s w
  frame_step : ofStep o = true → Only resultFields s w
  issued : w.helm.issued = rest
  rerun : w.helm.rerun = s.helm.rerun
  swap : w.helm.swap = s.helm.swap
  colSpare : w.array.colSpare = s.array.colSpare
  written : ResultWritten s s2 w o r (drainRows r ck)

theorem resulted_stands :
    ResultStands s (idleSlots s o empty gap) (resulted s t empty gap ck o r rest) ck o r rest where
  frame := slotsDone_only.andThen ((resultKept_only _ _ _ _).mono (by decide))
  frame_step := fun h => slotsDone_only.andThen ((resultKept_only_step h _ _ _).mono (by decide))
  issued := (resultKept_sameOps ..).issued.trans (by rw [slotsDone_helm])
  rerun := (resultKept_sameOps ..).rerun.trans (by rw [slotsDone_helm])
  swap := (resultKept_sameOps ..).swap.trans (by rw [slotsDone_helm])
  colSpare := (congrArg Meridian.colSpare (resultKept_only _ _ _ _ .array (by decide))).trans slotsDone_colSpare
  written := resultWritten_resultKept (slotsDone_only .mem (by decide)) (idleSlots_only _ _ _ _ .mem (by decide))
    slotsDone_free (slotsDone_only .bearing (by decide)) (slotsDone_only .obj (by decide)) o r _

/-- OPERATION_COMPLETE of an operation that has entered: its result is written, then its verdict takes effect, then the
operation issued last may enter. -/
theorem exec_operationComplete (t empty gap : Nat) (ck : Checks) (hready : isReady s = true)
    (hiss : s.helm.issued = o :: rest) (hrun : o.run = some r) :
    ∃ w, ResultStands s (idleSlots s o empty gap) w ck o r rest ∧
      exec (.operationComplete t ck empty gap) s = .next (enterNext (judged w ck o r)) := by
  have hready' : isReady (tick s t) = true := hready
  refine ⟨resulted s t empty gap ck o r rest, resulted_stands, ?_⟩
  simp only [exec, execOperationComplete, tick_helm, hiss, hrun, hready', Bool.not_true, Bool.false_eq_true, if_false]
  rfl

section Result

variable {s2 w : State}

theorem ResultStands.stream_eq (hw : ResultStands s s2 w ck o r rest) (sid : Nat) : stream w sid = stream s sid :=
  congrArg (fun x => tget none x sid) (hw.frame .streams (by decide))

theorem ResultStands.chargedLines_eq (hw : ResultStands s s2 w ck o r rest) (v : OpVerdict) :
    chargedLines w ck v = chargedLines s ck v := by
  simp only [chargedLines, physCol, hw.colSpare]

/-- The result stands after the verdict and the next operation's entry. -/
theorem ResultStands.written_enterNext (hw : ResultStands s s2 w ck o r rest) {m : State} (hm : m.mem = w.mem)
    (hb : m.bearing = w.bearing) : ResultWritten s s2 (enterNext m) o r (drainRows r ck) :=
  resultWritten_congr hw.written ((enterNext_only m .mem (by decide)).trans hm)
    ((enterNext_only m .bearing (by decide)).trans hb)

/-- Where the verdict leaves Helm alone, the next operation may enter and the others stay. -/
theorem ResultStands.issued_enterNext (hw : ResultStands s s2 w ck o r rest) {m : State}
    (h : m.helm.issued = w.helm.issued) : (enterNext m).helm.issued.map unrun = rest.map unrun := by
  rw [enterNext_issued_unrun, h, hw.issued]

end Result

theorem stream_enterNext (m : State) (sid : Nat) : stream (enterNext m) sid = stream m sid :=
  congrArg (fun x => tget none x sid) (enterNext_only m .streams (by decide))

/-! ### An operation that passed (R105, R108, R297) -/

theorem judged_passed (hv : mismatch ck (verdict o r ck (drainRows r ck)) = false) (w : State) :
    judged w ck o r = passOp w o r := if_neg (by simp [hv])

theorem passOp_step {sid i : Nat} (hsrc : o.src = .step sid i) (hbad : r.bad = false) (w : State) :
    passOp w o r = settled (stepDone (sendPartials w sid i o.step) sid i) := by
  simp [passOp, hsrc, hbad]

theorem passOp_poisoned {sid i : Nat} (hsrc : o.src = .step sid i) (hbad : r.bad = true) (w : State) :
    passOp w o r = settled (failStream w sid .dataError) := by
  simp [passOp, hsrc, hbad]

theorem passOp_build (h : ofStep o = false) (hbad : r.bad = false) (w : State) : passOp w o r = w := by
  cases hsrc : o.src with
  | step sid i => simp [ofStep, hsrc] at h
  | build ix p n j => simp [passOp, hsrc, hbad]

theorem endsNoRequest_congr {u : State} {x : Stream} {n : Nat} (hs : u.streams = s.streams) (hw : u.wp = s.wp)
    (h : EndsNoRequest s x n) : EndsNoRequest u x n := by
  unfold EndsNoRequest NoWaitMet wpMet wpVal stream at h ⊢
  rwa [hs, hw]

/-- The operation of a step that passed: the step completes. -/
theorem operationComplete_passed {sid i : Nat} {x : Stream} (hready : isReady s = true)
    (hiss : s.helm.issued = o :: rest) (hrun : o.run = some r)
    (hv : mismatch ck (verdict o r ck (drainRows r ck)) = false) (hsrc : o.src = .step sid i)
    (hx : stream s sid = some x) (hlt : sid < s.nextSid) (hbad : r.bad = false) (hends : EndsNoRequest s x x.next) :
    ∃ u, exec (.operationComplete t ck empty gap) s = .next u ∧ u.helm.issued.map unrun = rest.map unrun ∧
      ResultWritten s (idleSlots s o empty gap) u o r (drainRows r ck) ∧
      (∀ y, stream u sid = some y → i ∈ y.done) ∧
      ((∀ q, x.req = some q → q.partials.lookup i = none) → u.links = s.links) ∧
      Only ([.streams, .nextSid, .wp, .host, .links] ++ resultFields) s u := by
  obtain ⟨w, hw, hexec⟩ := exec_operationComplete t empty gap ck hready hiss hrun
  refine ⟨_, hexec, ?_⟩
  rw [judged_passed hv, passOp_step hsrc hbad]
  have hresult : Only resultFields s w := hw.frame_step (by simp [ofStep, hsrc])
  have hsent : Only [.links] w (sendPartials w sid i o.step) := sendPartials_only w sid i o.step
  have hwx : stream w sid = some x := (hw.stream_eq sid).trans hx
  have hquiet : (∀ q, x.req = some q → q.partials.lookup i = none) → sendPartials w sid i o.step = w :=
    fun h => sendPartials_none hwx h o.step
  generalize sendPartials w sid i o.step = p at hsent hquiet ⊢
  have hsame : Only (.links :: resultFields) s p := (hresult.mono (by decide)).trans (hsent.mono (by decide))
  have hpx : stream p sid = some x := (congrArg (fun l => tget none l sid) (hsame .streams (by decide))).trans hx
  have hplt : sid < p.nextSid := Nat.lt_of_lt_of_eq hlt (hsame .nextSid (by decide)).symm
  obtain ⟨hruns, hdone⟩ := settled_stepDone i hpx hplt
    (endsNoRequest_congr (hsame .streams (by decide)) (hsame .wp (by decide)) hends)
  generalize settled (stepDone p sid i) = m at hruns hdone ⊢
  have hmid : Only (.links :: settleFields) w m := hsent.andThen (hruns.frame.mono (by decide))
  refine ⟨?_, ?_, ?_, ?_, ?_⟩
  · exact hw.issued_enterNext (congrArg Helm.issued (hmid .helm (by decide)))
  · exact hw.written_enterNext (hmid .mem (by decide)) (hmid .bearing (by decide))
  · intro y hy
    exact hdone y ((stream_enterNext m sid).symm.trans hy)
  · intro hnone
    rw [hquiet hnone] at hruns
    exact (enterNext_only m .links (by decide)).trans ((hruns.frame .links (by decide)).trans (hresult .links (by decide)))
  · exact hsame.andThen ((hruns.frame.mono (by decide)).trans ((enterNext_only m).mono (by decide)))

/-- The operation of a step whose input was poisoned: the stream ends DATA_ERROR. -/
theorem operationComplete_poisoned {sid i : Nat} {x : Stream} (hready : isReady s = true)
    (hiss : s.helm.issued = o :: rest) (hrun : o.run = some r)
    (hv : mismatch ck (verdict o r ck (drainRows r ck)) = false) (hsrc : o.src = .step sid i)
    (hx : stream s sid = some x) (hended : x.ended = none) (hreq : x.req = none) (hbad : r.bad = true)
    (hwait : NoWaitMet s) :
    ∃ u, exec (.operationComplete t ck empty gap) s = .next u ∧ u.helm.issued.map unrun = rest.map unrun ∧
      ResultWritten s (idleSlots s o empty gap) u o r (drainRows r ck) ∧
      (∀ y, stream u sid = some y → y.ended = some .dataError) ∧
      Only ([.streams, .wp, .host] ++ resultFields) s u := by
  obtain ⟨w, hw, hexec⟩ := exec_operationComplete t empty gap ck hready hiss hrun
  refine ⟨_, hexec, ?_⟩
  rw [judged_passed hv, passOp_poisoned hsrc hbad]
  have hresult : Only resultFields s w := hw.frame_step (by simp [ofStep, hsrc])
  have hwp : w.wp = s.wp := hresult .wp (by decide)
  obtain ⟨hruns, hcode⟩ := settled_failStream (st := .dataError) ((hw.stream_eq sid).trans hx) hreq hended rfl
    (noWaitMet_of_fewer hwait (by rw [hwp]) fun a ha => hwp ▸ ha)
  refine ⟨?_, ?_, ?_, ?_⟩
  · exact hw.issued_enterNext (congrArg Helm.issued (hruns.frame .helm (by decide)))
  · exact hw.written_enterNext (hruns.frame .mem (by decide)) (hruns.frame .bearing (by decide))
  · intro y hy
    exact hcode y ((stream_enterNext _ sid).symm.trans hy)
  · exact hresult.andThen ((hruns.frame.mono (by decide)).trans ((enterNext_only _).mono (by decide)))

/-- The operation of a table build that passed: only its columns are written. -/
theorem operationComplete_build (hready : isReady s = true) (hiss : s.helm.issued = o :: rest) (hrun : o.run = some r)
    (hv : mismatch ck (verdict o r ck (drainRows r ck)) = false) (hbuild : ofStep o = false) (hbad : r.bad = false) :
    ∃ u, exec (.operationComplete t ck empty gap) s = .next u ∧ u.helm.issued.map unrun = rest.map unrun ∧
      ResultWritten s (idleSlots s o empty gap) u o r (drainRows r ck) ∧ Only (.bearing :: resultFields) s u := by
  obtain ⟨w, hw, hexec⟩ := exec_operationComplete t empty gap ck hready hiss hrun
  refine ⟨_, hexec, ?_⟩
  rw [judged_passed hv, passOp_build hbuild hbad]
  exact ⟨hw.issued_enterNext rfl, hw.written_enterNext rfl rfl,
    hw.frame.trans ((enterNext_only w).mono (by decide))⟩

/-! ### An operation that mismatched (R116-R119) -/

theorem judged_mismatched (hv : mismatch ck (verdict o r ck (drainRows r ck)) = true) (w : State) :
    judged w ck o r = mismatchOp w o ck (verdict o r ck (drainRows r ck)) := if_pos hv

/-- R117: the operation is first to run again, but for re-executions before it; those not entered yet go behind it. -/
def reexecuted (s : State) (o : ArrayOp) : State :=
  { s with helm := { s.helm with
      issued := s.helm.issued.filter (·.run.isSome)
      swap := none
      rerun := s.helm.rerun.filter (·.rerun) ++ [{ o with rerun := true, paid := false, run := none }]
        ++ s.helm.rerun.filter (!·.rerun) ++ heldOps s } }

theorem heldOps_eq (s : State) : heldOps s = s.helm.issued.filter (·.run.isNone) ++ (s.helm.swap.map (·.2)).toList := by
  unfold heldOps
  cases s.helm.swap with
  | none => rfl
  | some x => rfl

theorem mismatchOp_first (h : o.rerun = false) (s : State) (v : OpVerdict) :
    mismatchOp s o ck v = reexecuted (linesCharged s o (chargedLines s ck v)) o := by
  simp only [mismatchOp, h, Bool.not_false, if_true]
  rfl

theorem mismatchOp_second {sid i : Nat} (h : o.rerun = true) (hsrc : o.src = .step sid i) (s : State) (v : OpVerdict) :
    mismatchOp s o ck v = settled (failStream (linesGivenUp s o (chargedLines s ck v)) sid .checkMismatch) := by
  simp only [mismatchOp, h, Bool.not_true, Bool.false_eq_true, if_false, endOp, hsrc]
  rfl

/-- What a mismatch may change beside the result. -/
abbrev mismatchFields : List StateField := [.faults, .boot, .flash, .pins, .host, .links, .lb]

/-- The first mismatch of an operation: it is re-executed. -/
theorem operationComplete_reexecutes (hready : isReady s = true) (hiss : s.helm.issued = o :: rest) (hrun : o.run = some r)
    (hv : mismatch ck (verdict o r ck (drainRows r ck)) = true) (hfirst : o.rerun = false) :
    ∃ u, exec (.operationComplete t ck empty gap) s = .next u ∧ u.helm.issued = rest.filter (·.run.isSome) ∧
      u.helm.rerun = s.helm.rerun.filter (·.rerun) ++ [{ o with rerun := true, paid := false, run := none }]
        ++ s.helm.rerun.filter (!·.rerun) ++ rest.filter (·.run.isNone) ++ (s.helm.swap.map (·.2)).toList ∧
      u.helm.swap = none ∧ ResultWritten s (idleSlots s o empty gap) u o r (drainRows r ck) ∧
      Only (.bearing :: resultFields ++ mismatchFields) s u := by
  obtain ⟨w, hw, hexec⟩ := exec_operationComplete t empty gap ck hready hiss hrun
  refine ⟨_, hexec, ?_⟩
  rw [judged_mismatched hv, mismatchOp_first hfirst]
  have hlines := linesCharged_only w o (chargedLines w ck (verdict o r ck (drainRows r ck)))
  have hops := linesCharged_sameOps w o (chargedLines w ck (verdict o r ck (drainRows r ck)))
  generalize linesCharged w o (chargedLines w ck (verdict o r ck (drainRows r ck))) = c at hlines hops ⊢
  have hissued : c.helm.issued = rest := hops.issued.trans hw.issued
  have hentered : (reexecuted c o).helm.issued = rest.filter (·.run.isSome) :=
    congrArg (List.filter _) hissued
  have hnext : enterNext (reexecuted c o) = reexecuted c o := by
    refine enterNext_of_all_entered fun a ha => ?_
    rw [hentered] at ha
    exact (List.mem_filter.mp ha).2
  have hhelm : Only [.helm] c (reexecuted c o) := setHelm_only _ _
  have hmid : Only lineFaultFields w (reexecuted c o) := hlines.trans (hhelm.mono (by decide))
  have hwritten := hw.written_enterNext (hmid .mem (by decide)) (hmid .bearing (by decide))
  rw [hnext] at hwritten ⊢
  refine ⟨hentered, ?_, rfl, hwritten, hw.frame.andThen (hmid.mono (by decide))⟩
  show c.helm.rerun.filter (·.rerun) ++ [{ o with rerun := true, paid := false, run := none }]
    ++ c.helm.rerun.filter (!·.rerun) ++ heldOps c = _
  rw [heldOps_eq, hissued, hops.rerun.trans hw.rerun, hops.swap.trans hw.swap, List.append_assoc _ (rest.filter _)]

/-- The second mismatch of an operation: its lines are suspect and its stream ends CHECK_MISMATCH. -/
theorem operationComplete_mismatches {sid i : Nat} {x : Stream} (hready : isReady s = true)
    (hiss : s.helm.issued = o :: rest) (hrun : o.run = some r)
    (hv : mismatch ck (verdict o r ck (drainRows r ck)) = true) (hsecond : o.rerun = true) (hsrc : o.src = .step sid i)
    (hx : stream s sid = some x) (hended : x.ended = none) (hreq : x.req = none) (hwait : NoWaitMet s) :
    ∃ u, exec (.operationComplete t ck empty gap) s = .next u ∧ u.helm.issued.map unrun = rest.map unrun ∧
      (∀ l ∈ chargedLines s ck (verdict o r ck (drainRows r ck)), l ∈ u.array.suspect) ∧
      ResultWritten s (idleSlots s o empty gap) u o r (drainRows r ck) ∧
      (∀ y, stream u sid = some y → y.ended = some .checkMismatch) ∧
      Only ([.streams, .wp] ++ resultFields ++ mismatchFields) s u := by
  obtain ⟨w, hw, hexec⟩ := exec_operationComplete t empty gap ck hready hiss hrun
  refine ⟨_, hexec, ?_⟩
  rw [judged_mismatched hv, mismatchOp_second hsecond hsrc, hw.chargedLines_eq]
  have hresult : Only resultFields s w := hw.frame_step (by simp [ofStep, hsrc])
  generalize chargedLines s ck (verdict o r ck (drainRows r ck)) = lines
  have hlines := linesGivenUp_only w o lines
  have hops := (linesGivenUp_sameOps w o lines).issued
  have hsuspect := mem_suspect_linesGivenUp w o lines
  generalize linesGivenUp w o lines = c at hlines hops hsuspect ⊢
  have hsame : Only (.array :: lineFaultFields ++ resultFields) s c :=
    (hresult.mono (by decide)).trans (hlines.mono (by decide))
  have hcx : stream c sid = some x := (congrArg (fun l => tget none l sid) (hsame .streams (by decide))).trans hx
  have hcwp : c.wp = s.wp := hsame .wp (by decide)
  obtain ⟨hruns, hcode⟩ := settled_failStream (st := .checkMismatch) hcx hreq hended rfl
    (noWaitMet_of_fewer hwait (by rw [hcwp]) fun a ha => hcwp ▸ ha)
  generalize settled (failStream c sid .checkMismatch) = m at hruns hcode ⊢
  have hmid : Only (.array :: lineFaultFields ++ streamEndFields) w m :=
    (hlines.mono (by decide)).trans (hruns.frame.mono (by decide))
  refine ⟨?_, ?_, ?_, ?_, ?_⟩
  · exact hw.issued_enterNext ((congrArg Helm.issued (hruns.frame .helm (by decide))).trans hops)
  · intro l hl
    have harray : m.array = c.array := hruns.frame .array (by decide)
    rw [enterNext_suspect, harray]
    exact hsuspect l hl
  · exact hw.written_enterNext (hmid .mem (by decide)) (hmid .bearing (by decide))
  · intro y hy
    exact hcode y ((stream_enterNext m sid).symm.trans hy)
  · exact (hresult.mono (by decide)).trans ((hmid.mono (by decide)).trans ((enterNext_only m).mono (by decide)))

end Completion

/-- Settles O25: one lemma for each verdict, all of them over the state in which the result has been written. -/
theorem arrayResultsAreWrittenOrReexecuted : Obligations.ArrayResultsAreWrittenOrReexecuted := by
  unfold Obligations.ArrayResultsAreWrittenOrReexecuted
  intro s t empty gap ck o r rest hready hiss hrun ys v s2 frame bad
  refine ⟨?_, ?_, ?_, ?_, ?_⟩
  · intro sid i x hv hsrc hx _ hlt hbad hends
    exact operationComplete_passed hready hiss hrun hv hsrc hx hlt hbad hends
  · intro sid i x hv hsrc hx hended hreq hbad hwait
    exact operationComplete_poisoned hready hiss hrun hv hsrc hx hended hreq hbad hwait
  · intro hv hbuild hbad
    exact operationComplete_build hready hiss hrun hv hbuild hbad
  · intro hv hfirst
    exact operationComplete_reexecutes hready hiss hrun hv hfirst
  · intro sid i x hv hsecond hsrc hx hended hreq hwait
    exact operationComplete_mismatches hready hiss hrun hv hsecond hsrc hx hended hreq hwait

end Sys2Proof.Machine
end
